-- ==== Sys2Proof/Word.lean ====
section
/-! DEFINITION. The word types of the 80386SX (00_scope.md R9): a byte is 8 bits, a word 16, a dword 32. -/

namespace Sys2Proof

/-- A byte, 8 bits (R9). -/
abbrev Byte := BitVec 8

/-- A word, 16 bits (R9). -/
abbrev Word := BitVec 16

/-- A dword (doubleword), 32 bits (R9). -/
abbrev Dword := BitVec 32

/-- The one-bit vector of a truth value. -/
abbrev bit (b : Bool) : BitVec 1 := BitVec.ofBool b

end Sys2Proof
end

