-- ==== Sys2Proof/Syntax.lean ====
section
/-! DEFINITION. The syntax of the 80386SX: operands and the one inductive of instructions, one constructor for each row of
spec/opcode_table.json (30_encoding.md R200 to R222). -/

namespace Sys2Proof

/-- The eight general registers in the order of their numbers 000 to 111 (R212). As an 8-bit operand the numbers 100 to
111 name AH, CH, DH, BH; as a 16-bit operand they name SP, BP, SI, DI. -/
inductive Reg where
  | eax | ecx | edx | ebx | esp | ebp | esi | edi
  deriving DecidableEq, Repr

/-- The six segment registers in the order of `sreg3` (R213). -/
inductive SReg where
  | es | cs | ss | ds | fs | gs
  deriving DecidableEq, Repr

/-- The four segment registers of `sreg2` (R213). -/
inductive SReg2 where
  | es | cs | ss | ds
  deriving DecidableEq, Repr

/-- The control registers an `eee` field names (R214). -/
inductive CReg where
  | cr0 | cr2 | cr3
  deriving DecidableEq, Repr

/-- The debug registers of an `eee` field (R214); DR4 and DR5 are reserved (R69). -/
inductive DReg where
  | dr0 | dr1 | dr2 | dr3 | dr4 | dr5 | dr6 | dr7
  deriving DecidableEq, Repr

/-- The test registers an `eee` field names (R214). -/
inductive TReg where
  | tr6 | tr7
  deriving DecidableEq, Repr

/-- The sixteen conditions `tttn` (R218, R449). -/
inductive Cond where
  | o | no | b | nb | e | ne | be | nbe | s | ns | p | np | l | nl | le | nle
  deriving DecidableEq, Repr

/-- The base and index combinations of 16-bit addressing, by r/m number (R215). -/
inductive Base16 where
  | bxsi | bxdi | bpsi | bpdi | si | di | bp | bx
  deriving DecidableEq, Repr

/-- A displacement of 16-bit addressing (R215). -/
inductive Disp16 where
  | none
  | d8 (d : Byte)
  | d16 (d : Word)
  deriving DecidableEq, Repr

/-- A displacement of 32-bit addressing (R215). -/
inductive Disp32 where
  | none
  | d8 (d : Byte)
  | d32 (d : Dword)
  deriving DecidableEq, Repr

/-- The scale factor of the s-i-b byte (R216). -/
inductive Scale where
  | x1 | x2 | x4 | x8
  deriving DecidableEq, Repr

/-- A memory operand (R215, R216). The first two forms are 16-bit addressing, the others 32-bit addressing. -/
inductive Mem where
  | direct16 (d : Word)
  | base16 (b : Base16) (d : Disp16)
  | direct32 (d : Dword)
  | base32 (b : Reg) (d : Disp32)
  | sib (scale : Scale) (index : Option Reg) (base : Reg) (d : Disp32)
  | sibNoBase (scale : Scale) (index : Option Reg) (d : Dword)
  deriving DecidableEq, Repr

/-- The r/m operand: a register (mod = 11) or memory (R211). -/
inductive RM where
  | reg (r : Reg)
  | mem (m : Mem)
  deriving DecidableEq, Repr

/-- A datum of 1, 2 or 4 bytes inside an instruction: an immediate, a full displacement or the offset of a far
pointer (R209). -/
inductive Imm where
  | i8 (v : Byte)
  | i16 (v : Word)
  | i32 (v : Dword)
  deriving DecidableEq, Repr

/-- One constructor for each row of spec/opcode_table.json. Names: `w` is the width bit, `d` the direction bit, `s` the
sign-extend bit (R208). -/
inductive Instr where
  /-- MOV r/m, reg (R261). -/
  | movRmReg (w : Bool) (dst : RM) (src : Reg)
  /-- MOV reg, r/m (R262). -/
  | movRegRm (w : Bool) (dst : Reg) (src : RM)
  /-- MOV r/m, immediate (R263). -/
  | movRmImm (w : Bool) (dst : RM) (imm : Imm)
  /-- MOV reg, immediate, short form (R264). -/
  | movRegImm (w : Bool) (dst : Reg) (imm : Imm)
  /-- MOV accumulator, memory, short form (R265). -/
  | movAccMoffs (w : Bool) (off : Imm)
  /-- MOV memory, accumulator, short form (R266). -/
  | movMoffsAcc (w : Bool) (off : Imm)
  /-- MOV sreg, r/m (R267). -/
  | movSregRm (dst : SReg) (src : RM)
  /-- MOV r/m, sreg (R268). -/
  | movRmSreg (dst : RM) (src : SReg)
  /-- MOVSX reg, r/m (R269). -/
  | movsx (w : Bool) (dst : Reg) (src : RM)
  /-- MOVZX reg, r/m (R271). -/
  | movzx (w : Bool) (dst : Reg) (src : RM)
  /-- PUSH r/m (R272). -/
  | pushRm (src : RM)
  /-- PUSH reg, short form (R273). -/
  | pushReg (src : Reg)
  /-- PUSH ES, CS, SS, DS (R274). -/
  | pushSreg (src : SReg2)
  /-- PUSH FS (R275). -/
  | pushFs
  /-- PUSH GS (R275). -/
  | pushGs
  /-- PUSH immediate (R276). -/
  | pushImm (s : Bool) (imm : Imm)
  /-- PUSHA, PUSHAD (R277). -/
  | pusha
  /-- POP r/m (R278). -/
  | popRm (dst : RM)
  /-- POP reg, short form (R279). -/
  | popReg (dst : Reg)
  /-- POP ES (R280). -/
  | popEs
  /-- POP SS (R280). -/
  | popSs
  /-- POP DS (R280). -/
  | popDs
  /-- POP FS (R281). -/
  | popFs
  /-- POP GS (R281). -/
  | popGs
  /-- POPA, POPAD (R282). -/
  | popa
  /-- XCHG r/m, reg (R283). -/
  | xchgRmReg (w : Bool) (rm : RM) (reg : Reg)
  /-- XCHG reg, accumulator, short form (R284); number 000 is NOP. -/
  | xchgRegAcc (reg : Reg)
  /-- IN accumulator, fixed port (R285). -/
  | inImm (w : Bool) (port : Byte)
  /-- IN accumulator, DX (R286). -/
  | inDx (w : Bool)
  /-- OUT fixed port, accumulator (R287). -/
  | outImm (w : Bool) (port : Byte)
  /-- OUT DX, accumulator (R288). -/
  | outDx (w : Bool)
  /-- LEA reg, m (R289). -/
  | lea (dst : Reg) (src : Mem)
  /-- LDS reg, m (R301). -/
  | lds (dst : Reg) (src : Mem)
  /-- LES reg, m (R302). -/
  | les (dst : Reg) (src : Mem)
  /-- LFS reg, m (R303). -/
  | lfs (dst : Reg) (src : Mem)
  /-- LGS reg, m (R304). -/
  | lgs (dst : Reg) (src : Mem)
  /-- LSS reg, m (R305). -/
  | lss (dst : Reg) (src : Mem)
  /-- CLC (R311). -/
  | clc
  /-- CLD (R312). -/
  | cld
  /-- CLI (R313). -/
  | cli
  /-- CLTS (R314). -/
  | clts
  /-- CMC (R315). -/
  | cmc
  /-- LAHF (R316). -/
  | lahf
  /-- POPF, POPFD (R317). -/
  | popf
  /-- PUSHF, PUSHFD (R318). -/
  | pushf
  /-- SAHF (R319). -/
  | sahf
  /-- STI (R320). -/
  | sti
  /-- STC (R321). -/
  | stc
  /-- STD (R322). -/
  | std
  /-- ADD r/m, reg (d = 0) or reg, r/m (d = 1) (R331). -/
  | addRmReg (d w : Bool) (rm : RM) (reg : Reg)
  /-- ADD r/m, immediate (R331). -/
  | addRmImm (s w : Bool) (rm : RM) (imm : Imm)
  /-- ADD accumulator, immediate (R331). -/
  | addAccImm (w : Bool) (imm : Imm)
  /-- ADC r/m, reg (d = 0) or reg, r/m (d = 1) (R332). -/
  | adcRmReg (d w : Bool) (rm : RM) (reg : Reg)
  /-- ADC r/m, immediate (R332). -/
  | adcRmImm (s w : Bool) (rm : RM) (imm : Imm)
  /-- ADC accumulator, immediate (R332). -/
  | adcAccImm (w : Bool) (imm : Imm)
  /-- SUB r/m, reg (d = 0) or reg, r/m (d = 1) (R334). -/
  | subRmReg (d w : Bool) (rm : RM) (reg : Reg)
  /-- SUB r/m, immediate (R334). -/
  | subRmImm (s w : Bool) (rm : RM) (imm : Imm)
  /-- SUB accumulator, immediate (R334). -/
  | subAccImm (w : Bool) (imm : Imm)
  /-- SBB r/m, reg (d = 0) or reg, r/m (d = 1) (R335). -/
  | sbbRmReg (d w : Bool) (rm : RM) (reg : Reg)
  /-- SBB r/m, immediate (R335). -/
  | sbbRmImm (s w : Bool) (rm : RM) (imm : Imm)
  /-- SBB accumulator, immediate (R335). -/
  | sbbAccImm (w : Bool) (imm : Imm)
  /-- CMP r/m, reg (d = 0) or reg, r/m (d = 1) (R337). -/
  | cmpRmReg (d w : Bool) (rm : RM) (reg : Reg)
  /-- CMP r/m, immediate (R337). -/
  | cmpRmImm (s w : Bool) (rm : RM) (imm : Imm)
  /-- CMP accumulator, immediate (R337). -/
  | cmpAccImm (w : Bool) (imm : Imm)
  /-- INC r/m (R333). -/
  | incRm (w : Bool) (rm : RM)
  /-- INC reg, short form (R333). -/
  | incReg (reg : Reg)
  /-- DEC r/m (R336). -/
  | decRm (w : Bool) (rm : RM)
  /-- DEC reg, short form (R336). -/
  | decReg (reg : Reg)
  /-- NEG r/m (R338). -/
  | negRm (w : Bool) (rm : RM)
  /-- AAA (R339). -/
  | aaa
  /-- AAS (R340). -/
  | aas
  /-- DAA (R341). -/
  | daa
  /-- DAS (R342). -/
  | das
  /-- MUL accumulator, r/m (R343). -/
  | mulAcc (w : Bool) (src : RM)
  /-- IMUL accumulator, r/m (R344). -/
  | imulAcc (w : Bool) (src : RM)
  /-- IMUL reg, r/m (R345). -/
  | imulRegRm (dst : Reg) (src : RM)
  /-- IMUL reg, r/m, immediate (R346). -/
  | imulRegRmImm (s : Bool) (dst : Reg) (src : RM) (imm : Imm)
  /-- DIV accumulator, r/m (R347). -/
  | divAcc (w : Bool) (src : RM)
  /-- IDIV accumulator, r/m (R348). -/
  | idivAcc (w : Bool) (src : RM)
  /-- AAD (R366). -/
  | aad
  /-- AAM (R367). -/
  | aam
  /-- CBW, CWDE (R368). -/
  | cbw
  /-- CWD, CDQ (R369). -/
  | cwd
  /-- ROL r/m, 1 (R381). -/
  | rolOne (w : Bool) (rm : RM)
  /-- ROL r/m, CL (R381). -/
  | rolCl (w : Bool) (rm : RM)
  /-- ROL r/m, imm8 (R381). -/
  | rolImm (w : Bool) (rm : RM) (count : Byte)
  /-- ROR r/m, 1 (R382). -/
  | rorOne (w : Bool) (rm : RM)
  /-- ROR r/m, CL (R382). -/
  | rorCl (w : Bool) (rm : RM)
  /-- ROR r/m, imm8 (R382). -/
  | rorImm (w : Bool) (rm : RM) (count : Byte)
  /-- RCL r/m, 1 (R383). -/
  | rclOne (w : Bool) (rm : RM)
  /-- RCL r/m, CL (R383). -/
  | rclCl (w : Bool) (rm : RM)
  /-- RCL r/m, imm8 (R383). -/
  | rclImm (w : Bool) (rm : RM) (count : Byte)
  /-- RCR r/m, 1 (R384). -/
  | rcrOne (w : Bool) (rm : RM)
  /-- RCR r/m, CL (R384). -/
  | rcrCl (w : Bool) (rm : RM)
  /-- RCR r/m, imm8 (R384). -/
  | rcrImm (w : Bool) (rm : RM) (count : Byte)
  /-- SHL r/m, 1 (R385). -/
  | shlOne (w : Bool) (rm : RM)
  /-- SHL r/m, CL (R385). -/
  | shlCl (w : Bool) (rm : RM)
  /-- SHL r/m, imm8 (R385). -/
  | shlImm (w : Bool) (rm : RM) (count : Byte)
  /-- SHR r/m, 1 (R386). -/
  | shrOne (w : Bool) (rm : RM)
  /-- SHR r/m, CL (R386). -/
  | shrCl (w : Bool) (rm : RM)
  /-- SHR r/m, imm8 (R386). -/
  | shrImm (w : Bool) (rm : RM) (count : Byte)
  /-- SAR r/m, 1 (R387). -/
  | sarOne (w : Bool) (rm : RM)
  /-- SAR r/m, CL (R387). -/
  | sarCl (w : Bool) (rm : RM)
  /-- SAR r/m, imm8 (R387). -/
  | sarImm (w : Bool) (rm : RM) (count : Byte)
  /-- SHLD r/m, reg, imm8 (R388). -/
  | shldImm (rm : RM) (reg : Reg) (count : Byte)
  /-- SHLD r/m, reg, CL (R388). -/
  | shldCl (rm : RM) (reg : Reg)
  /-- SHRD r/m, reg, imm8 (R389). -/
  | shrdImm (rm : RM) (reg : Reg) (count : Byte)
  /-- SHRD r/m, reg, CL (R389). -/
  | shrdCl (rm : RM) (reg : Reg)
  /-- AND r/m, reg (d = 0) or reg, r/m (d = 1) (R391). -/
  | andRmReg (d w : Bool) (rm : RM) (reg : Reg)
  /-- AND r/m, immediate (R391). -/
  | andRmImm (w : Bool) (rm : RM) (imm : Imm)
  /-- AND r/m, sign-extended byte (R391, R390). -/
  | andRmImm8 (rm : RM) (imm : Byte)
  /-- AND accumulator, immediate (R391). -/
  | andAccImm (w : Bool) (imm : Imm)
  /-- OR r/m, reg (d = 0) or reg, r/m (d = 1) (R393). -/
  | orRmReg (d w : Bool) (rm : RM) (reg : Reg)
  /-- OR r/m, immediate (R393). -/
  | orRmImm (w : Bool) (rm : RM) (imm : Imm)
  /-- OR r/m, sign-extended byte (R393, R390). -/
  | orRmImm8 (rm : RM) (imm : Byte)
  /-- OR accumulator, immediate (R393). -/
  | orAccImm (w : Bool) (imm : Imm)
  /-- XOR r/m, reg (d = 0) or reg, r/m (d = 1) (R394). -/
  | xorRmReg (d w : Bool) (rm : RM) (reg : Reg)
  /-- XOR r/m, immediate (R394). -/
  | xorRmImm (w : Bool) (rm : RM) (imm : Imm)
  /-- XOR r/m, sign-extended byte (R394, R390). -/
  | xorRmImm8 (rm : RM) (imm : Byte)
  /-- XOR accumulator, immediate (R394). -/
  | xorAccImm (w : Bool) (imm : Imm)
  /-- TEST r/m, reg (R392). -/
  | testRmReg (w : Bool) (rm : RM) (reg : Reg)
  /-- TEST r/m, immediate (R392). -/
  | testRmImm (w : Bool) (rm : RM) (imm : Imm)
  /-- TEST accumulator, immediate (R392). -/
  | testAccImm (w : Bool) (imm : Imm)
  /-- NOT r/m (R395). -/
  | notRm (w : Bool) (rm : RM)
  /-- CMPSB, CMPSW, CMPSD (R411). -/
  | cmps (w : Bool)
  /-- INSB, INSW, INSD (R412). -/
  | ins (w : Bool)
  /-- LODSB, LODSW, LODSD (R413). -/
  | lods (w : Bool)
  /-- MOVSB, MOVSW, MOVSD (R414). -/
  | movs (w : Bool)
  /-- OUTSB, OUTSW, OUTSD (R415). -/
  | outs (w : Bool)
  /-- SCASB, SCASW, SCASD (R416). -/
  | scas (w : Bool)
  /-- STOSB, STOSW, STOSD (R417). -/
  | stos (w : Bool)
  /-- XLAT (R418). -/
  | xlat
  /-- the prefix F3H (R203, R420). -/
  | repPrefix
  /-- the prefix F2H (R203, R420). -/
  | repnePrefix
  /-- BSF reg, r/m (R431). -/
  | bsf (dst : Reg) (src : RM)
  /-- BSR reg, r/m (R432). -/
  | bsr (dst : Reg) (src : RM)
  /-- BT r/m, imm8 (R433). -/
  | btImm (rm : RM) (off : Byte)
  /-- BT r/m, reg (R433). -/
  | btReg (rm : RM) (reg : Reg)
  /-- BTC r/m, imm8 (R434). -/
  | btcImm (rm : RM) (off : Byte)
  /-- BTC r/m, reg (R434). -/
  | btcReg (rm : RM) (reg : Reg)
  /-- BTR r/m, imm8 (R435). -/
  | btrImm (rm : RM) (off : Byte)
  /-- BTR r/m, reg (R435). -/
  | btrReg (rm : RM) (reg : Reg)
  /-- BTS r/m, imm8 (R436). -/
  | btsImm (rm : RM) (off : Byte)
  /-- BTS r/m, reg (R436). -/
  | btsReg (rm : RM) (reg : Reg)
  /-- CALL direct within segment (R442). -/
  | callRel (disp : Imm)
  /-- CALL indirect within segment (R443). -/
  | callRm (target : RM)
  /-- JMP short (R444). -/
  | jmpShort (disp : Byte)
  /-- JMP direct within segment (R445). -/
  | jmpRel (disp : Imm)
  /-- JMP indirect within segment (R446). -/
  | jmpRm (target : RM)
  /-- RET within segment (R447). -/
  | retNear
  /-- RET within segment adding immediate to SP (R448). -/
  | retNearImm (bytes : Word)
  /-- Jcc, 8-bit displacement (R449). -/
  | jccShort (c : Cond) (disp : Byte)
  /-- Jcc, full displacement (R449). -/
  | jccNear (c : Cond) (disp : Imm)
  /-- JCXZ, JECXZ (R450). -/
  | jcxz (disp : Byte)
  /-- LOOP (R451). -/
  | loop (disp : Byte)
  /-- LOOPZ, LOOPE (R451). -/
  | loopz (disp : Byte)
  /-- LOOPNZ, LOOPNE (R451). -/
  | loopnz (disp : Byte)
  /-- CALL direct intersegment (R452, R457). -/
  | callFar (off : Imm) (sel : Word)
  /-- CALL indirect intersegment (R453). -/
  | callFarMem (target : Mem)
  /-- JMP direct intersegment (R454, R457). -/
  | jmpFar (off : Imm) (sel : Word)
  /-- JMP indirect intersegment (R455). -/
  | jmpFarMem (target : Mem)
  /-- RET intersegment (R456, R460). -/
  | retFar
  /-- RET intersegment adding immediate to SP (R456, R460). -/
  | retFarImm (bytes : Word)
  /-- SETcc r/m8 (R480). -/
  | setcc (c : Cond) (dst : RM)
  /-- ENTER (R481). -/
  | enter (size : Word) (level : Byte)
  /-- LEAVE (R482). -/
  | leave
  /-- INT n (R491). -/
  | int (vector : Byte)
  /-- INT 3 (R492). -/
  | int3
  /-- INTO (R493). -/
  | into
  /-- BOUND reg, m (R494). -/
  | bound (index : Reg) (bounds : Mem)
  /-- IRET, IRETD (R495 to R497). -/
  | iret
  /-- HLT (R511). -/
  | hlt
  /-- MOV CRn, reg (R514). -/
  | movCrReg (dst : CReg) (src : Reg)
  /-- MOV reg, CRn (R515). -/
  | movRegCr (dst : Reg) (src : CReg)
  /-- MOV DRn, reg (R516). -/
  | movDrReg (dst : DReg) (src : Reg)
  /-- MOV reg, DRn (R517). -/
  | movRegDr (dst : Reg) (src : DReg)
  /-- MOV TRn, reg (R518). -/
  | movTrReg (dst : TReg) (src : Reg)
  /-- MOV reg, TRn (R519). -/
  | movRegTr (dst : Reg) (src : TReg)
  /-- NOP (R520). -/
  | nop
  /-- WAIT (R521). -/
  | wait
  /-- ESC (R220, R522). -/
  | esc (ttt lll : BitVec 3) (rm : RM)
  /-- the prefix 67H (R203). -/
  | addressSizePrefix
  /-- the prefix F0H (R142, R203). -/
  | lockPrefix
  /-- the prefix 66H (R203). -/
  | operandSizePrefix
  /-- the prefix 2EH (R203, R204). -/
  | csPrefix
  /-- the prefix 3EH (R203, R204). -/
  | dsPrefix
  /-- the prefix 26H (R203, R204). -/
  | esPrefix
  /-- the prefix 64H (R203, R204). -/
  | fsPrefix
  /-- the prefix 65H (R203, R204). -/
  | gsPrefix
  /-- the prefix 36H (R203, R204). -/
  | ssPrefix
  /-- ARPL r/m16, r16 (R542). -/
  | arpl (dst : RM) (src : Reg)
  /-- LAR reg, r/m16 (R543). -/
  | lar (dst : Reg) (src : RM)
  /-- LGDT m (R544). -/
  | lgdt (src : Mem)
  /-- LIDT m (R545). -/
  | lidt (src : Mem)
  /-- LLDT r/m16 (R546). -/
  | lldt (src : RM)
  /-- LMSW r/m16 (R547). -/
  | lmsw (src : RM)
  /-- LSL reg, r/m16 (R548). -/
  | lsl (dst : Reg) (src : RM)
  /-- LTR r/m16 (R549). -/
  | ltr (src : RM)
  /-- SGDT m (R550). -/
  | sgdt (dst : Mem)
  /-- SIDT m (R551). -/
  | sidt (dst : Mem)
  /-- SLDT r/m16 (R552). -/
  | sldt (dst : RM)
  /-- SMSW r/m16 (R553). -/
  | smsw (dst : RM)
  /-- STR r/m16 (R554). -/
  | str (dst : RM)
  /-- VERR r/m16 (R555). -/
  | verr (src : RM)
  /-- VERW r/m16 (R556). -/
  | verw (src : RM)
  deriving DecidableEq, Repr

end Sys2Proof
end

