-- ==== Sys2Proof/WellFormed.lean ====
section
/-! DEFINITION. Which terms of the syntax have an encoding under a given operand and address size. -/

namespace Sys2Proof

/-- The sizes an instruction is decoded under (30_encoding.md R206): `os32` and `as32` say 32 bits. -/
structure Ctx where
  os32 : Bool
  as32 : Bool
  deriving DecidableEq, Repr

/-- An immediate of one byte (R209). -/
def Imm.isByte : Imm → Bool
  | .i8 _ => true
  | .i16 _ => false
  | .i32 _ => false

/-- A datum of 2 bytes, or of 4 when `wide` (R209). -/
def Imm.isFull (wide : Bool) : Imm → Bool
  | .i8 _ => false
  | .i16 _ => !wide
  | .i32 _ => wide

/-- The immediate that accompanies an operand of width bit `w` (R209). -/
def Imm.fits (c : Ctx) (w : Bool) (i : Imm) : Bool :=
  if w then i.isFull c.os32 else i.isByte

/-- A memory operand that the mod r/m byte, s-i-b byte and displacement of the address size can name: [BP] and [EBP]
need a displacement, ESP is neither an index nor a base without an s-i-b byte (R215, R216). -/
def Mem.wf (c : Ctx) : Mem → Bool
  | .direct16 _ => !c.as32
  | .base16 b d => !c.as32 && !(b == .bp && d == .none)
  | .direct32 _ => c.as32
  | .base32 b d => c.as32 && b != .esp && !(b == .ebp && d == .none)
  | .sib _ x b d => c.as32 && x != some .esp && !(b == .ebp && d == .none)
  | .sibNoBase _ x _ => c.as32 && x != some .esp

/-- A register is always encodable; memory by `Mem.wf`. -/
def RM.wf (c : Ctx) : RM → Bool
  | .reg _ => true
  | .mem m => m.wf c

/-- The instruction has an encoding under the sizes `c`: its immediates have the width its row asks for, its memory operand
is encodable, MOV does not write CS (R246), and XCHG eAX, eAX is written NOP (R248). -/
def Instr.wf (c : Ctx) : Instr → Bool
  | .movRmReg _ m _ => m.wf c
  | .movRegRm _ _ m => m.wf c
  | .movRmImm w rm imm => rm.wf c && imm.fits c w
  | .movRegImm w _ imm => imm.fits c w
  | .movAccMoffs _ off => off.isFull c.as32
  | .movMoffsAcc _ off => off.isFull c.as32
  | .movSregRm dst rm => dst != .cs && rm.wf c
  | .movRmSreg m _ => m.wf c
  | .movsx _ _ m => m.wf c
  | .movzx _ _ m => m.wf c
  | .pushRm m => m.wf c
  | .pushReg _ => true
  | .pushSreg _ => true
  | .pushFs => true
  | .pushGs => true
  | .pushImm s imm => if s then imm.isByte else imm.isFull c.os32
  | .pusha => true
  | .popRm m => m.wf c
  | .popReg _ => true
  | .popEs => true
  | .popSs => true
  | .popDs => true
  | .popFs => true
  | .popGs => true
  | .popa => true
  | .xchgRmReg _ m _ => m.wf c
  | .xchgRegAcc reg => reg != .eax
  | .inImm _ _ => true
  | .inDx _ => true
  | .outImm _ _ => true
  | .outDx _ => true
  | .lea _ m => m.wf c
  | .lds _ m => m.wf c
  | .les _ m => m.wf c
  | .lfs _ m => m.wf c
  | .lgs _ m => m.wf c
  | .lss _ m => m.wf c
  | .clc => true
  | .cld => true
  | .cli => true
  | .clts => true
  | .cmc => true
  | .lahf => true
  | .popf => true
  | .pushf => true
  | .sahf => true
  | .sti => true
  | .stc => true
  | .std => true
  | .addRmReg _ _ m _ => m.wf c
  | .addRmImm s w rm imm => rm.wf c && imm.fits c (w && !s)
  | .addAccImm w imm => imm.fits c w
  | .adcRmReg _ _ m _ => m.wf c
  | .adcRmImm s w rm imm => rm.wf c && imm.fits c (w && !s)
  | .adcAccImm w imm => imm.fits c w
  | .subRmReg _ _ m _ => m.wf c
  | .subRmImm s w rm imm => rm.wf c && imm.fits c (w && !s)
  | .subAccImm w imm => imm.fits c w
  | .sbbRmReg _ _ m _ => m.wf c
  | .sbbRmImm s w rm imm => rm.wf c && imm.fits c (w && !s)
  | .sbbAccImm w imm => imm.fits c w
  | .cmpRmReg _ _ m _ => m.wf c
  | .cmpRmImm s w rm imm => rm.wf c && imm.fits c (w && !s)
  | .cmpAccImm w imm => imm.fits c w
  | .incRm _ m => m.wf c
  | .incReg _ => true
  | .decRm _ m => m.wf c
  | .decReg _ => true
  | .negRm _ m => m.wf c
  | .aaa => true
  | .aas => true
  | .daa => true
  | .das => true
  | .mulAcc _ m => m.wf c
  | .imulAcc _ m => m.wf c
  | .imulRegRm _ m => m.wf c
  | .imulRegRmImm s _ rm imm => rm.wf c && (if s then imm.isByte else imm.isFull c.os32)
  | .divAcc _ m => m.wf c
  | .idivAcc _ m => m.wf c
  | .aad => true
  | .aam => true
  | .cbw => true
  | .cwd => true
  | .rolOne _ m => m.wf c
  | .rolCl _ m => m.wf c
  | .rolImm _ m _ => m.wf c
  | .rorOne _ m => m.wf c
  | .rorCl _ m => m.wf c
  | .rorImm _ m _ => m.wf c
  | .rclOne _ m => m.wf c
  | .rclCl _ m => m.wf c
  | .rclImm _ m _ => m.wf c
  | .rcrOne _ m => m.wf c
  | .rcrCl _ m => m.wf c
  | .rcrImm _ m _ => m.wf c
  | .shlOne _ m => m.wf c
  | .shlCl _ m => m.wf c
  | .shlImm _ m _ => m.wf c
  | .shrOne _ m => m.wf c
  | .shrCl _ m => m.wf c
  | .shrImm _ m _ => m.wf c
  | .sarOne _ m => m.wf c
  | .sarCl _ m => m.wf c
  | .sarImm _ m _ => m.wf c
  | .shldImm m _ _ => m.wf c
  | .shldCl m _ => m.wf c
  | .shrdImm m _ _ => m.wf c
  | .shrdCl m _ => m.wf c
  | .andRmReg _ _ m _ => m.wf c
  | .andRmImm w rm imm => rm.wf c && imm.fits c w
  | .andRmImm8 m _ => m.wf c
  | .andAccImm w imm => imm.fits c w
  | .orRmReg _ _ m _ => m.wf c
  | .orRmImm w rm imm => rm.wf c && imm.fits c w
  | .orRmImm8 m _ => m.wf c
  | .orAccImm w imm => imm.fits c w
  | .xorRmReg _ _ m _ => m.wf c
  | .xorRmImm w rm imm => rm.wf c && imm.fits c w
  | .xorRmImm8 m _ => m.wf c
  | .xorAccImm w imm => imm.fits c w
  | .testRmReg _ m _ => m.wf c
  | .testRmImm w rm imm => rm.wf c && imm.fits c w
  | .testAccImm w imm => imm.fits c w
  | .notRm _ m => m.wf c
  | .cmps _ => true
  | .ins _ => true
  | .lods _ => true
  | .movs _ => true
  | .outs _ => true
  | .scas _ => true
  | .stos _ => true
  | .xlat => true
  | .repPrefix => true
  | .repnePrefix => true
  | .bsf _ m => m.wf c
  | .bsr _ m => m.wf c
  | .btImm m _ => m.wf c
  | .btReg m _ => m.wf c
  | .btcImm m _ => m.wf c
  | .btcReg m _ => m.wf c
  | .btrImm m _ => m.wf c
  | .btrReg m _ => m.wf c
  | .btsImm m _ => m.wf c
  | .btsReg m _ => m.wf c
  | .callRel disp => disp.isFull c.os32
  | .callRm m => m.wf c
  | .jmpShort _ => true
  | .jmpRel disp => disp.isFull c.os32
  | .jmpRm m => m.wf c
  | .retNear => true
  | .retNearImm _ => true
  | .jccShort _ _ => true
  | .jccNear _ disp => disp.isFull c.os32
  | .jcxz _ => true
  | .loop _ => true
  | .loopz _ => true
  | .loopnz _ => true
  | .callFar off _ => off.isFull c.os32
  | .callFarMem m => m.wf c
  | .jmpFar off _ => off.isFull c.os32
  | .jmpFarMem m => m.wf c
  | .retFar => true
  | .retFarImm _ => true
  | .setcc _ m => m.wf c
  | .enter _ _ => true
  | .leave => true
  | .int _ => true
  | .int3 => true
  | .into => true
  | .bound _ m => m.wf c
  | .iret => true
  | .hlt => true
  | .movCrReg _ _ => true
  | .movRegCr _ _ => true
  | .movDrReg _ _ => true
  | .movRegDr _ _ => true
  | .movTrReg _ _ => true
  | .movRegTr _ _ => true
  | .nop => true
  | .wait => true
  | .esc _ _ m => m.wf c
  | .addressSizePrefix => true
  | .lockPrefix => true
  | .operandSizePrefix => true
  | .csPrefix => true
  | .dsPrefix => true
  | .esPrefix => true
  | .fsPrefix => true
  | .gsPrefix => true
  | .ssPrefix => true
  | .arpl m _ => m.wf c
  | .lar _ m => m.wf c
  | .lgdt m => m.wf c
  | .lidt m => m.wf c
  | .lldt m => m.wf c
  | .lmsw m => m.wf c
  | .lsl _ m => m.wf c
  | .ltr m => m.wf c
  | .sgdt m => m.wf c
  | .sidt m => m.wf c
  | .sldt m => m.wf c
  | .smsw m => m.wf c
  | .str m => m.wf c
  | .verr m => m.wf c
  | .verw m => m.wf c

end Sys2Proof
end

