-- ==== Sys2Proof/Decode.lean ====
section
/-! DEFINITION. The decoder, total on any bytes, and the encoder, both written from 30_encoding.md and the rows of
spec/opcode_table.json. -/

namespace Sys2Proof

/-! ## Numbers of names (R212 to R216, R218) -/

/-- The register of a number (R212). -/
def Reg.ofNum (n : BitVec 3) : Reg :=
  match n.toNat with
  | 0 => .eax | 1 => .ecx | 2 => .edx | 3 => .ebx | 4 => .esp | 5 => .ebp | 6 => .esi | _ => .edi

/-- The number of a register (R212). -/
def Reg.num : Reg → BitVec 3
  | .eax => 0 | .ecx => 1 | .edx => 2 | .ebx => 3 | .esp => 4 | .ebp => 5 | .esi => 6 | .edi => 7

/-- The segment register of an `sreg3` number; 110 and 111 are reserved (R213). -/
def SReg.ofNum? (n : BitVec 3) : Option SReg :=
  match n.toNat with
  | 0 => some .es | 1 => some .cs | 2 => some .ss | 3 => some .ds | 4 => some .fs | 5 => some .gs | _ => none

/-- The `sreg3` number (R213). -/
def SReg.num : SReg → BitVec 3
  | .es => 0 | .cs => 1 | .ss => 2 | .ds => 3 | .fs => 4 | .gs => 5

/-- The `sreg2` number (R213). -/
def SReg2.num : SReg2 → BitVec 2
  | .es => 0 | .cs => 1 | .ss => 2 | .ds => 3

/-- The control register of an `eee` number (R214, D4). -/
def CReg.ofNum? (n : BitVec 3) : Option CReg :=
  match n.toNat with
  | 0 => some .cr0 | 2 => some .cr2 | 3 => some .cr3 | _ => none

/-- The `eee` number of a control register (R214). -/
def CReg.num : CReg → BitVec 3
  | .cr0 => 0 | .cr2 => 2 | .cr3 => 3

/-- The debug register of an `eee` number (R214). -/
def DReg.ofNum (n : BitVec 3) : DReg :=
  match n.toNat with
  | 0 => .dr0 | 1 => .dr1 | 2 => .dr2 | 3 => .dr3 | 4 => .dr4 | 5 => .dr5 | 6 => .dr6 | _ => .dr7

/-- The `eee` number of a debug register (R214). -/
def DReg.num : DReg → BitVec 3
  | .dr0 => 0 | .dr1 => 1 | .dr2 => 2 | .dr3 => 3 | .dr4 => 4 | .dr5 => 5 | .dr6 => 6 | .dr7 => 7

/-- The test register of an `eee` number (R214). -/
def TReg.ofNum? (n : BitVec 3) : Option TReg :=
  match n.toNat with
  | 6 => some .tr6 | 7 => some .tr7 | _ => none

/-- The `eee` number of a test register (R214). -/
def TReg.num : TReg → BitVec 3
  | .tr6 => 6 | .tr7 => 7

/-- The condition of a `tttn` field (R218). -/
def Cond.ofNum (n : BitVec 4) : Cond :=
  match n.toNat with
  | 0 => .o | 1 => .no | 2 => .b | 3 => .nb | 4 => .e | 5 => .ne | 6 => .be | 7 => .nbe
  | 8 => .s | 9 => .ns | 10 => .p | 11 => .np | 12 => .l | 13 => .nl | 14 => .le | _ => .nle

/-- The `tttn` field of a condition (R218). -/
def Cond.num : Cond → BitVec 4
  | .o => 0 | .no => 1 | .b => 2 | .nb => 3 | .e => 4 | .ne => 5 | .be => 6 | .nbe => 7
  | .s => 8 | .ns => 9 | .p => 10 | .np => 11 | .l => 12 | .nl => 13 | .le => 14 | .nle => 15

/-- The base and index of a 16-bit r/m number (R215). -/
def Base16.ofNum (n : BitVec 3) : Base16 :=
  match n.toNat with
  | 0 => .bxsi | 1 => .bxdi | 2 => .bpsi | 3 => .bpdi | 4 => .si | 5 => .di | 6 => .bp | _ => .bx

/-- The r/m number of a 16-bit base (R215). -/
def Base16.num : Base16 → BitVec 3
  | .bxsi => 0 | .bxdi => 1 | .bpsi => 2 | .bpdi => 3 | .si => 4 | .di => 5 | .bp => 6 | .bx => 7

/-- The scale of an `ss` field (R216). -/
def Scale.ofNum (n : BitVec 2) : Scale :=
  match n.toNat with
  | 0 => .x1 | 1 => .x2 | 2 => .x4 | _ => .x8

/-- The `ss` field of a scale (R216). -/
def Scale.num : Scale → BitVec 2
  | .x1 => 0 | .x2 => 1 | .x4 => 2 | .x8 => 3

/-- The index of an s-i-b byte; 100 means none (R216). -/
def indexOfNum (n : BitVec 3) : Option Reg :=
  if n = 4 then none else some (Reg.ofNum n)

/-- The index field of an s-i-b byte (R216). -/
def indexNum : Option Reg → BitVec 3
  | none => 4
  | some r => r.num

/-! ## Parsing -/

/-- Encodings to which the spec gives no meaning in a model. -/
inductive DecodeRefusal where
  /-- AAM or AAD with a second byte other than 0AH (R366, R367, U6). -/
  | asciiBase
  /-- MOV to or from CRn, DRn, TRn whose third byte has its top bits not 11 (R512, U2). -/
  | specialMod
  /-- 82H /1, /4, /6; F6H and F7H /1; 0F 05, 0F 07, 0F A6, 0F A7: outside Table 8-1 and known to execute undocumented
  operations, so not proven to fault (R240, U4; log 32). -/
  | undocumented
  deriving DecidableEq, Repr

/-- What the decoder has found so far: an instruction and the bytes after it; that the bytes end too early; that the
encoding is not in Table 8-1 (R240: exception 6; log 32); or a refusal by name. -/
inductive Parse where
  | ok (i : Instr) (rest : List Byte)
  | more
  | undefinedOpcode
  | refused (r : DecodeRefusal)
  deriving DecidableEq, Repr

/-- What the decoder answers: an instruction and its length in bytes, or one of the reasons of `Parse`. -/
inductive DecodeResult where
  | ok (i : Instr) (len : Nat)
  | more
  | undefinedOpcode
  | refused (r : DecodeRefusal)
  deriving DecidableEq, Repr

/-- One byte. -/
def take8 (bs : List Byte) (k : Byte → List Byte → Parse) : Parse :=
  match bs with
  | b :: rest => k b rest
  | [] => .more

/-- Two bytes, the low one first (R104, R209). -/
def take16 (bs : List Byte) (k : Word → List Byte → Parse) : Parse :=
  match bs with
  | b0 :: b1 :: rest => k (b1 ++ b0) rest
  | _ => .more

/-- Four bytes, the low one first (R104, R209). -/
def take32 (bs : List Byte) (k : Dword → List Byte → Parse) : Parse :=
  match bs with
  | b0 :: b1 :: b2 :: b3 :: rest => k (b3 ++ b2 ++ b1 ++ b0) rest
  | _ => .more

/-- A datum of 2 bytes, or of 4 when `wide` (R209). -/
def takeFull (wide : Bool) (bs : List Byte) (k : Imm → List Byte → Parse) : Parse :=
  if wide then take32 bs (fun v => k (.i32 v)) else take16 bs (fun v => k (.i16 v))

/-- The immediate of an operand of width bit `w` (R209). -/
def takeImm (c : Ctx) (w : Bool) (bs : List Byte) (k : Imm → List Byte → Parse) : Parse :=
  if w then takeFull c.os32 bs k else take8 bs (fun v => k (.i8 v))

/-- A memory operand of 16-bit addressing (R215). -/
def takeMem16 (md : BitVec 2) (rm : BitVec 3) (bs : List Byte) (k : Mem → List Byte → Parse) : Parse :=
  match md.toNat with
  | 0 => if rm = 6 then take16 bs (fun d => k (.direct16 d)) else k (.base16 (Base16.ofNum rm) .none) bs
  | 1 => take8 bs (fun d => k (.base16 (Base16.ofNum rm) (.d8 d)))
  | _ => take16 bs (fun d => k (.base16 (Base16.ofNum rm) (.d16 d)))

/-- A memory operand of 32-bit addressing with an s-i-b byte (R216). -/
def takeSib (md : BitVec 2) (sb : Byte) (bs : List Byte) (k : Mem → List Byte → Parse) : Parse :=
  let scale := Scale.ofNum (sb.extractLsb' 6 2)
  let index := indexOfNum (sb.extractLsb' 3 3)
  let base := sb.extractLsb' 0 3
  match md.toNat with
  | 0 => if base = 5 then take32 bs (fun d => k (.sibNoBase scale index d)) else k (.sib scale index (Reg.ofNum base) .none) bs
  | 1 => take8 bs (fun d => k (.sib scale index (Reg.ofNum base) (.d8 d)))
  | _ => take32 bs (fun d => k (.sib scale index (Reg.ofNum base) (.d32 d)))

/-- A memory operand of 32-bit addressing (R215). -/
def takeMem32 (md : BitVec 2) (rm : BitVec 3) (bs : List Byte) (k : Mem → List Byte → Parse) : Parse :=
  if rm = 4 then take8 bs (fun sb rest => takeSib md sb rest k)
  else match md.toNat with
    | 0 => if rm = 5 then take32 bs (fun d => k (.direct32 d)) else k (.base32 (Reg.ofNum rm) .none) bs
    | 1 => take8 bs (fun d => k (.base32 (Reg.ofNum rm) (.d8 d)))
    | _ => take32 bs (fun d => k (.base32 (Reg.ofNum rm) (.d32 d)))

/-- The mod r/m byte with its s-i-b byte and displacement: the reg field and the r/m operand (R211). -/
def takeModRM (c : Ctx) (bs : List Byte) (k : BitVec 3 → RM → List Byte → Parse) : Parse :=
  take8 bs fun b rest =>
    let md := b.extractLsb' 6 2
    let reg := b.extractLsb' 3 3
    let rm := b.extractLsb' 0 3
    if md = 3 then k reg (.reg (Reg.ofNum rm)) rest
    else if c.as32 then takeMem32 md rm rest (fun m => k reg (.mem m))
    else takeMem16 md rm rest (fun m => k reg (.mem m))

/-- A mod r/m byte whose reg field is a general register. -/
def takeRegRM (c : Ctx) (bs : List Byte) (k : Reg → RM → Instr) : Parse :=
  takeModRM c bs fun reg rm rest => .ok (k (Reg.ofNum reg) rm) rest

/-- A mod r/m byte whose r/m operand must be memory; mod = 11 is exception 6 (R217, R241). -/
def takeRegMem (c : Ctx) (bs : List Byte) (k : Reg → Mem → Instr) : Parse :=
  takeModRM c bs fun reg rm rest =>
    match rm with
    | .reg _ => .undefinedOpcode
    | .mem m => .ok (k (Reg.ofNum reg) m) rest

/-- An instruction of a group that needs a memory operand (R217). -/
def memOnly (rm : RM) (rest : List Byte) (k : Mem → Instr) : Parse :=
  match rm with
  | .reg _ => .undefinedOpcode
  | .mem m => .ok (k m) rest

/-- The byte `11 eee reg` of the special register moves (R512). -/
def takeSpecial (bs : List Byte) (k : BitVec 3 → Reg → List Byte → Parse) : Parse :=
  take8 bs fun b rest =>
    if b.extractLsb' 6 2 = 3 then k (b.extractLsb' 3 3) (Reg.ofNum (b.extractLsb' 0 3)) rest
    else .refused .specialMod

/-! ## Opcode groups (R219, R221) -/

/-- `00 ooo 0 d w`: the eight two-operand instructions by operation number (R330, R390). -/
def decodedRmReg (ooo : BitVec 3) (d w : Bool) (rm : RM) (reg : Reg) : Instr :=
  match ooo.toNat with
  | 0 => .addRmReg d w rm reg | 1 => .orRmReg d w rm reg | 2 => .adcRmReg d w rm reg | 3 => .sbbRmReg d w rm reg
  | 4 => .andRmReg d w rm reg | 5 => .subRmReg d w rm reg | 6 => .xorRmReg d w rm reg | _ => .cmpRmReg d w rm reg

/-- `00 ooo 10 w`: the accumulator forms (R330, R390). -/
def decodedAccImm (ooo : BitVec 3) (w : Bool) (imm : Imm) : Instr :=
  match ooo.toNat with
  | 0 => .addAccImm w imm | 1 => .orAccImm w imm | 2 => .adcAccImm w imm | 3 => .sbbAccImm w imm
  | 4 => .andAccImm w imm | 5 => .subAccImm w imm | 6 => .xorAccImm w imm | _ => .cmpAccImm w imm

/-- Group 1, 80H to 83H: the arithmetic members take the s bit, the logical ones have 80H, 81H and 83H (R330, R390). -/
def group1 (c : Ctx) (s w : Bool) (bs : List Byte) : Parse :=
  takeModRM c bs fun ooo rm rest =>
    let arith := fun (k : Bool → Bool → RM → Imm → Instr) => takeImm c (w && !s) rest (fun imm r => .ok (k s w rm imm) r)
    let logic := fun (k : Bool → RM → Imm → Instr) (k8 : RM → Byte → Instr) =>
      if s then (if w then take8 rest (fun b r => .ok (k8 rm b) r) else .refused .undocumented)
      else takeImm c w rest (fun imm r => .ok (k w rm imm) r)
    match ooo.toNat with
    | 0 => arith .addRmImm
    | 1 => logic .orRmImm .orRmImm8
    | 2 => arith .adcRmImm
    | 3 => arith .sbbRmImm
    | 4 => logic .andRmImm .andRmImm8
    | 5 => arith .subRmImm
    | 6 => logic .xorRmImm .xorRmImm8
    | _ => arith .cmpRmImm

/-- Group 2 by 1, D0H and D1H (R219, R380). -/
def group2One (c : Ctx) (w : Bool) (bs : List Byte) : Parse :=
  takeModRM c bs fun ttt rm rest =>
    match ttt.toNat with
    | 0 => .ok (.rolOne w rm) rest | 1 => .ok (.rorOne w rm) rest | 2 => .ok (.rclOne w rm) rest | 3 => .ok (.rcrOne w rm) rest
    | 4 => .ok (.shlOne w rm) rest | 5 => .ok (.shrOne w rm) rest | 7 => .ok (.sarOne w rm) rest | _ => .undefinedOpcode

/-- Group 2 by CL, D2H and D3H (R219, R380). -/
def group2Cl (c : Ctx) (w : Bool) (bs : List Byte) : Parse :=
  takeModRM c bs fun ttt rm rest =>
    match ttt.toNat with
    | 0 => .ok (.rolCl w rm) rest | 1 => .ok (.rorCl w rm) rest | 2 => .ok (.rclCl w rm) rest | 3 => .ok (.rcrCl w rm) rest
    | 4 => .ok (.shlCl w rm) rest | 5 => .ok (.shrCl w rm) rest | 7 => .ok (.sarCl w rm) rest | _ => .undefinedOpcode

/-- Group 2 by an immediate count, C0H and C1H (R219, R380). -/
def group2Imm (c : Ctx) (w : Bool) (bs : List Byte) : Parse :=
  takeModRM c bs fun ttt rm rest =>
    let k := fun (i : Byte → Instr) => take8 rest (fun b r => .ok (i b) r)
    match ttt.toNat with
    | 0 => k (.rolImm w rm) | 1 => k (.rorImm w rm) | 2 => k (.rclImm w rm) | 3 => k (.rcrImm w rm)
    | 4 => k (.shlImm w rm) | 5 => k (.shrImm w rm) | 7 => k (.sarImm w rm) | _ => .undefinedOpcode

/-- Group 3, F6H and F7H; /1 is not in the table (R221, R240). -/
def group3 (c : Ctx) (w : Bool) (bs : List Byte) : Parse :=
  takeModRM c bs fun ooo rm rest =>
    match ooo.toNat with
    | 0 => takeImm c w rest (fun imm r => .ok (.testRmImm w rm imm) r)
    | 2 => .ok (.notRm w rm) rest | 3 => .ok (.negRm w rm) rest
    | 4 => .ok (.mulAcc w rm) rest | 5 => .ok (.imulAcc w rm) rest | 6 => .ok (.divAcc w rm) rest | 7 => .ok (.idivAcc w rm) rest
    | _ => .refused .undocumented

/-- Group 4, FEH (R221). -/
def group4 (c : Ctx) (bs : List Byte) : Parse :=
  takeModRM c bs fun ooo rm rest =>
    match ooo.toNat with
    | 0 => .ok (.incRm false rm) rest
    | 1 => .ok (.decRm false rm) rest
    | _ => .undefinedOpcode

/-- Group 5, FFH; /7 is not in the table (R221). -/
def group5 (c : Ctx) (bs : List Byte) : Parse :=
  takeModRM c bs fun ooo rm rest =>
    match ooo.toNat with
    | 0 => .ok (.incRm true rm) rest
    | 1 => .ok (.decRm true rm) rest
    | 2 => .ok (.callRm rm) rest
    | 3 => memOnly rm rest .callFarMem
    | 4 => .ok (.jmpRm rm) rest
    | 5 => memOnly rm rest .jmpFarMem
    | 6 => .ok (.pushRm rm) rest
    | _ => .undefinedOpcode

/-- Group 6, 0F 00 (R222). -/
def group6 (c : Ctx) (bs : List Byte) : Parse :=
  takeModRM c bs fun ooo rm rest =>
    match ooo.toNat with
    | 0 => .ok (.sldt rm) rest | 1 => .ok (.str rm) rest | 2 => .ok (.lldt rm) rest | 3 => .ok (.ltr rm) rest
    | 4 => .ok (.verr rm) rest | 5 => .ok (.verw rm) rest | _ => .undefinedOpcode

/-- Group 7, 0F 01 (R222). -/
def group7 (c : Ctx) (bs : List Byte) : Parse :=
  takeModRM c bs fun ooo rm rest =>
    match ooo.toNat with
    | 0 => memOnly rm rest .sgdt | 1 => memOnly rm rest .sidt | 2 => memOnly rm rest .lgdt | 3 => memOnly rm rest .lidt
    | 4 => .ok (.smsw rm) rest | 6 => .ok (.lmsw rm) rest | _ => .undefinedOpcode

/-- Group 8, 0F BA; /0 to /3 are not in the table (R222, R437). -/
def group8 (c : Ctx) (bs : List Byte) : Parse :=
  takeModRM c bs fun ooo rm rest =>
    let k := fun (i : Byte → Instr) => take8 rest (fun b r => .ok (i b) r)
    match ooo.toNat with
    | 4 => k (.btImm rm) | 5 => k (.btsImm rm) | 6 => k (.btrImm rm) | 7 => k (.btcImm rm) | _ => .undefinedOpcode

/-! ## The two-byte opcodes (R222), by the high five and the low three bits of the second byte -/

/-- 0F 00 to 0F 07. -/
def twoByte00 (c : Ctx) (lo : Nat) (bs : List Byte) : Parse :=
  match lo with
  | 0 => group6 c bs
  | 1 => group7 c bs
  | 2 => takeRegRM c bs .lar
  | 3 => takeRegRM c bs .lsl
  | 5 => .refused .undocumented
  | 6 => .ok .clts bs
  | 7 => .refused .undocumented
  | _ => .undefinedOpcode

/-- 0F 20 to 0F 27: the special register moves (R214, R512). -/
def twoByte20 (lo : Nat) (bs : List Byte) : Parse :=
  match lo with
  | 0 => takeSpecial bs fun e r rest => match CReg.ofNum? e with | some x => .ok (.movRegCr r x) rest | none => .undefinedOpcode
  | 1 => takeSpecial bs fun e r rest => .ok (.movRegDr r (DReg.ofNum e)) rest
  | 2 => takeSpecial bs fun e r rest => match CReg.ofNum? e with | some x => .ok (.movCrReg x r) rest | none => .undefinedOpcode
  | 3 => takeSpecial bs fun e r rest => .ok (.movDrReg (DReg.ofNum e) r) rest
  | 4 => takeSpecial bs fun e r rest => match TReg.ofNum? e with | some x => .ok (.movRegTr r x) rest | none => .undefinedOpcode
  | 6 => takeSpecial bs fun e r rest => match TReg.ofNum? e with | some x => .ok (.movTrReg x r) rest | none => .undefinedOpcode
  | _ => .undefinedOpcode

/-- 0F A0 to 0F A7. -/
def twoByteA0 (c : Ctx) (lo : Nat) (bs : List Byte) : Parse :=
  match lo with
  | 0 => .ok .pushFs bs
  | 1 => .ok .popFs bs
  | 3 => takeRegRM c bs (fun r rm => .btReg rm r)
  | 4 => takeModRM c bs fun reg rm rest => take8 rest (fun b r => .ok (.shldImm rm (Reg.ofNum reg) b) r)
  | 5 => takeRegRM c bs (fun r rm => .shldCl rm r)
  | 6 => .refused .undocumented
  | 7 => .refused .undocumented
  | _ => .undefinedOpcode

/-- 0F A8 to 0F AF. -/
def twoByteA8 (c : Ctx) (lo : Nat) (bs : List Byte) : Parse :=
  match lo with
  | 0 => .ok .pushGs bs
  | 1 => .ok .popGs bs
  | 3 => takeRegRM c bs (fun r rm => .btsReg rm r)
  | 4 => takeModRM c bs fun reg rm rest => take8 rest (fun b r => .ok (.shrdImm rm (Reg.ofNum reg) b) r)
  | 5 => takeRegRM c bs (fun r rm => .shrdCl rm r)
  | 7 => takeRegRM c bs .imulRegRm
  | _ => .undefinedOpcode

/-- 0F B0 to 0F B7. -/
def twoByteB0 (c : Ctx) (lo : Nat) (bs : List Byte) : Parse :=
  match lo with
  | 2 => takeRegMem c bs .lss
  | 3 => takeRegRM c bs (fun r rm => .btrReg rm r)
  | 4 => takeRegMem c bs .lfs
  | 5 => takeRegMem c bs .lgs
  | 6 => takeRegRM c bs (.movzx false)
  | 7 => takeRegRM c bs (.movzx true)
  | _ => .undefinedOpcode

/-- 0F B8 to 0F BF. -/
def twoByteB8 (c : Ctx) (lo : Nat) (bs : List Byte) : Parse :=
  match lo with
  | 2 => group8 c bs
  | 3 => takeRegRM c bs (fun r rm => .btcReg rm r)
  | 4 => takeRegRM c bs .bsf
  | 5 => takeRegRM c bs .bsr
  | 6 => takeRegRM c bs (.movsx false)
  | 7 => takeRegRM c bs (.movsx true)
  | _ => .undefinedOpcode

/-- The two-byte opcode map (R222): `b` is the byte after 0FH. -/
def decodeTwoByte (c : Ctx) (b : Byte) (bs : List Byte) : Parse :=
  let lo := (b.extractLsb' 0 3).toNat
  let tttn := Cond.ofNum (b.extractLsb' 0 4)
  match (b.extractLsb' 3 5).toNat with
  | 0 => twoByte00 c lo bs
  | 4 => twoByte20 lo bs
  | 16 => takeFull c.os32 bs (fun d r => .ok (.jccNear tttn d) r)
  | 17 => takeFull c.os32 bs (fun d r => .ok (.jccNear tttn d) r)
  | 18 => takeModRM c bs (fun _ rm r => .ok (.setcc tttn rm) r)
  | 19 => takeModRM c bs (fun _ rm r => .ok (.setcc tttn rm) r)
  | 20 => twoByteA0 c lo bs
  | 21 => twoByteA8 c lo bs
  | 22 => twoByteB0 c lo bs
  | 23 => twoByteB8 c lo bs
  | _ => .undefinedOpcode

/-! ## The one-byte opcodes (R221), by the high five and the low three bits -/

/-- The last two columns of rows 0 to 3: PUSH and POP of a segment register, the prefixes and the decimal adjusts, and
the two-byte escape 0FH. -/
def oneByteAluTail (c : Ctx) (hi lo : Nat) (bs : List Byte) : Parse :=
  match hi, lo with
  | 0, 6 => .ok (.pushSreg .es) bs
  | 0, _ => .ok .popEs bs
  | 1, 6 => .ok (.pushSreg .cs) bs
  | 1, _ => take8 bs (decodeTwoByte c)
  | 2, 6 => .ok (.pushSreg .ss) bs
  | 2, _ => .ok .popSs bs
  | 3, 6 => .ok (.pushSreg .ds) bs
  | 3, _ => .ok .popDs bs
  | 4, 6 => .ok .esPrefix bs
  | 4, _ => .ok .daa bs
  | 5, 6 => .ok .csPrefix bs
  | 5, _ => .ok .das bs
  | 6, 6 => .ok .ssPrefix bs
  | 6, _ => .ok .aaa bs
  | _, 6 => .ok .dsPrefix bs
  | _, _ => .ok .aas bs

/-- Rows 0 to 3: `00 ooo xxx`. -/
def oneByteAlu (c : Ctx) (ooo : BitVec 3) (lo : Nat) (bs : List Byte) : Parse :=
  match lo with
  | 0 => takeRegRM c bs (fun r rm => decodedRmReg ooo false false rm r)
  | 1 => takeRegRM c bs (fun r rm => decodedRmReg ooo false true rm r)
  | 2 => takeRegRM c bs (fun r rm => decodedRmReg ooo true false rm r)
  | 3 => takeRegRM c bs (fun r rm => decodedRmReg ooo true true rm r)
  | 4 => takeImm c false bs (fun imm r => .ok (decodedAccImm ooo false imm) r)
  | 5 => takeImm c true bs (fun imm r => .ok (decodedAccImm ooo true imm) r)
  | _ => oneByteAluTail c ooo.toNat lo bs

/-- 60H to 67H. -/
def oneByte60 (c : Ctx) (lo : Nat) (bs : List Byte) : Parse :=
  match lo with
  | 0 => .ok .pusha bs
  | 1 => .ok .popa bs
  | 2 => takeRegMem c bs .bound
  | 3 => takeRegRM c bs (fun r rm => .arpl rm r)
  | 4 => .ok .fsPrefix bs
  | 5 => .ok .gsPrefix bs
  | 6 => .ok .operandSizePrefix bs
  | _ => .ok .addressSizePrefix bs

/-- 68H to 6FH. -/
def oneByte68 (c : Ctx) (lo : Nat) (bs : List Byte) : Parse :=
  match lo with
  | 0 => takeFull c.os32 bs (fun imm r => .ok (.pushImm false imm) r)
  | 1 => takeModRM c bs fun reg rm rest => takeFull c.os32 rest (fun imm r => .ok (.imulRegRmImm false (Reg.ofNum reg) rm imm) r)
  | 2 => take8 bs (fun b r => .ok (.pushImm true (.i8 b)) r)
  | 3 => takeModRM c bs fun reg rm rest => take8 rest (fun b r => .ok (.imulRegRmImm true (Reg.ofNum reg) rm (.i8 b)) r)
  | 4 => .ok (.ins false) bs
  | 5 => .ok (.ins true) bs
  | 6 => .ok (.outs false) bs
  | _ => .ok (.outs true) bs

/-- 80H to 87H. -/
def oneByte80 (c : Ctx) (lo : Nat) (bs : List Byte) : Parse :=
  match lo with
  | 0 => group1 c false false bs
  | 1 => group1 c false true bs
  | 2 => group1 c true false bs
  | 3 => group1 c true true bs
  | 4 => takeRegRM c bs (fun r rm => .testRmReg false rm r)
  | 5 => takeRegRM c bs (fun r rm => .testRmReg true rm r)
  | 6 => takeRegRM c bs (fun r rm => .xchgRmReg false rm r)
  | _ => takeRegRM c bs (fun r rm => .xchgRmReg true rm r)

/-- 88H to 8FH; MOV to CS and the reserved segment registers are exception 6 (R213, R246). -/
def oneByte88 (c : Ctx) (lo : Nat) (bs : List Byte) : Parse :=
  match lo with
  | 0 => takeRegRM c bs (fun r rm => .movRmReg false rm r)
  | 1 => takeRegRM c bs (fun r rm => .movRmReg true rm r)
  | 2 => takeRegRM c bs (.movRegRm false)
  | 3 => takeRegRM c bs (.movRegRm true)
  | 4 => takeModRM c bs fun g rm rest =>
      match SReg.ofNum? g with
      | some x => .ok (.movRmSreg rm x) rest
      | none => .undefinedOpcode
  | 5 => takeRegMem c bs .lea
  | 6 => takeModRM c bs fun g rm rest =>
      match SReg.ofNum? g with
      | some .cs => .undefinedOpcode
      | some x => .ok (.movSregRm x rm) rest
      | none => .undefinedOpcode
  | _ => takeModRM c bs fun ooo rm rest => if ooo = 0 then .ok (.popRm rm) rest else .undefinedOpcode

/-- 98H to 9FH. -/
def oneByte98 (c : Ctx) (lo : Nat) (bs : List Byte) : Parse :=
  match lo with
  | 0 => .ok .cbw bs
  | 1 => .ok .cwd bs
  | 2 => takeFull c.os32 bs fun off rest => take16 rest (fun sel r => .ok (.callFar off sel) r)
  | 3 => .ok .wait bs
  | 4 => .ok .pushf bs
  | 5 => .ok .popf bs
  | 6 => .ok .sahf bs
  | _ => .ok .lahf bs

/-- A0H to A7H. -/
def oneByteA0 (c : Ctx) (lo : Nat) (bs : List Byte) : Parse :=
  match lo with
  | 0 => takeFull c.as32 bs (fun o r => .ok (.movAccMoffs false o) r)
  | 1 => takeFull c.as32 bs (fun o r => .ok (.movAccMoffs true o) r)
  | 2 => takeFull c.as32 bs (fun o r => .ok (.movMoffsAcc false o) r)
  | 3 => takeFull c.as32 bs (fun o r => .ok (.movMoffsAcc true o) r)
  | 4 => .ok (.movs false) bs
  | 5 => .ok (.movs true) bs
  | 6 => .ok (.cmps false) bs
  | _ => .ok (.cmps true) bs

/-- A8H to AFH. -/
def oneByteA8 (c : Ctx) (lo : Nat) (bs : List Byte) : Parse :=
  match lo with
  | 0 => takeImm c false bs (fun imm r => .ok (.testAccImm false imm) r)
  | 1 => takeImm c true bs (fun imm r => .ok (.testAccImm true imm) r)
  | 2 => .ok (.stos false) bs
  | 3 => .ok (.stos true) bs
  | 4 => .ok (.lods false) bs
  | 5 => .ok (.lods true) bs
  | 6 => .ok (.scas false) bs
  | _ => .ok (.scas true) bs

/-- C0H to C7H; C6 and C7 have /0 only. -/
def oneByteC0 (c : Ctx) (lo : Nat) (bs : List Byte) : Parse :=
  match lo with
  | 0 => group2Imm c false bs
  | 1 => group2Imm c true bs
  | 2 => take16 bs (fun n r => .ok (.retNearImm n) r)
  | 3 => .ok .retNear bs
  | 4 => takeRegMem c bs .les
  | 5 => takeRegMem c bs .lds
  | 6 => takeModRM c bs fun ooo rm rest =>
      if ooo = 0 then takeImm c false rest (fun imm r => .ok (.movRmImm false rm imm) r) else .undefinedOpcode
  | _ => takeModRM c bs fun ooo rm rest =>
      if ooo = 0 then takeImm c true rest (fun imm r => .ok (.movRmImm true rm imm) r) else .undefinedOpcode

/-- C8H to CFH. -/
def oneByteC8 (lo : Nat) (bs : List Byte) : Parse :=
  match lo with
  | 0 => take16 bs fun n rest => take8 rest (fun l r => .ok (.enter n l) r)
  | 1 => .ok .leave bs
  | 2 => take16 bs (fun n r => .ok (.retFarImm n) r)
  | 3 => .ok .retFar bs
  | 4 => .ok .int3 bs
  | 5 => take8 bs (fun n r => .ok (.int n) r)
  | 6 => .ok .into bs
  | _ => .ok .iret bs

/-- D0H to D7H; AAM and AAD have the second byte 0AH only (R366, R367); D6H is not in the table. -/
def oneByteD0 (c : Ctx) (lo : Nat) (bs : List Byte) : Parse :=
  match lo with
  | 0 => group2One c false bs
  | 1 => group2One c true bs
  | 2 => group2Cl c false bs
  | 3 => group2Cl c true bs
  | 4 => take8 bs (fun b r => if b = 0x0A then .ok .aam r else .refused .asciiBase)
  | 5 => take8 bs (fun b r => if b = 0x0A then .ok .aad r else .refused .asciiBase)
  | 7 => .ok .xlat bs
  | _ => .undefinedOpcode

/-- E0H to E7H. -/
def oneByteE0 (lo : Nat) (bs : List Byte) : Parse :=
  match lo with
  | 0 => take8 bs (fun d r => .ok (.loopnz d) r)
  | 1 => take8 bs (fun d r => .ok (.loopz d) r)
  | 2 => take8 bs (fun d r => .ok (.loop d) r)
  | 3 => take8 bs (fun d r => .ok (.jcxz d) r)
  | 4 => take8 bs (fun p r => .ok (.inImm false p) r)
  | 5 => take8 bs (fun p r => .ok (.inImm true p) r)
  | 6 => take8 bs (fun p r => .ok (.outImm false p) r)
  | _ => take8 bs (fun p r => .ok (.outImm true p) r)

/-- E8H to EFH. -/
def oneByteE8 (c : Ctx) (lo : Nat) (bs : List Byte) : Parse :=
  match lo with
  | 0 => takeFull c.os32 bs (fun d r => .ok (.callRel d) r)
  | 1 => takeFull c.os32 bs (fun d r => .ok (.jmpRel d) r)
  | 2 => takeFull c.os32 bs fun off rest => take16 rest (fun sel r => .ok (.jmpFar off sel) r)
  | 3 => take8 bs (fun d r => .ok (.jmpShort d) r)
  | 4 => .ok (.inDx false) bs
  | 5 => .ok (.inDx true) bs
  | 6 => .ok (.outDx false) bs
  | _ => .ok (.outDx true) bs

/-- F0H to F7H; F1H is not in the table. -/
def oneByteF0 (c : Ctx) (lo : Nat) (bs : List Byte) : Parse :=
  match lo with
  | 0 => .ok .lockPrefix bs
  | 2 => .ok .repnePrefix bs
  | 3 => .ok .repPrefix bs
  | 4 => .ok .hlt bs
  | 5 => .ok .cmc bs
  | 6 => group3 c false bs
  | 7 => group3 c true bs
  | _ => .undefinedOpcode

/-- F8H to FFH. -/
def oneByteF8 (c : Ctx) (lo : Nat) (bs : List Byte) : Parse :=
  match lo with
  | 0 => .ok .clc bs
  | 1 => .ok .stc bs
  | 2 => .ok .cli bs
  | 3 => .ok .sti bs
  | 4 => .ok .cld bs
  | 5 => .ok .std bs
  | 6 => group4 c bs
  | _ => group5 c bs

/-- The one-byte opcode map (R221). -/
def decodeOneByte (c : Ctx) (b : Byte) (bs : List Byte) : Parse :=
  let lo3 := b.extractLsb' 0 3
  let lo := lo3.toNat
  let reg := Reg.ofNum lo3
  let tttn := Cond.ofNum (b.extractLsb' 0 4)
  match (b.extractLsb' 3 5).toNat with
  | 8 => .ok (.incReg reg) bs
  | 9 => .ok (.decReg reg) bs
  | 10 => .ok (.pushReg reg) bs
  | 11 => .ok (.popReg reg) bs
  | 12 => oneByte60 c lo bs
  | 13 => oneByte68 c lo bs
  | 14 => take8 bs (fun d r => .ok (.jccShort tttn d) r)
  | 15 => take8 bs (fun d r => .ok (.jccShort tttn d) r)
  | 16 => oneByte80 c lo bs
  | 17 => oneByte88 c lo bs
  | 18 => if lo3 = 0 then .ok .nop bs else .ok (.xchgRegAcc reg) bs
  | 19 => oneByte98 c lo bs
  | 20 => oneByteA0 c lo bs
  | 21 => oneByteA8 c lo bs
  | 22 => takeImm c false bs (fun imm r => .ok (.movRegImm false reg imm) r)
  | 23 => takeImm c true bs (fun imm r => .ok (.movRegImm true reg imm) r)
  | 24 => oneByteC0 c lo bs
  | 25 => oneByteC8 lo bs
  | 26 => oneByteD0 c lo bs
  | 27 => takeModRM c bs (fun lll rm r => .ok (.esc lo3 lll rm) r)
  | 28 => oneByteE0 lo bs
  | 29 => oneByteE8 c lo bs
  | 30 => oneByteF0 c lo bs
  | 31 => oneByteF8 c lo bs
  | _ => oneByteAlu c (b.extractLsb' 3 3) lo bs

/-- The decoder: the instruction at the head of the bytes, decoded under the sizes `c`, with its length. A prefix byte is an
instruction of length one. -/
def decode (c : Ctx) (bs : List Byte) : DecodeResult :=
  match take8 bs (decodeOneByte c) with
  | .ok i rest => .ok i (bs.length - rest.length)
  | .more => .more
  | .undefinedOpcode => .undefinedOpcode
  | .refused r => .refused r

/-! ## Encoding -/

/-- The two bytes of a word, low byte first (R104). -/
def bytes16 (v : Word) : List Byte := [v.extractLsb' 0 8, v.extractLsb' 8 8]

/-- The four bytes of a dword, low byte first (R104). -/
def bytes32 (v : Dword) : List Byte := [v.extractLsb' 0 8, v.extractLsb' 8 8, v.extractLsb' 16 8, v.extractLsb' 24 8]

/-- The bytes of a datum (R209). -/
def Imm.bytes : Imm → List Byte
  | .i8 v => [v]
  | .i16 v => bytes16 v
  | .i32 v => bytes32 v

/-- The mod r/m byte (R211). -/
def modRMByte (md : BitVec 2) (reg rm : BitVec 3) : Byte := md ++ reg ++ rm

/-- The s-i-b byte (R216). -/
def sibByte (scale : Scale) (index : Option Reg) (base : BitVec 3) : Byte := scale.num ++ indexNum index ++ base

/-- The bytes of a memory operand, the mod r/m byte first (R215, R216). -/
def Mem.bytes (reg : BitVec 3) : Mem → List Byte
  | .direct16 d => modRMByte 0 reg 6 :: bytes16 d
  | .base16 b .none => [modRMByte 0 reg b.num]
  | .base16 b (.d8 d) => [modRMByte 1 reg b.num, d]
  | .base16 b (.d16 d) => modRMByte 2 reg b.num :: bytes16 d
  | .direct32 d => modRMByte 0 reg 5 :: bytes32 d
  | .base32 b .none => [modRMByte 0 reg b.num]
  | .base32 b (.d8 d) => [modRMByte 1 reg b.num, d]
  | .base32 b (.d32 d) => modRMByte 2 reg b.num :: bytes32 d
  | .sib s x b .none => [modRMByte 0 reg 4, sibByte s x b.num]
  | .sib s x b (.d8 d) => [modRMByte 1 reg 4, sibByte s x b.num, d]
  | .sib s x b (.d32 d) => modRMByte 2 reg 4 :: sibByte s x b.num :: bytes32 d
  | .sibNoBase s x d => modRMByte 0 reg 4 :: sibByte s x 5 :: bytes32 d

/-- The bytes of an r/m operand with the reg field `reg` (R211). -/
def RM.bytes (reg : BitVec 3) : RM → List Byte
  | .reg r => [modRMByte 3 reg r.num]
  | .mem m => m.bytes reg

/-- The bytes of a well-formed instruction, row by row as spec/opcode_table.json prints its encoding. -/
def encode : Instr → List Byte
  | .movRmReg w dst src => [((0b1000100#7) ++ bit w : Byte)] ++ dst.bytes src.num
  | .movRegRm w dst src => [((0b1000101#7) ++ bit w : Byte)] ++ src.bytes dst.num
  | .movRmImm w dst imm => [((0b1100011#7) ++ bit w : Byte)] ++ dst.bytes 0 ++ imm.bytes
  | .movRegImm w dst imm => [((0b1011#4) ++ bit w ++ dst.num : Byte)] ++ imm.bytes
  | .movAccMoffs w off => [((0b1010000#7) ++ bit w : Byte)] ++ off.bytes
  | .movMoffsAcc w off => [((0b1010001#7) ++ bit w : Byte)] ++ off.bytes
  | .movSregRm dst src => [0x8E] ++ src.bytes dst.num
  | .movRmSreg dst src => [0x8C] ++ dst.bytes src.num
  | .movsx w dst src => [0x0F, ((0b1011111#7) ++ bit w : Byte)] ++ src.bytes dst.num
  | .movzx w dst src => [0x0F, ((0b1011011#7) ++ bit w : Byte)] ++ src.bytes dst.num
  | .pushRm src => [0xFF] ++ src.bytes 6
  | .pushReg src => [((0b01010#5) ++ src.num : Byte)]
  | .pushSreg src => [((0b000#3) ++ src.num ++ (0b110#3) : Byte)]
  | .pushFs => [0x0F, 0xA0]
  | .pushGs => [0x0F, 0xA8]
  | .pushImm s imm => [((0b011010#6) ++ bit s ++ (0b0#1) : Byte)] ++ imm.bytes
  | .pusha => [0x60]
  | .popRm dst => [0x8F] ++ dst.bytes 0
  | .popReg dst => [((0b01011#5) ++ dst.num : Byte)]
  | .popEs => [0x07]
  | .popSs => [0x17]
  | .popDs => [0x1F]
  | .popFs => [0x0F, 0xA1]
  | .popGs => [0x0F, 0xA9]
  | .popa => [0x61]
  | .xchgRmReg w rm reg => [((0b1000011#7) ++ bit w : Byte)] ++ rm.bytes reg.num
  | .xchgRegAcc reg => [((0b10010#5) ++ reg.num : Byte)]
  | .inImm w port => [((0b1110010#7) ++ bit w : Byte)] ++ [port]
  | .inDx w => [((0b1110110#7) ++ bit w : Byte)]
  | .outImm w port => [((0b1110011#7) ++ bit w : Byte)] ++ [port]
  | .outDx w => [((0b1110111#7) ++ bit w : Byte)]
  | .lea dst src => [0x8D] ++ src.bytes dst.num
  | .lds dst src => [0xC5] ++ src.bytes dst.num
  | .les dst src => [0xC4] ++ src.bytes dst.num
  | .lfs dst src => [0x0F, 0xB4] ++ src.bytes dst.num
  | .lgs dst src => [0x0F, 0xB5] ++ src.bytes dst.num
  | .lss dst src => [0x0F, 0xB2] ++ src.bytes dst.num
  | .clc => [0xF8]
  | .cld => [0xFC]
  | .cli => [0xFA]
  | .clts => [0x0F, 0x06]
  | .cmc => [0xF5]
  | .lahf => [0x9F]
  | .popf => [0x9D]
  | .pushf => [0x9C]
  | .sahf => [0x9E]
  | .sti => [0xFB]
  | .stc => [0xF9]
  | .std => [0xFD]
  | .addRmReg d w rm reg => [((0b000000#6) ++ bit d ++ bit w : Byte)] ++ rm.bytes reg.num
  | .addRmImm s w rm imm => [((0b100000#6) ++ bit s ++ bit w : Byte)] ++ rm.bytes 0 ++ imm.bytes
  | .addAccImm w imm => [((0b0000010#7) ++ bit w : Byte)] ++ imm.bytes
  | .adcRmReg d w rm reg => [((0b000100#6) ++ bit d ++ bit w : Byte)] ++ rm.bytes reg.num
  | .adcRmImm s w rm imm => [((0b100000#6) ++ bit s ++ bit w : Byte)] ++ rm.bytes 2 ++ imm.bytes
  | .adcAccImm w imm => [((0b0001010#7) ++ bit w : Byte)] ++ imm.bytes
  | .subRmReg d w rm reg => [((0b001010#6) ++ bit d ++ bit w : Byte)] ++ rm.bytes reg.num
  | .subRmImm s w rm imm => [((0b100000#6) ++ bit s ++ bit w : Byte)] ++ rm.bytes 5 ++ imm.bytes
  | .subAccImm w imm => [((0b0010110#7) ++ bit w : Byte)] ++ imm.bytes
  | .sbbRmReg d w rm reg => [((0b000110#6) ++ bit d ++ bit w : Byte)] ++ rm.bytes reg.num
  | .sbbRmImm s w rm imm => [((0b100000#6) ++ bit s ++ bit w : Byte)] ++ rm.bytes 3 ++ imm.bytes
  | .sbbAccImm w imm => [((0b0001110#7) ++ bit w : Byte)] ++ imm.bytes
  | .cmpRmReg d w rm reg => [((0b001110#6) ++ bit d ++ bit w : Byte)] ++ rm.bytes reg.num
  | .cmpRmImm s w rm imm => [((0b100000#6) ++ bit s ++ bit w : Byte)] ++ rm.bytes 7 ++ imm.bytes
  | .cmpAccImm w imm => [((0b0011110#7) ++ bit w : Byte)] ++ imm.bytes
  | .incRm w rm => [((0b1111111#7) ++ bit w : Byte)] ++ rm.bytes 0
  | .incReg reg => [((0b01000#5) ++ reg.num : Byte)]
  | .decRm w rm => [((0b1111111#7) ++ bit w : Byte)] ++ rm.bytes 1
  | .decReg reg => [((0b01001#5) ++ reg.num : Byte)]
  | .negRm w rm => [((0b1111011#7) ++ bit w : Byte)] ++ rm.bytes 3
  | .aaa => [0x37]
  | .aas => [0x3F]
  | .daa => [0x27]
  | .das => [0x2F]
  | .mulAcc w src => [((0b1111011#7) ++ bit w : Byte)] ++ src.bytes 4
  | .imulAcc w src => [((0b1111011#7) ++ bit w : Byte)] ++ src.bytes 5
  | .imulRegRm dst src => [0x0F, 0xAF] ++ src.bytes dst.num
  | .imulRegRmImm s dst src imm => [((0b011010#6) ++ bit s ++ (0b1#1) : Byte)] ++ src.bytes dst.num ++ imm.bytes
  | .divAcc w src => [((0b1111011#7) ++ bit w : Byte)] ++ src.bytes 6
  | .idivAcc w src => [((0b1111011#7) ++ bit w : Byte)] ++ src.bytes 7
  | .aad => [0xD5, 0x0A]
  | .aam => [0xD4, 0x0A]
  | .cbw => [0x98]
  | .cwd => [0x99]
  | .rolOne w rm => [((0b1101000#7) ++ bit w : Byte)] ++ rm.bytes 0
  | .rolCl w rm => [((0b1101001#7) ++ bit w : Byte)] ++ rm.bytes 0
  | .rolImm w rm count => [((0b1100000#7) ++ bit w : Byte)] ++ rm.bytes 0 ++ [count]
  | .rorOne w rm => [((0b1101000#7) ++ bit w : Byte)] ++ rm.bytes 1
  | .rorCl w rm => [((0b1101001#7) ++ bit w : Byte)] ++ rm.bytes 1
  | .rorImm w rm count => [((0b1100000#7) ++ bit w : Byte)] ++ rm.bytes 1 ++ [count]
  | .rclOne w rm => [((0b1101000#7) ++ bit w : Byte)] ++ rm.bytes 2
  | .rclCl w rm => [((0b1101001#7) ++ bit w : Byte)] ++ rm.bytes 2
  | .rclImm w rm count => [((0b1100000#7) ++ bit w : Byte)] ++ rm.bytes 2 ++ [count]
  | .rcrOne w rm => [((0b1101000#7) ++ bit w : Byte)] ++ rm.bytes 3
  | .rcrCl w rm => [((0b1101001#7) ++ bit w : Byte)] ++ rm.bytes 3
  | .rcrImm w rm count => [((0b1100000#7) ++ bit w : Byte)] ++ rm.bytes 3 ++ [count]
  | .shlOne w rm => [((0b1101000#7) ++ bit w : Byte)] ++ rm.bytes 4
  | .shlCl w rm => [((0b1101001#7) ++ bit w : Byte)] ++ rm.bytes 4
  | .shlImm w rm count => [((0b1100000#7) ++ bit w : Byte)] ++ rm.bytes 4 ++ [count]
  | .shrOne w rm => [((0b1101000#7) ++ bit w : Byte)] ++ rm.bytes 5
  | .shrCl w rm => [((0b1101001#7) ++ bit w : Byte)] ++ rm.bytes 5
  | .shrImm w rm count => [((0b1100000#7) ++ bit w : Byte)] ++ rm.bytes 5 ++ [count]
  | .sarOne w rm => [((0b1101000#7) ++ bit w : Byte)] ++ rm.bytes 7
  | .sarCl w rm => [((0b1101001#7) ++ bit w : Byte)] ++ rm.bytes 7
  | .sarImm w rm count => [((0b1100000#7) ++ bit w : Byte)] ++ rm.bytes 7 ++ [count]
  | .shldImm rm reg count => [0x0F, 0xA4] ++ rm.bytes reg.num ++ [count]
  | .shldCl rm reg => [0x0F, 0xA5] ++ rm.bytes reg.num
  | .shrdImm rm reg count => [0x0F, 0xAC] ++ rm.bytes reg.num ++ [count]
  | .shrdCl rm reg => [0x0F, 0xAD] ++ rm.bytes reg.num
  | .andRmReg d w rm reg => [((0b001000#6) ++ bit d ++ bit w : Byte)] ++ rm.bytes reg.num
  | .andRmImm w rm imm => [((0b1000000#7) ++ bit w : Byte)] ++ rm.bytes 4 ++ imm.bytes
  | .andRmImm8 rm imm => [0x83] ++ rm.bytes 4 ++ [imm]
  | .andAccImm w imm => [((0b0010010#7) ++ bit w : Byte)] ++ imm.bytes
  | .orRmReg d w rm reg => [((0b000010#6) ++ bit d ++ bit w : Byte)] ++ rm.bytes reg.num
  | .orRmImm w rm imm => [((0b1000000#7) ++ bit w : Byte)] ++ rm.bytes 1 ++ imm.bytes
  | .orRmImm8 rm imm => [0x83] ++ rm.bytes 1 ++ [imm]
  | .orAccImm w imm => [((0b0000110#7) ++ bit w : Byte)] ++ imm.bytes
  | .xorRmReg d w rm reg => [((0b001100#6) ++ bit d ++ bit w : Byte)] ++ rm.bytes reg.num
  | .xorRmImm w rm imm => [((0b1000000#7) ++ bit w : Byte)] ++ rm.bytes 6 ++ imm.bytes
  | .xorRmImm8 rm imm => [0x83] ++ rm.bytes 6 ++ [imm]
  | .xorAccImm w imm => [((0b0011010#7) ++ bit w : Byte)] ++ imm.bytes
  | .testRmReg w rm reg => [((0b1000010#7) ++ bit w : Byte)] ++ rm.bytes reg.num
  | .testRmImm w rm imm => [((0b1111011#7) ++ bit w : Byte)] ++ rm.bytes 0 ++ imm.bytes
  | .testAccImm w imm => [((0b1010100#7) ++ bit w : Byte)] ++ imm.bytes
  | .notRm w rm => [((0b1111011#7) ++ bit w : Byte)] ++ rm.bytes 2
  | .cmps w => [((0b1010011#7) ++ bit w : Byte)]
  | .ins w => [((0b0110110#7) ++ bit w : Byte)]
  | .lods w => [((0b1010110#7) ++ bit w : Byte)]
  | .movs w => [((0b1010010#7) ++ bit w : Byte)]
  | .outs w => [((0b0110111#7) ++ bit w : Byte)]
  | .scas w => [((0b1010111#7) ++ bit w : Byte)]
  | .stos w => [((0b1010101#7) ++ bit w : Byte)]
  | .xlat => [0xD7]
  | .repPrefix => [0xF3]
  | .repnePrefix => [0xF2]
  | .bsf dst src => [0x0F, 0xBC] ++ src.bytes dst.num
  | .bsr dst src => [0x0F, 0xBD] ++ src.bytes dst.num
  | .btImm rm off => [0x0F, 0xBA] ++ rm.bytes 4 ++ [off]
  | .btReg rm reg => [0x0F, 0xA3] ++ rm.bytes reg.num
  | .btcImm rm off => [0x0F, 0xBA] ++ rm.bytes 7 ++ [off]
  | .btcReg rm reg => [0x0F, 0xBB] ++ rm.bytes reg.num
  | .btrImm rm off => [0x0F, 0xBA] ++ rm.bytes 6 ++ [off]
  | .btrReg rm reg => [0x0F, 0xB3] ++ rm.bytes reg.num
  | .btsImm rm off => [0x0F, 0xBA] ++ rm.bytes 5 ++ [off]
  | .btsReg rm reg => [0x0F, 0xAB] ++ rm.bytes reg.num
  | .callRel disp => [0xE8] ++ disp.bytes
  | .callRm target => [0xFF] ++ target.bytes 2
  | .jmpShort disp => [0xEB] ++ [disp]
  | .jmpRel disp => [0xE9] ++ disp.bytes
  | .jmpRm target => [0xFF] ++ target.bytes 4
  | .retNear => [0xC3]
  | .retNearImm bytes => [0xC2] ++ bytes16 bytes
  | .jccShort c disp => [((0b0111#4) ++ c.num : Byte)] ++ [disp]
  | .jccNear c disp => [0x0F, ((0b1000#4) ++ c.num : Byte)] ++ disp.bytes
  | .jcxz disp => [0xE3] ++ [disp]
  | .loop disp => [0xE2] ++ [disp]
  | .loopz disp => [0xE1] ++ [disp]
  | .loopnz disp => [0xE0] ++ [disp]
  | .callFar off sel => [0x9A] ++ off.bytes ++ bytes16 sel
  | .callFarMem target => [0xFF] ++ target.bytes 3
  | .jmpFar off sel => [0xEA] ++ off.bytes ++ bytes16 sel
  | .jmpFarMem target => [0xFF] ++ target.bytes 5
  | .retFar => [0xCB]
  | .retFarImm bytes => [0xCA] ++ bytes16 bytes
  | .setcc c dst => [0x0F, ((0b1001#4) ++ c.num : Byte)] ++ dst.bytes 0
  | .enter size level => [0xC8] ++ bytes16 size ++ [level]
  | .leave => [0xC9]
  | .int vector => [0xCD] ++ [vector]
  | .int3 => [0xCC]
  | .into => [0xCE]
  | .bound index bounds => [0x62] ++ bounds.bytes index.num
  | .iret => [0xCF]
  | .hlt => [0xF4]
  | .movCrReg dst src => [0x0F, 0x22, ((0b11#2) ++ dst.num ++ src.num : Byte)]
  | .movRegCr dst src => [0x0F, 0x20, ((0b11#2) ++ src.num ++ dst.num : Byte)]
  | .movDrReg dst src => [0x0F, 0x23, ((0b11#2) ++ dst.num ++ src.num : Byte)]
  | .movRegDr dst src => [0x0F, 0x21, ((0b11#2) ++ src.num ++ dst.num : Byte)]
  | .movTrReg dst src => [0x0F, 0x26, ((0b11#2) ++ dst.num ++ src.num : Byte)]
  | .movRegTr dst src => [0x0F, 0x24, ((0b11#2) ++ src.num ++ dst.num : Byte)]
  | .nop => [0x90]
  | .wait => [0x9B]
  | .esc ttt lll rm => [((0b11011#5) ++ ttt : Byte)] ++ rm.bytes lll
  | .addressSizePrefix => [0x67]
  | .lockPrefix => [0xF0]
  | .operandSizePrefix => [0x66]
  | .csPrefix => [0x2E]
  | .dsPrefix => [0x3E]
  | .esPrefix => [0x26]
  | .fsPrefix => [0x64]
  | .gsPrefix => [0x65]
  | .ssPrefix => [0x36]
  | .arpl dst src => [0x63] ++ dst.bytes src.num
  | .lar dst src => [0x0F, 0x02] ++ src.bytes dst.num
  | .lgdt src => [0x0F, 0x01] ++ src.bytes 2
  | .lidt src => [0x0F, 0x01] ++ src.bytes 3
  | .lldt src => [0x0F, 0x00] ++ src.bytes 2
  | .lmsw src => [0x0F, 0x01] ++ src.bytes 6
  | .lsl dst src => [0x0F, 0x03] ++ src.bytes dst.num
  | .ltr src => [0x0F, 0x00] ++ src.bytes 3
  | .sgdt dst => [0x0F, 0x01] ++ dst.bytes 0
  | .sidt dst => [0x0F, 0x01] ++ dst.bytes 1
  | .sldt dst => [0x0F, 0x00] ++ dst.bytes 0
  | .smsw dst => [0x0F, 0x01] ++ dst.bytes 4
  | .str dst => [0x0F, 0x00] ++ dst.bytes 1
  | .verr src => [0x0F, 0x00] ++ src.bytes 4
  | .verw src => [0x0F, 0x00] ++ src.bytes 5

/-! ## The table's words -/

/-- The `n` bytes of `w`, its most significant byte first: spec/opcode_table.json numbers a row's bits with the first byte
in address order the most significant (INDEX.md, `match`; log 6). -/
def tableBytes (n w : Nat) : List Byte :=
  match n with
  | 0 => []
  | k + 1 => BitVec.ofNat 8 (w >>> (8 * k)) :: tableBytes k w

/-- The longest instruction, in bytes (R202). -/
def maxLength : Nat := 15

/-- The bytes of the instruction whose first `nbits` bits are `w`, every later byte zero, up to the longest instruction. -/
def tableWordBytes (nbits w : Nat) : List Byte :=
  tableBytes (nbits / 8) w ++ List.replicate (maxLength - nbits / 8) 0

/-- The instruction the decoder reads, in the sizes the machine has after reset, from the instruction whose bits are `w`
as the table numbers them (log 6). -/
def decodeTableWord (nbits w : Nat) : Option Instr :=
  match decode { os32 := false, as32 := false } (tableWordBytes nbits w) with
  | .ok i _ => some i
  | .more => none
  | .undefinedOpcode => none
  | .refused _ => none

end Sys2Proof
end

