-- ==== Sys2Proof/Config.lean ====
section
/-! DEFINITION. What an implementation fixes (00_scope.md R7) and the free values: constants with no body, of which
nothing can be proved (log 4, 5). -/

namespace Sys2Proof.Config

/-- The free values: the n-th value the manual leaves open (R50, 93_implementation_defined.md `any value`; log 4). -/
opaque freeValue : Nat → Dword

/-- CR0 bits 30:4 as they are read: one unspecified constant for the run (10_state.md R58, D3; log 5). -/
opaque cr0Reserved : BitVec 27

/-- DL after reset, the revision identifier; the spec gives 04H for stepping A0 and 05H for stepping B
(R7, R92). DESIGN CHOICE: stepping B (log 3). -/
def revision : Byte := 0x05

/-- EAX after a reset that requested no self-test (R93, D5). DESIGN CHOICE: zero (log 2). -/
def resetEax : Dword := 0

/-- How many bytes from the start of the running instruction may already be queued or decoded (R71, R145): the
instruction itself (15), the queue (16) and three decoded instructions (45). DESIGN CHOICE (log 9). -/
def prefetchReach : Nat := 76

/-- The prefetch queue holds 16 bytes (R7, R71). -/
def queueBytes : Nat := 16

/-- The prefetcher fills the queue with two bytes per fetch (R7, R8). -/
def fetchBytes : Nat := 2

/-- The TLB holds at most 32 entries (R7, R134). -/
def tlbSize : Nat := 32

end Sys2Proof.Config
end

