-- ==== Sys2Proof/Machine/State.lean ====
section
/-! DEFINITION. The state of the machine as plain data (10_state.md), the reasons a step can stop, and the state after
reset (70_reset_and_hazards.md R706). INVENTORY.md lists every field with its rule. -/

namespace Sys2Proof.Machine

/-! ## Why a step stops -/

/-- A step of this machine never ends in a fault: the manual's exceptions are next states, and every physical address
exists (R101, R103, D9). So no constructor: safe. -/
inductive Fault where
  deriving DecidableEq, Repr

/-- The behaviours to which the manual gives no effect. Raised by the operations named in each line; each is safe, the
model stops where the hardware would do something the manual does not state. -/
inductive Refusal where
  /-- An arm of `exec` whose instruction has no meaning yet. Safe. -/
  | notModelled (mnemonic : String)
  /-- AAM or AAD with a second byte other than 0AH (R366, R367, U6), raised by the decoder. Safe. -/
  | asciiBase
  /-- MOV to or from CRn, DRn, TRn whose third byte has its top bits not 11 (R512, U2), raised by the decoder. Safe. -/
  | specialMod
  /-- An encoding outside Table 8-1 that is known to execute an undocumented operation (R240, U4; log 32), raised by the
  decoder. Safe. -/
  | undocumentedOpcode
  /-- MOV to or from DR4 or DR5 (R69, D6). Safe. -/
  | reservedDebugRegister
  /-- MOV to DR7 of a field RWi = 10 or LENi = 10 (R68, U15). Safe. -/
  | undefinedBreakpointCode
  /-- An I/O access whose last byte lies beyond port FFFFH (R136, U9). Safe. -/
  | ioBeyondLastPort
  /-- Sequential execution past the last offset of the code segment's address width (R35, U29). Safe. -/
  | instructionPointerWrap
  /-- An interrupt or exception in Virtual 8086 Mode that finds a 286 gate (R662, U14). Safe. -/
  | gate286FromVirtual8086
  /-- A task switch to a TSS that is partially not present (R616 case 1, U13). Safe. -/
  | partialTss
  /-- A coprocessor operand that wraps, spans three pages and has its middle page not present (R616 case 2, U13). Safe. -/
  | wrappedCoprocessorOperand
  /-- A segment load, a delivery, or a far transfer other than JMP between a change of CR0.PE and the far JMP
  (R725). Safe. -/
  | modeChangeWithoutJump
  deriving DecidableEq, Repr

/-! ## Registers -/

/-- A physical address: 24 bits (R103). -/
abbrev PAddr := BitVec 24

/-- The eight general registers (R31). -/
structure Gpr where
  eax : Dword
  ecx : Dword
  edx : Dword
  ebx : Dword
  esp : Dword
  ebp : Dword
  esi : Dword
  edi : Dword
  deriving DecidableEq, Repr

/-- The defined bits of EFLAGS (R36 to R49). The reserved bits hold no state (R52, D2). -/
structure EFlags where
  cf : Bool
  pf : Bool
  af : Bool
  zf : Bool
  sf : Bool
  tf : Bool
  intf : Bool
  df : Bool
  ovf : Bool
  iopl : BitVec 2
  nt : Bool
  rf : Bool
  vm : Bool
  deriving DecidableEq, Repr

/-- A segment register with its descriptor cache (R53, R54). `limit` is the limit after scaling (R115). `ec` is ED of a
data segment and C of a code segment, `rw` is W of a data segment and R of a code segment, `big` is the D/B bit (R121,
R122). `valid` is false after a null load or a failed task switch (R127, R650). -/
structure SegReg where
  selector : Word
  base : Dword
  limit : Dword
  valid : Bool
  present : Bool
  dpl : BitVec 2
  s : Bool
  exec : Bool
  ec : Bool
  rw : Bool
  accessed : Bool
  gran : Bool
  big : Bool
  deriving DecidableEq, Repr

/-- The six segment registers (R53). -/
structure Segs where
  es : SegReg
  cs : SegReg
  ss : SegReg
  ds : SegReg
  fs : SegReg
  gs : SegReg
  deriving DecidableEq, Repr

/-- The defined bits of CR0 (R58); bits 30:4 hold no state (D3). -/
structure CR0 where
  pe : Bool
  mp : Bool
  em : Bool
  ts : Bool
  pg : Bool
  deriving DecidableEq, Repr

/-- GDTR or IDTR (R63). -/
structure TableReg where
  base : Dword
  limit : Word
  deriving DecidableEq, Repr

/-- LDTR with its hidden part; not `valid` means unusable (R64). -/
structure LdtReg where
  selector : Word
  base : Dword
  limit : Dword
  valid : Bool
  deriving DecidableEq, Repr

/-- TR with its hidden part and the format of its TSS (R65). -/
structure TaskReg where
  selector : Word
  base : Dword
  limit : Dword
  is386 : Bool
  deriving DecidableEq, Repr

/-- The debug registers (R66 to R68); DR4 and DR5 hold no state (R69). -/
structure DebugRegs where
  dr0 : Dword
  dr1 : Dword
  dr2 : Dword
  dr3 : Dword
  dr6 : Dword
  dr7 : Dword
  deriving DecidableEq, Repr

/-- The test registers (R70). -/
structure TestRegs where
  tr6 : Dword
  tr7 : Dword
  deriving DecidableEq, Repr

/-! ## Bookkeeping -/

/-- The run state (R75). -/
inductive Run where
  | running
  | halted
  | shutdown
  deriving DecidableEq, Repr

/-- The one-instruction interrupt inhibit with its cause (R74, R611). -/
inductive Inhibit where
  | none
  | ss
  | sti
  deriving DecidableEq, Repr

/-- The causes of exception 1 that DR6 names (R67, R671). -/
structure DebugCauses where
  b0 : Bool
  b1 : Bool
  b2 : Bool
  b3 : Bool
  bs : Bool
  bt : Bool
  deriving DecidableEq, Repr

/-- No cause. -/
def DebugCauses.none : DebugCauses := ⟨false, false, false, false, false, false⟩

/-- The repeat prefixes (R203). -/
inductive Rep where
  | rep
  | repne
  deriving DecidableEq, Repr

/-- The prefixes of one instruction (R203, D15). -/
structure Prefixes where
  opsize : Bool
  addrsize : Bool
  lock : Bool
  seg : Option SReg
  rep : Option Rep
  deriving DecidableEq, Repr

/-- No prefix. -/
def Prefixes.none : Prefixes := ⟨false, false, false, Option.none, Option.none⟩

/-- The decode register: the instruction being executed. The MODEL's own field (log 8): its prefixes, how many bytes of it
have been read, the data breakpoints its accesses have matched so far (R672). -/
structure Current where
  pfx : Prefixes
  len : Nat
  hits : DebugCauses
  deriving DecidableEq, Repr

/-- No instruction. -/
def Current.none : Current := ⟨Prefixes.none, 0, DebugCauses.none⟩

/-- Everything inside the processor that an exception restores (R603). -/
structure Cpu where
  gpr : Gpr
  eip : Dword
  flags : EFlags
  segs : Segs
  cpl : BitVec 2
  cr0 : CR0
  cr2 : Dword
  cr3 : Dword
  gdtr : TableReg
  idtr : TableReg
  ldtr : LdtReg
  tr : TaskReg
  dbg : DebugRegs
  test : TestRegs
  run : Run
  nmiInService : Bool
  nmiPending : Bool
  /-- The level of the NMI pin when it was last looked at; a rise above it is an edge (R609). -/
  nmiLevel : Bool
  inhibit : Inhibit
  /-- Exception 1 traps of the instruction just completed (R615 step 1). -/
  trap : DebugCauses
  /-- A repeated string instruction has done an element and has not ended (R421, R673). -/
  repActive : Bool
  /-- An ESC has passed its checks and waits for BUSY# to become inactive before it sends its opcode (R522). -/
  escWaiting : Bool
  /-- CR0.PE has changed and no far JMP has been executed since (R725; log 15). -/
  peSwitched : Bool
  cur : Current
  deriving DecidableEq, Repr

/-- A TLB entry: linear page, frame, combined U/S and R/W, and D (R72, R134). -/
structure TlbEntry where
  page : BitVec 20
  frame : BitVec 20
  user : Bool
  writable : Bool
  dirty : Bool
  deriving DecidableEq, Repr

/-- Physical memory: the bytes that differ from what an unlisted address reads as, by strictly rising address. -/
structure Memory where
  cells : List Host.Cell
  deriving DecidableEq, Repr

/-! ## The environment -/

/-- One transfer the coprocessor asks for with PEREQ (R76, R522; log 22). -/
inductive CoRequest where
  | toMemory (v : Word)
  | fromMemory
  deriving DecidableEq, Repr

/-- What the processor presents to the outside (R742), one event for each access; Machine/Bus.lean splits it into bus cycles.
The bytes of a memory access stand with their addresses, in the order of their cycles (D8; log 11). -/
inductive BusEvent where
  | memRead (code : Bool) (bytes : List (PAddr × Byte))
  | memWrite (bytes : List (PAddr × Byte))
  | ioRead (port : Word) (bytes : Nat) (value : Dword)
  | ioWrite (port : Word) (bytes : Nat) (value : Dword)
  | intAck (vector : Byte)
  | halt
  | shutdown
  /-- The opcode written to port 8000F8H (R522, R524). -/
  | coOpcode (ttt lll : BitVec 3) (rm : RM)
  /-- A word read from an operand port, 8000FCH or 8000FEH (R522, R524). -/
  | coRead (port : PAddr) (value : Word)
  /-- A word written to an operand port (R522, R524). -/
  | coWrite (port : PAddr) (value : Word)
  deriving DecidableEq, Repr

/-- The pins and scripted answers the environment sets between steps, and the bus events it has seen, newest first
(92_eei_decisions.md Environment inputs; log 11, 12, 22, 23). `resetAfter`: RESET becomes active when that many more bus
cycles are done, in the middle of an instruction (R702). -/
structure Env where
  reset : Bool
  resetAfter : Option Nat
  nmi : Bool
  intr : Bool
  intVectors : List Byte
  busy : Bool
  error : Bool
  coRequests : List CoRequest
  ioIn : List Dword
  trace : List BusEvent
  deriving DecidableEq, Repr

/-- The state of the machine. `queue` lists the words of code read into the prefetch queue since it was last emptied, newest
first (R7, R8, R71; log 11); `prefetch` lists bytes that may still be queued with an older value (R71, R145; log 9).
`free` numbers the free values: the MODEL's own field (log 4). -/
structure State where
  cpu : Cpu
  mem : Memory
  tlb : List TlbEntry
  queue : List PAddr
  prefetch : List Host.Cell
  /-- The linear address of the instruction that changed CR0.PG, until the prefetch queue is emptied (R71, R726; log 52). -/
  pgSwitch : Option Dword
  env : Env
  free : Nat
  deriving DecidableEq, Repr

/-! ## Reset -/

/-- EFLAGS after reset: every defined flag is zero (R90). -/
def EFlags.reset : EFlags :=
  ⟨false, false, false, false, false, false, false, false, false, 0, false, false, false⟩

/-- A descriptor cache after reset: present, writable data, DPL 0, 16-bit default (R706, D5); the A and G bits are a DESIGN
CHOICE (log 2). -/
def SegReg.reset (selector : Word) (base : Dword) (exec : Bool) : SegReg :=
  { selector := selector, base := base, limit := 0xFFFF, valid := true, present := true, dpl := 0, s := true,
    exec := exec, ec := false, rw := true, accessed := true, gran := false, big := false }

/-- The processor after reset; `eax` is 0 after a passed self-test, else RESET_EAX (R90 to R95, R704, R706). The registers
Table 2.8 calls undefined are zero: DESIGN CHOICE (log 2). -/
def Cpu.reset (eax : Dword) : Cpu :=
  { gpr := { eax := eax, ecx := 0, edx := 0x2300#32 ||| Config.revision.setWidth 32, ebx := 0, esp := 0, ebp := 0,
             esi := 0, edi := 0 }
    eip := 0xFFF0
    flags := EFlags.reset
    segs := { es := SegReg.reset 0 0 false, cs := SegReg.reset 0xF000 0xFFFF0000 true, ss := SegReg.reset 0 0 false,
              ds := SegReg.reset 0 0 false, fs := SegReg.reset 0 0 false, gs := SegReg.reset 0 0 false }
    cpl := 0
    cr0 := ⟨false, false, false, false, false⟩
    cr2 := 0
    cr3 := 0
    gdtr := ⟨0, 0⟩
    idtr := ⟨0, 0x3FF⟩
    ldtr := ⟨0, 0, 0, false⟩
    tr := ⟨0, 0, 0, true⟩
    dbg := ⟨0, 0, 0, 0, 0, 0⟩
    test := ⟨0, 0⟩
    run := .running
    nmiInService := false
    nmiPending := false
    nmiLevel := false
    inhibit := .none
    trap := DebugCauses.none
    repActive := false
    escWaiting := false
    peSwitched := false
    cur := Current.none }

/-- The pins inactive and nothing scripted (D9). -/
def Env.quiet : Env :=
  { reset := false, resetAfter := none, nmi := false, intr := false, intVectors := [], busy := false, error := false,
    coRequests := [], ioIn := [], trace := [] }

/-- The machine right after reset (R706): memory with nothing listed. -/
def State.reset : State :=
  { cpu := Cpu.reset Config.resetEax, mem := ⟨[]⟩, tlb := [], queue := [], prefetch := [], pgSwitch := none, env := Env.quiet, free := 0 }

end Sys2Proof.Machine
end

