-- ==== Sys2Proof/Machine/Bus.lean ====
section
/-! DEFINITION. The bus cycles of an event: cycle types, addresses and byte enables (70_reset_and_hazards.md R742, 20_memory.md
R105, R106, R136, 50_processor_control.md R524, 60_exceptions.md R608). -/

namespace Sys2Proof.Machine

/-- A bus cycle: the three signals of Table 5.2, the address on A23 to A1 with bit 0 clear, and the byte enables of Table 5.1;
`true` is HIGH. -/
structure BusCycle where
  mio : Bool
  dc : Bool
  wr : Bool
  addr : PAddr
  bhe : Bool
  ble : Bool
  deriving DecidableEq, Repr

/-- The bytes of an access, cycle by cycle: an aligned word or one byte each, the lowest address first (R105, R106, D8). -/
def splitCycles : List (PAddr × Byte) → List (List (PAddr × Byte))
  | [] => []
  | [x] => [[x]]
  | x :: y :: rest =>
    if x.1.getLsbD 0 = false ∧ y.1 = x.1 + 1 then [x, y] :: splitCycles rest else [x] :: splitCycles (y :: rest)

/-- The cycle that moves one byte or an aligned word (Table 5.1). -/
def dataCycle (mio dc wr : Bool) (bytes : List (PAddr × Byte)) : BusCycle :=
  let a := (bytes.map (·.1)).getD 0 0
  { mio := mio, dc := dc, wr := wr, addr := a &&& 0xFFFFFE, bhe := bytes.length == 1 && !a.getLsbD 0,
    ble := a.getLsbD 0 }

/-- The bytes of an I/O access; a port of the program is zero-extended on the upper address lines (R136). -/
def portBytes (port : PAddr) (n : Nat) (v : Dword) : List (PAddr × Byte) :=
  (List.range n).map fun i => (port + BitVec.ofNat 24 i, v.extractLsb' (8 * i) 8)

/-- The opcode port of the coprocessor (R524). -/
def coOpcodePort : PAddr := 0x8000F8

/-- The operand port of the word `k` bytes into a coprocessor operand: 8000FCH, and 8000FEH for the second word of each dword
(R524; log 22). -/
def coOperandPort (k : Dword) : PAddr := if k.getLsbD 1 then 0x8000FE else 0x8000FC

/-- The bus cycles of an event (Table 5.2): the halt and shutdown indications are told apart by their addresses 2 and 0, the two
interrupt acknowledge cycles by 4 and 0 (R608). -/
def BusEvent.cycles : BusEvent → List BusCycle
  | .memRead code bytes => (splitCycles bytes).map (dataCycle true (!code) false)
  | .memWrite bytes => (splitCycles bytes).map (dataCycle true true true)
  | .ioRead port n v => (splitCycles (portBytes (port.setWidth 24) n v)).map (dataCycle false true false)
  | .ioWrite port n v => (splitCycles (portBytes (port.setWidth 24) n v)).map (dataCycle false true true)
  | .intAck _ => [⟨false, false, false, 4, true, false⟩, ⟨false, false, false, 0, true, false⟩]
  | .halt => [⟨true, false, true, 2, true, false⟩]
  | .shutdown => [⟨true, false, true, 0, true, false⟩]
  | .coOpcode _ _ _ => (splitCycles (portBytes coOpcodePort 2 0)).map (dataCycle false true true)
  | .coRead port v => (splitCycles (portBytes port 2 (v.setWidth 32))).map (dataCycle false true false)
  | .coWrite port v => (splitCycles (portBytes port 2 (v.setWidth 32))).map (dataCycle false true true)

/-! ## A sequence of events cut short (R702; log 23) -/

/-- The first bytes of a value. -/
def lowBytes (n : Nat) (v : Dword) : Dword := v &&& BitVec.ofNat 32 (2 ^ (8 * n) - 1)

/-- What the first `n` cycles of an event amount to; the vector of an interrupt acknowledge comes with its last cycle. -/
def BusEvent.cut (n : Nat) : BusEvent → Option BusEvent
  | .memRead code bytes => if n = 0 then none else some (.memRead code ((splitCycles bytes).take n).flatten)
  | .memWrite bytes => if n = 0 then none else some (.memWrite ((splitCycles bytes).take n).flatten)
  | .ioRead port k v =>
    if n = 0 then none
    else
      let done := ((splitCycles (portBytes (port.setWidth 24) k v)).take n).flatten.length
      some (.ioRead port done (lowBytes done v))
  | .ioWrite port k v =>
    if n = 0 then none
    else
      let done := ((splitCycles (portBytes (port.setWidth 24) k v)).take n).flatten.length
      some (.ioWrite port done (lowBytes done v))
  | .intAck _ => none
  | .halt => none
  | .shutdown => none
  | .coOpcode _ _ _ => none
  | .coRead _ _ => none
  | .coWrite _ _ => none

/-- The events of the first `n` bus cycles, the oldest first. -/
def cutEvents (n : Nat) : List BusEvent → List BusEvent
  | [] => []
  | e :: rest => if e.cycles.length ≤ n then e :: cutEvents (n - e.cycles.length) rest else (e.cut n).toList

/-- The number of bus cycles of events. -/
def countCycles (es : List BusEvent) : Nat := (es.map fun e => e.cycles.length).sum

/-- The event takes a scripted I/O answer. -/
def BusEvent.isIoRead : BusEvent → Bool
  | .ioRead _ _ _ => true
  | .memRead _ _ => false
  | .memWrite _ => false
  | .ioWrite _ _ _ => false
  | .intAck _ => false
  | .halt => false
  | .shutdown => false
  | .coOpcode _ _ _ => false
  | .coRead _ _ => false
  | .coWrite _ _ => false

/-- The event takes a scripted interrupt vector. -/
def BusEvent.isIntAck : BusEvent → Bool
  | .intAck _ => true
  | .memRead _ _ => false
  | .memWrite _ => false
  | .ioRead _ _ _ => false
  | .ioWrite _ _ _ => false
  | .halt => false
  | .shutdown => false
  | .coOpcode _ _ _ => false
  | .coRead _ _ => false
  | .coWrite _ _ => false

/-- The event takes the requests of the coprocessor. -/
def BusEvent.isCoOpcode : BusEvent → Bool
  | .coOpcode _ _ _ => true
  | .memRead _ _ => false
  | .memWrite _ => false
  | .ioRead _ _ _ => false
  | .ioWrite _ _ _ => false
  | .intAck _ => false
  | .halt => false
  | .shutdown => false
  | .coRead _ _ => false
  | .coWrite _ _ => false

end Sys2Proof.Machine
end

