-- ==== Sys2Proof/Machine/Effect.lean ====
section
/-! DEFINITION. The effect type of the meanings: how an instruction reads and changes the state, raises an exception, is
refused; operand sizes, modes, and access to the registers. -/

namespace Sys2Proof.Machine

/-! ## Operand sizes (R208) -/

/-- Byte, word, dword. -/
inductive Sz where
  | b
  | w
  | d
  deriving DecidableEq, Repr

/-- The number of bytes. -/
def Sz.bytes : Sz → Nat
  | .b => 1
  | .w => 2
  | .d => 4

/-- The number of bits. -/
abbrev Sz.bits : Sz → Nat
  | .b => 8
  | .w => 16
  | .d => 32

/-! ## The effect type -/

/-- An exception with its error code (R606), the address CR2 takes (R135) and the bits DR6 gains (R671). `own`: a fault of the
instruction itself, whose code takes no EXT even where a delivery finds it (R606). -/
structure Exc where
  vector : Byte
  code : Option Word
  cr2 : Option Dword
  dr6 : Dword
  own : Bool
  deriving DecidableEq, Repr

/-- Why an instruction does not complete. `exc`: an exception, the registers are restored (R603). `committed`: an exception
past a point of no return, the registers stand (R605, R652). -/
inductive Stop where
  | exc (e : Exc)
  | committed (e : Exc)
  | refuse (r : Refusal)
  | shutdown
  deriving DecidableEq, Repr

/-- A meaning: a function of the state that answers a value and the next state, or stops. -/
abbrev M := EStateM Stop State

/-- The processor. -/
def getCpu : M Cpu := fun s => .ok s.cpu s

/-- The whole state. -/
def getState : M State := fun s => .ok s s

/-- Change the processor. -/
def modifyCpu (f : Cpu → Cpu) : M Unit := fun s => .ok () { s with cpu := f s.cpu }

/-- Change the environment. -/
def modifyEnv (f : Env → Env) : M Unit := fun s => .ok () { s with env := f s.env }

/-- The state with a bus event recorded (R742; log 11). -/
def State.traced (s : State) (e : BusEvent) : State := { s with env := { s.env with trace := e :: s.env.trace } }

/-- Record a bus event (R742; log 11). -/
def emit (e : BusEvent) : M Unit := fun s => .ok () (s.traced e)

/-- Raise an exception. -/
def raiseExc {α : Type} (e : Exc) : M α := fun s => .error (.exc e) s

/-- Raise an exception that leaves the registers as they are now. -/
def raiseCommitted {α : Type} (e : Exc) : M α := fun s => .error (.committed e) s

/-- Refuse by name. -/
def refuse {α : Type} (r : Refusal) : M α := fun s => .error (.refuse r) s

/-- Enter shutdown (R682, R683). -/
def shutdown {α : Type} : M α := fun s => .error .shutdown s

/-- Go on only when the condition holds, else raise. -/
def require (c : Bool) (e : Exc) : M Unit := if c then pure () else raiseExc e

/-- The next free value (R50, 93_implementation_defined.md; log 4). -/
def draw : M Dword := fun s => .ok (Config.freeValue s.free) { s with free := s.free + 1 }

/-- A free bit (log 4). -/
def drawBit : M Bool := do
  let v ← draw
  pure (v.getLsbD 0)

/-! ## The exceptions by name (R601, R606) -/

/-- An exception with no error code. -/
def Exc.plain (vector : Byte) : Exc := ⟨vector, none, none, 0, false⟩

/-- An exception with an error code. -/
def Exc.coded (vector : Byte) (code : Word) : Exc := ⟨vector, some code, none, 0, false⟩

/-- Exception 0, divide error (R623). -/
def Exc.de : Exc := .plain 0

/-- Exception 1 as a fault, with its DR6 bits (R624). -/
def Exc.db (bits : Dword) : Exc := ⟨1, none, none, bits, false⟩

/-- Exception 5, bounds check (R494). -/
def Exc.br : Exc := .plain 5

/-- Exception 6, invalid opcode (R627). -/
def Exc.ud : Exc := .plain 6

/-- Exception 7, device not available (R628). -/
def Exc.nm : Exc := .plain 7

/-- Exception 9, coprocessor segment overrun (R631). -/
def Exc.co : Exc := .plain 9

/-- Exception 10, invalid TSS (R641). -/
def Exc.ts (code : Word) : Exc := .coded 10 code

/-- Exception 11, segment not present (R642). -/
def Exc.np (code : Word) : Exc := .coded 11 code

/-- Exception 12, stack fault (R643). -/
def Exc.ss (code : Word) : Exc := .coded 12 code

/-- Exception 13, general protection (R645). -/
def Exc.gp (code : Word) : Exc := .coded 13 code

/-- Exception 16, coprocessor error (R647). -/
def Exc.mf : Exc := .plain 16

/-- The error code of a selector: its low two bits cleared (R606). -/
def selCode (sel : Word) : Word := sel &&& 0xFFFC

/-- Values 0000H to 0003H (R118). -/
def isNull (sel : Word) : Bool := sel &&& 0xFFFC == 0

/-- The requested privilege level of a selector (R118). -/
def rpl (sel : Word) : BitVec 2 := sel.setWidth 2

/-- A selector with its RPL replaced (R457). -/
def withRpl (sel : Word) (l : BitVec 2) : Word := sel.extractLsb' 2 14 ++ l

/-! ## Modes and sizes -/

/-- Real Mode (R58). -/
def Cpu.real (c : Cpu) : Bool := !c.cr0.pe

/-- Virtual 8086 Mode (R49). -/
def Cpu.v86 (c : Cpu) : Bool := c.cr0.pe && c.flags.vm

/-- Protected Mode proper (PE = 1, VM = 0). -/
def Cpu.prot (c : Cpu) : Bool := c.cr0.pe && !c.flags.vm

/-- The default size is 32 bits: D of the cached CS, and 16 bits in Real and Virtual 8086 Mode (R206). -/
def Cpu.code32 (c : Cpu) : Bool := c.prot && c.segs.cs.big

/-- The operand size is 32 bits (R206). -/
def Cpu.os32 (c : Cpu) : Bool := c.code32 != c.cur.pfx.opsize

/-- The address size is 32 bits (R206). -/
def Cpu.as32 (c : Cpu) : Bool := c.code32 != c.cur.pfx.addrsize

/-- The sizes the decoder reads the instruction under (R206). -/
def Cpu.ctx (c : Cpu) : Ctx := ⟨c.os32, c.as32⟩

/-- The full operand size: word or dword (R207). -/
def Cpu.osz (c : Cpu) : Sz := if c.os32 then .d else .w

/-- The operand size of an instruction with width bit `w` (R208). -/
def Cpu.size (c : Cpu) (w : Bool) : Sz := if w then c.osz else .b

/-- Accesses of the program are user accesses at CPL 3 (R133). -/
def Cpu.user (c : Cpu) : Bool := c.cpl == 3

/-- The operand size of width bit `w`. -/
def opSize (w : Bool) : M Sz := do
  let c ← getCpu
  pure (c.size w)

/-- The offset of the byte after the instruction (R34). -/
def Cpu.next (c : Cpu) : Dword := c.eip + BitVec.ofNat 32 c.cur.len

/-! ## General registers (R31, R32, R212) -/

/-- A 32-bit register. -/
def Gpr.get (g : Gpr) : Reg → Dword
  | .eax => g.eax
  | .ecx => g.ecx
  | .edx => g.edx
  | .ebx => g.ebx
  | .esp => g.esp
  | .ebp => g.ebp
  | .esi => g.esi
  | .edi => g.edi

/-- Replace a 32-bit register. -/
def Gpr.set (g : Gpr) (r : Reg) (v : Dword) : Gpr :=
  match r with
  | .eax => { g with eax := v }
  | .ecx => { g with ecx := v }
  | .edx => { g with edx := v }
  | .ebx => { g with ebx := v }
  | .esp => { g with esp := v }
  | .ebp => { g with ebp := v }
  | .esi => { g with esi := v }
  | .edi => { g with edi := v }

/-- The 32-bit register an 8-bit register number lies in (R32, R212). -/
def byteHome : Reg → Reg
  | .eax => .eax
  | .ecx => .ecx
  | .edx => .edx
  | .ebx => .ebx
  | .esp => .eax
  | .ebp => .ecx
  | .esi => .edx
  | .edi => .ebx

/-- The 8-bit register numbers 100 to 111 name the bits 15:8 (R212). -/
def byteHigh : Reg → Bool
  | .eax => false
  | .ecx => false
  | .edx => false
  | .ebx => false
  | .esp => true
  | .ebp => true
  | .esi => true
  | .edi => true

/-- The register of a size and number (R212). -/
def Gpr.read (g : Gpr) (sz : Sz) (r : Reg) : BitVec sz.bits :=
  match sz with
  | .b => (g.get (byteHome r)).extractLsb' (if byteHigh r then 8 else 0) 8
  | .w => (g.get r).setWidth 16
  | .d => g.get r

/-- Write the register of a size and number; the other bits of the 32-bit register keep their value (R32). -/
def Gpr.write (g : Gpr) (sz : Sz) (r : Reg) (v : BitVec sz.bits) : Gpr :=
  match sz with
  | .b =>
    let old := g.get (byteHome r)
    if byteHigh r then g.set (byteHome r) (old.extractLsb' 16 16 ++ v ++ old.extractLsb' 0 8)
    else g.set (byteHome r) (old.extractLsb' 8 24 ++ v)
  | .w => g.set r ((g.get r).extractLsb' 16 16 ++ v)
  | .d => g.set r v

/-- Read a general register. -/
def readReg (sz : Sz) (r : Reg) : M (BitVec sz.bits) := do
  let c ← getCpu
  pure (c.gpr.read sz r)

/-- Write a general register. -/
def writeReg (sz : Sz) (r : Reg) (v : BitVec sz.bits) : M Unit :=
  modifyCpu fun c => { c with gpr := c.gpr.write sz r v }

/-- The register AH, CH, DH, BH of a 32-bit register named by its 8-bit number (R212): AH is number 100. -/
abbrev regAh : Reg := .esp

/-- The byte write that names AH. -/
def writeAh (v : Byte) : M Unit := writeReg .b regAh v

/-! ## Segment registers -/

/-- A segment register with its cache. -/
def Segs.get (g : Segs) : SReg → SegReg
  | .es => g.es
  | .cs => g.cs
  | .ss => g.ss
  | .ds => g.ds
  | .fs => g.fs
  | .gs => g.gs

/-- Replace a segment register. -/
def Segs.set (g : Segs) (r : SReg) (v : SegReg) : Segs :=
  match r with
  | .es => { g with es := v }
  | .cs => { g with cs := v }
  | .ss => { g with ss := v }
  | .ds => { g with ds := v }
  | .fs => { g with fs := v }
  | .gs => { g with gs := v }

/-- Replace a segment register of the processor. -/
def setSeg (r : SReg) (v : SegReg) : M Unit :=
  modifyCpu fun c => { c with segs := c.segs.set r v }

/-- The segment register of an `sreg2` name (R213). -/
def sregOf : SReg2 → SReg
  | .es => .es
  | .cs => .cs
  | .ss => .ss
  | .ds => .ds

end Sys2Proof.Machine
end

