-- ==== Sys2Proof/Machine/Flags.lean ====
section
/-! DEFINITION. EFLAGS: its images and every flag computation (10_state.md R36 to R52, 43_arithmetic.md R330,
44_logic.md R390). -/

namespace Sys2Proof.Machine

/-! ## Images (R36, R52, D2) -/

/-- FLAGS: bits 15:0 of EFLAGS; bit 1 reads 1, bits 3, 5 and 15 read 0. -/
def EFlags.image16 (f : EFlags) : Word :=
  0#1 ++ bit f.nt ++ f.iopl ++ bit f.ovf ++ bit f.df ++ bit f.intf ++ bit f.tf ++ bit f.sf ++ bit f.zf ++ 0#1 ++
    bit f.af ++ 0#1 ++ bit f.pf ++ 1#1 ++ bit f.cf

/-- EFLAGS: bits 31:18 read 0. -/
def EFlags.image32 (f : EFlags) : Dword := 0#14 ++ bit f.vm ++ bit f.rf ++ f.image16

/-- The image in an item of `sz` (a byte item holds bits 7:0). -/
def EFlags.image (f : EFlags) (sz : Sz) : BitVec sz.bits := f.image32.setWidth sz.bits

/-- CF, PF, AF, ZF, SF from an image (R319). -/
def EFlags.loadStatus8 (f : EFlags) (v : Byte) : EFlags :=
  { f with cf := v.getLsbD 0, pf := v.getLsbD 2, af := v.getLsbD 4, zf := v.getLsbD 6, sf := v.getLsbD 7 }

/-- CF, PF, AF, ZF, SF, TF, DF, OF and NT from an image (R317, R497). -/
def EFlags.loadCommon (f : EFlags) (v : Word) : EFlags :=
  { f with
    cf := v.getLsbD 0, pf := v.getLsbD 2, af := v.getLsbD 4, zf := v.getLsbD 6, sf := v.getLsbD 7, tf := v.getLsbD 8,
    df := v.getLsbD 10, ovf := v.getLsbD 11, nt := v.getLsbD 14 }

/-- POPF and IRET: IOPL is written only when `atCpl0`, IF only when `ifAllowed` (Table 8-1 note n; R317, R497). -/
def EFlags.loadImage (f : EFlags) (v : Word) (atCpl0 ifAllowed : Bool) : EFlags :=
  let g := f.loadCommon v
  { g with
    iopl := if atCpl0 then v.extractLsb' 12 2 else f.iopl
    intf := if ifAllowed then v.getLsbD 9 else f.intf }

/-- Every defined bit from a 32-bit image (R650 step 8). -/
def EFlags.ofImage32 (v : Dword) : EFlags :=
  { cf := v.getLsbD 0, pf := v.getLsbD 2, af := v.getLsbD 4, zf := v.getLsbD 6, sf := v.getLsbD 7, tf := v.getLsbD 8,
    intf := v.getLsbD 9, df := v.getLsbD 10, ovf := v.getLsbD 11, iopl := v.extractLsb' 12 2, nt := v.getLsbD 14,
    rf := v.getLsbD 16, vm := v.getLsbD 17 }

/-! ## Results and flags (R37 to R45, R51, R330) -/

/-- The byte has an even number of 1 bits (R38). -/
def evenParity (b : Byte) : Bool :=
  !(b.getLsbD 0 ^^ b.getLsbD 1 ^^ b.getLsbD 2 ^^ b.getLsbD 3 ^^ b.getLsbD 4 ^^ b.getLsbD 5 ^^ b.getLsbD 6 ^^ b.getLsbD 7)

/-- SetSZP (R51). -/
def EFlags.setSzp {n : Nat} (f : EFlags) (r : BitVec n) : EFlags :=
  { f with zf := r == 0, sf := r.msb, pf := evenParity (r.setWidth 8) }

/-- a + b + c (R330). -/
def addResult {n : Nat} (a b : BitVec n) (c : Bool) : BitVec n := a + b + BitVec.ofNat n c.toNat

/-- a - b - c (R330). -/
def subResult {n : Nat} (a b : BitVec n) (c : Bool) : BitVec n := a - b - BitVec.ofNat n c.toNat

/-- AddFlags (R330). -/
def EFlags.add {n : Nat} (f : EFlags) (a b : BitVec n) (c : Bool) : EFlags :=
  let r := addResult a b c
  { f.setSzp r with
    cf := decide (2 ^ n ≤ a.toNat + b.toNat + c.toNat)
    af := (a ^^^ b ^^^ r).getLsbD 4
    ovf := a.msb == b.msb && r.msb != a.msb }

/-- SubFlags (R330). -/
def EFlags.sub {n : Nat} (f : EFlags) (a b : BitVec n) (c : Bool) : EFlags :=
  let r := subResult a b c
  { f.setSzp r with
    cf := decide (a.toNat < b.toNat + c.toNat)
    af := (a ^^^ b ^^^ r).getLsbD 4
    ovf := a.msb != b.msb && r.msb != a.msb }

/-- CF and OF from one condition: MUL and IMUL (R343, R344). -/
def EFlags.setMul (f : EFlags) (wide : Bool) : EFlags := { f with cf := wide, ovf := wide }

/-- CF and OF cleared, SetSZP of the result; AF is the free bit `j` (R390). -/
def EFlags.logic {n : Nat} (f : EFlags) (r : BitVec n) (j : Dword) : EFlags :=
  { f.setSzp r with cf := false, ovf := false, af := j.getLsbD 4 }

/-! ## Flags an instruction leaves undefined: free bits of one drawn value (R50, U12; log 4) -/

/-- CF free. -/
def EFlags.freeCf (f : EFlags) (j : Dword) : EFlags := { f with cf := j.getLsbD 0 }

/-- PF free. -/
def EFlags.freePf (f : EFlags) (j : Dword) : EFlags := { f with pf := j.getLsbD 2 }

/-- AF free. -/
def EFlags.freeAf (f : EFlags) (j : Dword) : EFlags := { f with af := j.getLsbD 4 }

/-- ZF free. -/
def EFlags.freeZf (f : EFlags) (j : Dword) : EFlags := { f with zf := j.getLsbD 6 }

/-- SF free. -/
def EFlags.freeSf (f : EFlags) (j : Dword) : EFlags := { f with sf := j.getLsbD 7 }

/-- OF free. -/
def EFlags.freeOf (f : EFlags) (j : Dword) : EFlags := { f with ovf := j.getLsbD 11 }

/-- SF, ZF, AF, PF free (R343). -/
def EFlags.freeSzap (f : EFlags) (j : Dword) : EFlags := (((f.freeSf j).freeZf j).freeAf j).freePf j

/-- All six status flags free (R347, R512). -/
def EFlags.freeAll (f : EFlags) (j : Dword) : EFlags := ((f.freeSzap j).freeOf j).freeCf j

/-! ## Conditions (R218, R449) -/

/-- The condition holds of the flags. -/
def EFlags.holds (f : EFlags) : Cond → Bool
  | .o => f.ovf
  | .no => !f.ovf
  | .b => f.cf
  | .nb => !f.cf
  | .e => f.zf
  | .ne => !f.zf
  | .be => f.cf || f.zf
  | .nbe => !f.cf && !f.zf
  | .s => f.sf
  | .ns => !f.sf
  | .p => f.pf
  | .np => !f.pf
  | .l => f.sf != f.ovf
  | .nl => f.sf == f.ovf
  | .le => f.zf || f.sf != f.ovf
  | .nle => !f.zf && f.sf == f.ovf

/-! ## In a meaning -/

/-- The flags. -/
def getFlags : M EFlags := do
  let c ← getCpu
  pure c.flags

/-- Change the flags. -/
def modifyFlags (f : EFlags → EFlags) : M Unit := modifyCpu fun c => { c with flags := f c.flags }

end Sys2Proof.Machine
end

