-- ==== Sys2Proof/Machine/Memory.lean ====
section
/-! DEFINITION. Physical memory and the linear accesses: 20_memory.md R101 to R106 and R125 to R135, with the stale
prefetched bytes of R145. -/

namespace Sys2Proof.Machine

/-! ## Physical memory (R101, R103, R104) -/

/-- What an unlisted address reads as. DESIGN CHOICE: zero (log 1). -/
def unlistedByte : Byte := 0

/-- The byte a list of cells gives an address. -/
def cellsRead : List Host.Cell → Nat → Byte
  | [], _ => unlistedByte
  | (a, v) :: rest, x => if x < a then unlistedByte else if a = x then v else cellsRead rest x

/-- A list of cells with one byte written; writing the value of an unlisted address removes the entry. -/
def cellsWrite : List Host.Cell → Nat → Byte → List Host.Cell
  | [], x, v => if v = unlistedByte then [] else [(x, v)]
  | (a, b) :: rest, x, v =>
    if x < a then (if v = unlistedByte then (a, b) :: rest else (x, v) :: (a, b) :: rest)
    else if a = x then (if v = unlistedByte then rest else (x, v) :: rest)
    else (a, b) :: cellsWrite rest x v

/-- The addresses rise strictly from `low` on, lie below 2^24, and no entry holds the value of an unlisted address. -/
def cellsWf : Nat → List Host.Cell → Bool
  | _, [] => true
  | low, (a, v) :: rest => low ≤ a && a < 0x1000000 && v != unlistedByte && cellsWf (a + 1) rest

/-- The canonical form of memory. -/
def Memory.wf (m : Memory) : Bool := cellsWf 0 m.cells

/-- One byte. -/
def Memory.read (m : Memory) (a : PAddr) : Byte := cellsRead m.cells a.toNat

/-- Write one byte. -/
def Memory.write (m : Memory) (a : PAddr) (v : Byte) : Memory := ⟨cellsWrite m.cells a.toNat v⟩

/-- Bytes with their addresses. -/
def Memory.cellsAt (m : Memory) (as : List PAddr) : List (PAddr × Byte) := as.map fun a => (a, m.read a)

/-- Write bytes at the addresses given, in order. -/
def Memory.writeAll (m : Memory) : List PAddr → List Byte → Memory
  | a :: as, v :: vs => (m.write a v).writeAll as vs
  | _, _ => m

/-! ## Operands and their bytes (R104) -/

/-- The value of the first bytes, low byte first. -/
def ofBytes (sz : Sz) (bs : List Byte) : BitVec sz.bits :=
  match sz with
  | .b => bs.getD 0 0
  | .w => bs.getD 1 0 ++ bs.getD 0 0
  | .d => bs.getD 3 0 ++ bs.getD 2 0 ++ bs.getD 1 0 ++ bs.getD 0 0

/-- The bytes of a value, low byte first. -/
def toBytes (sz : Sz) (v : BitVec sz.bits) : List Byte :=
  match sz with
  | .b => [v]
  | .w => bytes16 v
  | .d => bytes32 v

/-! ## Stores and the prefetch queue (R145, D14, U10; log 9) -/

/-- The byte lies within reach of the prefetch queue of the running instruction. With paging on only the offset in the page
is compared, which errs on the side of more stale bytes. -/
def State.prefetched (s : State) (a : PAddr) : Bool :=
  let start := s.cpu.segs.cs.base + s.cpu.eip
  if s.cpu.cr0.pg then (a.setWidth 12 - start.setWidth 12).toNat < Config.prefetchReach
  else (a - start.setWidth 24).toNat < Config.prefetchReach

/-- Store one byte; where the queue may hold the old byte, remember it. -/
def State.store (s : State) (a : PAddr) (v : Byte) : State :=
  let old := s.mem.read a
  { s with
    mem := s.mem.write a v
    prefetch := if s.prefetched a && old != v then (a.toNat, old) :: s.prefetch else s.prefetch }

/-- Store bytes at the addresses given, in order. -/
def State.storeAll (s : State) : List PAddr → List Byte → State
  | a :: as, v :: vs => (s.store a v).storeAll as vs
  | _, _ => s

/-- Empty the prefetch queue: every taken transfer does (R71, R145). -/
def flushPrefetch : M Unit := fun s => .ok () { s with queue := [], prefetch := [], pgSwitch := none }

/-- A write of CR0.PG that changes it leaves bytes in the queue that were read under the old setting (R71, R726; log 52). -/
def notePaging (pg : Bool) : M Unit := fun s =>
  .ok () { s with pgSwitch := if pg = s.cpu.cr0.pg then s.pgSwitch else some (s.cpu.segs.cs.base + s.cpu.eip) }

/-- The byte at a linear address may be in the queue from before a change of CR0.PG: it lies within reach of the instruction that
made the change (log 9, 52). -/
def State.queuedBeforeSwitch (s : State) (la : Dword) : Bool :=
  match s.pgSwitch with
  | some start => decide ((la - start).toNat < Config.prefetchReach)
  | none => false

/-! ## Paging (R130 to R135) -/

/-- Why an address is translated: a read, a write, or the check that a write (`verify`) or a read (`peek`) would be allowed,
which sets no bit of a page entry. -/
inductive Access where
  | read
  | write
  | verify
  | peek
  deriving DecidableEq, Repr

/-- The access needs write permission. -/
def Access.writes : Access → Bool
  | .read => false
  | .write => true
  | .verify => true
  | .peek => false

/-- Raise exception 14 at a linear address; bits 15:3 of its code are free (R135, U18). -/
def pageFault {α : Type} (la : Dword) (present : Bool) (acc : Access) (user : Bool) : M α := do
  let junk ← draw
  raiseExc ⟨14, some (junk.extractLsb' 0 13 ++ bit user ++ bit acc.writes ++ bit present), some la, 0, false⟩

/-- A dword of a page directory or table; its address is a multiple of 4 (R131). -/
def Memory.entry (m : Memory) (a : PAddr) : Dword :=
  m.read (a + 3) ++ m.read (a + 2) ++ m.read (a + 1) ++ m.read a

/-- The address of the directory entry of a linear address (R132). -/
def pdeAddr (cr3 la : Dword) : PAddr := (cr3.extractLsb' 12 20 ++ la.extractLsb' 22 10 ++ 0#2).setWidth 24

/-- The address of the table entry of a linear address (R132). -/
def pteAddr (pde la : Dword) : PAddr := (pde.extractLsb' 12 20 ++ la.extractLsb' 12 10 ++ 0#2).setWidth 24

/-- Read an entry of a page directory or table. -/
def readEntry (a : PAddr) : M Dword := do
  let s ← getState
  emit (.memRead false (s.mem.cellsAt [a, a + 1, a + 2, a + 3]))
  pure (s.mem.entry a)

/-- Set bits in the low byte of a page entry, with a locked cycle (R132, R141). On the bus it is a write of that byte alone, after the
read of the entry by the walk: log 49. -/
def setEntryBits (a : PAddr) (bits : Byte) : M Unit := fun s =>
  let old := s.mem.read a
  .ok () (if old &&& bits = bits then s else (s.store a (old ||| bits)).traced (.memWrite [(a, old ||| bits)]))

/-- The translation of a linear address by the tables in memory (R132, R133, D11). -/
def walk (la : Dword) (acc : Access) (user : Bool) : M TlbEntry := do
  let c ← getCpu
  let pdeA := pdeAddr c.cr3 la
  let pde ← readEntry pdeA
  if !pde.getLsbD 0 then pageFault la false acc user
  else do
    let pteA := pteAddr pde la
    let pte ← readEntry pteA
    if !pte.getLsbD 0 then pageFault la false acc user
    else do
      let us := pde.getLsbD 2 && pte.getLsbD 2
      let rw := pde.getLsbD 1 && pte.getLsbD 1
      if user && (!us || (acc.writes && !rw)) then pageFault la true acc user
      else do
        match acc with
        | .verify => pure ()
        | .peek => pure ()
        | .read => do
          setEntryBits pdeA 0x20
          setEntryBits pteA 0x20
        | .write => do
          setEntryBits pdeA 0x20
          setEntryBits pteA 0x60
        pure { page := la.extractLsb' 12 20, frame := pte.extractLsb' 12 20, user := us, writable := rw,
               dirty := pte.getLsbD 6 || acc == .write }

/-- Drop a page from the TLB. -/
def tlbDrop (page : BitVec 20) : M Unit := fun s =>
  .ok () { s with tlb := s.tlb.filter (fun e => e.page != page) }

/-- Put an entry into the TLB; when it is full a free choice says which entry makes room (R134, U8; log 10). -/
def tlbInsert (e : TlbEntry) : M Unit := do
  let s ← getState
  if s.tlb.length < Config.tlbSize then fun s => .ok () { s with tlb := e :: s.tlb }
  else do
    let v ← draw
    fun s => .ok () { s with tlb := e :: (s.tlb.eraseIdx (v.toNat % Config.tlbSize)).take (Config.tlbSize - 1) }

/-- Translate by the tables and cache the result, unless the access is only a check. -/
def walkAndCache (la : Dword) (acc : Access) (user : Bool) : M TlbEntry := do
  let e ← walk la acc user
  match acc with
  | .verify => pure e
  | .peek => pure e
  | .read => do
    tlbDrop e.page
    tlbInsert e
    pure e
  | .write => do
    tlbDrop e.page
    tlbInsert e
    pure e

/-- The entry of a linear address: from the TLB, where a free choice says whether it is still there, else by the tables
(R134, U8; log 10). A write through an entry whose D is 0 goes to the tables again. -/
def tlbLookup (la : Dword) (acc : Access) (user : Bool) : M TlbEntry := do
  let s ← getState
  match s.tlb.find? (fun e => e.page == la.extractLsb' 12 20) with
  | none => walkAndCache la acc user
  | some e => do
    let kept ← drawBit
    if !kept then walkAndCache la acc user
    else if user && (!e.user || (acc.writes && !e.writable)) then pageFault la true acc user
    else if acc == .write && !e.dirty then walkAndCache la acc user
    else pure e

/-- The physical address of a byte in a page frame (R132). -/
def inFrame (frame : BitVec 20) (la : Dword) : PAddr := (frame ++ la.extractLsb' 0 12).setWidth 24

/-- The linear addresses of an operand of `n` bytes (R104). -/
def addrsFrom (la : Dword) (n : Nat) : List Dword := (List.range n).map fun i => la + BitVec.ofNat 32 i

/-- The physical addresses of an operand of `n` bytes: with paging, every page it touches is translated before any byte is
transferred (R125, R615 step 10b). An operand touches two pages at most; the Accessed and Dirty bits of the first stay set when
the second faults: log 27. -/
def translate (la : Dword) (n : Nat) (acc : Access) (user : Bool) : M (List PAddr) := do
  let c ← getCpu
  if !c.cr0.pg then pure ((addrsFrom la n).map (BitVec.setWidth 24))
  else do
    let e ← tlbLookup la acc user
    let last := la + BitVec.ofNat 32 (n - 1)
    if last.extractLsb' 12 20 == la.extractLsb' 12 20 then pure ((addrsFrom la n).map (inFrame e.frame))
    else do
      let e2 ← tlbLookup (last &&& 0xFFFFF000) acc user
      pure ((addrsFrom la n).map fun a =>
        if a.extractLsb' 12 20 == la.extractLsb' 12 20 then inFrame e.frame a else inFrame e2.frame a)

/-! ## Linear accesses (R125) -/

/-- The bytes at physical addresses, read as data. -/
def readAll (as : List PAddr) : M (List Byte) := do
  let s ← getState
  emit (.memRead false (s.mem.cellsAt as))
  pure (as.map s.mem.read)

/-- Write bytes at physical addresses. -/
def writeAll (as : List PAddr) (bs : List Byte) : M Unit := fun s =>
  .ok () ((s.storeAll as bs).traced (.memWrite (as.zip bs)))

/-- LinRead (R125). -/
def linRead (la : Dword) (sz : Sz) (user : Bool) : M (BitVec sz.bits) := do
  let as ← translate la sz.bytes .read user
  let bs ← readAll as
  pure (ofBytes sz bs)

/-- LinWrite (R125). -/
def linWrite (la : Dword) (sz : Sz) (v : BitVec sz.bits) (user : Bool) : M Unit := do
  let as ← translate la sz.bytes .write user
  writeAll as (toBytes sz v)

/-- A read the processor makes on its own account, with supervisor privilege (R120, R133). -/
def sysRead (la : Dword) (sz : Sz) : M (BitVec sz.bits) := linRead la sz false

/-- A write the processor makes on its own account, with supervisor privilege (R120, R133). -/
def sysWrite (la : Dword) (sz : Sz) (v : BitVec sz.bits) : M Unit := linWrite la sz v false

end Sys2Proof.Machine
end

