-- ==== Sys2Proof/Machine/Segment.lean ====
section
/-! DEFINITION. Segmentation: the access primitive (20_memory.md R112 to R117), data breakpoints (60_exceptions.md R672),
descriptors and segment register loads (R118 to R128, 10_state.md R55), and the stack (40_data_transfer.md R270). -/

namespace Sys2Proof.Machine

/-! ## Data breakpoints (R68, R672) -/

/-- Breakpoint `i` is enabled: Li or Gi of DR7. -/
def breakEnabled (dr7 : Dword) (i : Nat) : Bool := dr7.getLsbD (2 * i) || dr7.getLsbD (2 * i + 1)

/-- The RWi field of DR7. -/
def breakRw (dr7 : Dword) (i : Nat) : BitVec 2 := dr7.extractLsb' (16 + 4 * i) 2

/-- The LENi field of DR7. -/
def breakLen (dr7 : Dword) (i : Nat) : BitVec 2 := dr7.extractLsb' (18 + 4 * i) 2

/-- The address bits a breakpoint of the given LEN compares; `none` for the undefined code 10. -/
def breakMask (len : BitVec 2) : Option Dword :=
  if len = 0 then some 0xFFFFFFFF else if len = 1 then some 0xFFFFFFFE else if len = 3 then some 0xFFFFFFFC else none

/-- Data breakpoint `i` at address `dr` matches an access to `n` bytes. A breakpoint that DR7 does not enable never matches, so
its Bn bit is never set (R671 allows it to be: log 37). -/
def dataBreak (dr7 dr : Dword) (i : Nat) (la : Dword) (n : Nat) (write : Bool) : Bool :=
  breakEnabled dr7 i && (breakRw dr7 i == 3 || (breakRw dr7 i == 1 && write)) &&
    match breakMask (breakLen dr7 i) with
    | some m => (addrsFrom la n).any fun a => a &&& m == dr &&& m
    | none => false

/-- The data breakpoints an access matches. -/
def dataBreaks (d : DebugRegs) (la : Dword) (n : Nat) (write : Bool) : DebugCauses :=
  { b0 := dataBreak d.dr7 d.dr0 0 la n write, b1 := dataBreak d.dr7 d.dr1 1 la n write,
    b2 := dataBreak d.dr7 d.dr2 2 la n write, b3 := dataBreak d.dr7 d.dr3 3 la n write, bs := false, bt := false }

/-- The causes of either. -/
def joinCauses (x y : DebugCauses) : DebugCauses :=
  { b0 := x.b0 || y.b0, b1 := x.b1 || y.b1, b2 := x.b2 || y.b2, b3 := x.b3 || y.b3, bs := x.bs || y.bs,
    bt := x.bt || y.bt }

/-- Record the data breakpoints an access of the program matches. -/
def noteData (la : Dword) (n : Nat) (write : Bool) : M Unit :=
  modifyCpu fun c => { c with cur := { c.cur with hits := joinCauses c.cur.hits (dataBreaks c.dbg la n write) } }

/-! ## The access primitive (R112) -/

/-- The offsets `off` to `off + n - 1` lie inside the limit (R115). -/
def inLimit (r : SegReg) (off : Dword) (n : Nat) : Bool :=
  if r.s && !r.exec && r.ec then
    r.limit.toNat < off.toNat && off.toNat + n - 1 ≤ (if r.big then 0xFFFFFFFF else 0xFFFF)
  else off.toNat + n - 1 ≤ r.limit.toNat

/-- The same for an access in the mode given: outside Protected Mode the limit is an upper one always (R112 step 1). -/
def withinLimit (prot : Bool) (r : SegReg) (off : Dword) (n : Nat) : Bool :=
  if prot then inLimit r off n else decide (off.toNat + n - 1 ≤ r.limit.toNat)

/-- The limit fault of a segment register: exception 12 through SS, else 13 (R116). -/
def limitFault (r : SReg) : Exc := if r = .ss then .ss 0 else .gp 0

/-- The rights of the cache allow the access in Protected Mode: no null selector, no write to code or to a read-only data
segment, no read of execute-only code (R112 step 2). -/
def rightsOk (g : SegReg) (acc : Access) : Bool :=
  if acc.writes then !g.exec && g.rw else !(g.exec && !g.rw)

/-- Steps 1 to 3 of the access primitive: the checks and the linear address (R112). A cache that is not valid is refused as a null
selector is, by exception 12 through SS, also where a failed task switch left a selector with it: log 26. -/
def segCheck (r : SReg) (off : Dword) (n : Nat) (acc : Access) : M Dword := do
  let c ← getCpu
  let g := c.segs.get r
  if c.prot then do
    require g.valid (limitFault r)
    require (rightsOk g acc) (.gp 0)
  require (withinLimit c.prot g off n) (limitFault r)
  pure (g.base + off)

/-- SegRead (R112). -/
def segRead (r : SReg) (off : Dword) (sz : Sz) : M (BitVec sz.bits) := do
  let la ← segCheck r off sz.bytes .read
  noteData la sz.bytes false
  let c ← getCpu
  linRead la sz c.user

/-- SegWrite (R112). -/
def segWrite (r : SReg) (off : Dword) (sz : Sz) (v : BitVec sz.bits) : M Unit := do
  let la ← segCheck r off sz.bytes .write
  noteData la sz.bytes true
  let c ← getCpu
  linWrite la sz v c.user

/-- The check that `n` bytes could be written, with nothing written (R260, R542). -/
def segVerify (r : SReg) (off : Dword) (n : Nat) : M Unit := do
  let la ← segCheck r off n .verify
  let c ← getCpu
  let _ ← translate la n .verify c.user

/-! ## Descriptors (R120 to R124) -/

/-- A descriptor: its low and its high dword (R121). -/
structure Desc where
  lo : Dword
  hi : Dword
  deriving DecidableEq, Repr

/-- Base 31:0. The upper byte counts in a 286 TSS descriptor too, where software has not kept it zero (R730): log 57. -/
def Desc.base (d : Desc) : Dword := d.hi.extractLsb' 24 8 ++ d.hi.extractLsb' 0 8 ++ d.lo.extractLsb' 16 16

/-- Limit 19:0. -/
def Desc.limit20 (d : Desc) : BitVec 20 := d.hi.extractLsb' 16 4 ++ d.lo.extractLsb' 0 16

/-- G. -/
def Desc.gran (d : Desc) : Bool := d.hi.getLsbD 23

/-- D/B. -/
def Desc.big (d : Desc) : Bool := d.hi.getLsbD 22

/-- P. -/
def Desc.present (d : Desc) : Bool := d.hi.getLsbD 15

/-- DPL. -/
def Desc.dpl (d : Desc) : BitVec 2 := d.hi.extractLsb' 13 2

/-- S: a code or data segment. -/
def Desc.s (d : Desc) : Bool := d.hi.getLsbD 12

/-- The type of a system descriptor, bits 11:8 of the high dword (R123). -/
def Desc.type (d : Desc) : BitVec 4 := d.hi.extractLsb' 8 4

/-- E. -/
def Desc.exec (d : Desc) : Bool := d.hi.getLsbD 11

/-- ED of data, C of code. -/
def Desc.ec (d : Desc) : Bool := d.hi.getLsbD 10

/-- W of data, R of code. -/
def Desc.rw (d : Desc) : Bool := d.hi.getLsbD 9

/-- A. -/
def Desc.accessed (d : Desc) : Bool := d.hi.getLsbD 8

/-- The limit in bytes (R115). G and limit 19:16 count in a 286 TSS descriptor too, where software has not kept its upper word zero
(R730): log 57. -/
def Desc.limit (d : Desc) : Dword :=
  if d.gran then d.limit20 ++ 0xFFF#12 else d.limit20.setWidth 32

/-- A code segment. -/
def Desc.isCode (d : Desc) : Bool := d.s && d.exec

/-- A conforming code segment. -/
def Desc.isConforming (d : Desc) : Bool := d.s && d.exec && d.ec

/-- A writable data segment. -/
def Desc.isStack (d : Desc) : Bool := d.s && !d.exec && d.rw

/-- The selector of a gate (R124). -/
def Desc.gateSelector (d : Desc) : Word := d.lo.extractLsb' 16 16

/-- The offset of a gate: 32 bits in an 80386SX gate (bit 3 of the type), else 16 (R124, R458, R634). -/
def Desc.gateOffset (d : Desc) : Dword :=
  if d.type.getLsbD 3 then d.hi.extractLsb' 16 16 ++ d.lo.extractLsb' 0 16 else (d.lo.extractLsb' 0 16).setWidth 32

/-- The word count of a call gate (R124). -/
def Desc.wordCount (d : Desc) : Nat := (d.hi.extractLsb' 0 5).toNat

/-- The offset of a selector's descriptor in its table (R118). -/
def selOffset (sel : Word) : Dword := (sel.extractLsb' 3 13 ++ 0#3).setWidth 32

/-- The linear address of a selector's descriptor; `none` outside its table or in an unusable LDT (R120). -/
def descriptorAddr (c : Cpu) (sel : Word) : Option Dword :=
  if sel.getLsbD 2 then
    if c.ldtr.valid && (selOffset sel).toNat + 7 ≤ c.ldtr.limit.toNat then some (c.ldtr.base + selOffset sel) else none
  else if (selOffset sel).toNat + 7 ≤ c.gdtr.limit.toNat then some (c.gdtr.base + selOffset sel) else none

/-- The 8 bytes at a linear address, as a descriptor. -/
def readDescriptorAt (la : Dword) : M Desc := do
  let lo ← sysRead la .d
  let hi ← sysRead (la + 4) .d
  pure ⟨lo, hi⟩

/-- ReadDescriptor (R120); the failure is raised as the exception given. -/
def readDescriptor (sel : Word) (bad : Exc) : M Desc := do
  let c ← getCpu
  match descriptorAddr c sel with
  | some la => readDescriptorAt la
  | none => raiseExc bad

/-- Set bits in the access rights byte of a selector's descriptor, with a locked cycle (R122, R141). On the bus it is a write
of that byte alone, after the read of the descriptor: log 49. -/
def setRights (sel : Word) (d : Desc) (f : Byte → Byte) : M Unit := do
  let c ← getCpu
  match descriptorAddr c sel with
  | some la => sysWrite (la + 5) .b (f (d.hi.extractLsb' 8 8))
  | none => pure ()

/-- Set the Accessed bit of a descriptor when it is clear (R122). -/
def setAccessed (sel : Word) (d : Desc) : M Unit :=
  if d.accessed then pure () else setRights sel d (· ||| 1)

/-- The descriptor cache a descriptor gives (R54). -/
def Desc.cache (d : Desc) (sel : Word) : SegReg :=
  { selector := sel, base := d.base, limit := d.limit, valid := true, present := d.present, dpl := d.dpl, s := d.s,
    exec := d.exec, ec := d.ec, rw := d.rw, accessed := true, gran := d.gran, big := d.big }

/-! ## Segment register loads -/

/-- Between a change of CR0.PE and the far JMP nothing that depends on the mode is given a meaning (R725; log 15). -/
def requireSettledMode : M Unit := do
  let c ← getCpu
  if c.peSwitched then refuse .modeChangeWithoutJump else pure ()

/-- A Real Mode load: base and selector, the limit and the rights stay (R55). -/
def SegReg.realLoad (g : SegReg) (sel : Word) : SegReg :=
  { g with selector := sel, base := sel.setWidth 32 <<< 4, valid := true }

/-- A Virtual 8086 Mode load: base, limit FFFFH, DPL 3 (R55; log 18). -/
def v86Segment (r : SReg) (sel : Word) : SegReg :=
  { selector := sel, base := sel.setWidth 32 <<< 4, limit := 0xFFFF, valid := true, present := true, dpl := 3, s := true,
    exec := r == .cs, ec := false, rw := true, accessed := true, gran := false, big := false }

/-- A load of DS, ES, FS or GS in Protected Mode (R127); `bad` makes the exception of a selector. -/
def loadData (bad : Word → Exc) (r : SReg) (sel : Word) : M Unit := do
  let c ← getCpu
  if isNull sel then setSeg r { c.segs.get r with selector := sel, valid := false }
  else do
    let d ← readDescriptor sel (bad (selCode sel))
    require (d.s && !(d.exec && !d.rw)) (bad (selCode sel))
    require (d.isConforming || (c.cpl ≤ d.dpl && rpl sel ≤ d.dpl)) (bad (selCode sel))
    require d.present (.np (selCode sel))
    setAccessed sel d
    setSeg r (d.cache sel)

/-- A load of SS in Protected Mode at the privilege level `level` (R128). -/
def loadStack (bad : Word → Exc) (level : BitVec 2) (sel : Word) : M Unit := do
  require (!isNull sel) (bad 0)
  let d ← readDescriptor sel (bad (selCode sel))
  require (rpl sel == level) (bad (selCode sel))
  require d.isStack (bad (selCode sel))
  require (d.dpl == level) (bad (selCode sel))
  require d.present (.ss (selCode sel))
  setAccessed sel d
  setSeg .ss (d.cache sel)

/-- A load of ES, SS, DS, FS or GS by an instruction (R267, R300). -/
def loadSegment (r : SReg) (sel : Word) : M Unit := do
  requireSettledMode
  let c ← getCpu
  if c.real then setSeg r ((c.segs.get r).realLoad sel)
  else if c.v86 then setSeg r (v86Segment r sel)
  else if r = .ss then loadStack .gp c.cpl sel
  else loadData .gp r sel

/-! ## The stack (R270) -/

/-- The stack pointer: ESP, or SP when the stack segment is 16-bit (R128). -/
def Cpu.sp (c : Cpu) : Dword := if c.segs.ss.big then c.gpr.esp else (c.gpr.esp.setWidth 16).setWidth 32

/-- An offset from the stack pointer, wrapped to its width. -/
def Cpu.spPlus (c : Cpu) (k : Dword) : Dword :=
  if c.segs.ss.big then c.gpr.esp + k else ((c.gpr.esp + k).setWidth 16).setWidth 32

/-- ESP with the stack pointer replaced; the upper half stays when SP is used (R270). -/
def Cpu.withSp (c : Cpu) (v : Dword) : Cpu :=
  { c with gpr := { c.gpr with esp := if c.segs.ss.big then v else c.gpr.esp.extractLsb' 16 16 ++ v.setWidth 16 } }

/-- A push of `n` bytes would straddle the 64K wrap in Real Mode: shutdown (R270, R622, R682). -/
def Cpu.pushShutsDown (c : Cpu) (n : Nat) : Bool :=
  c.real && !c.segs.ss.big && c.sp != 0 && c.sp.toNat < n

/-- Push (R270). -/
def push (sz : Sz) (v : BitVec sz.bits) : M Unit := do
  let c ← getCpu
  if c.pushShutsDown sz.bytes then shutdown
  else do
    let t := c.spPlus (- BitVec.ofNat 32 sz.bytes)
    segWrite .ss t sz v
    modifyCpu fun c => c.withSp t

/-- Pop (R270). -/
def pop (sz : Sz) : M (BitVec sz.bits) := do
  let c ← getCpu
  let v ← segRead .ss c.sp sz
  modifyCpu fun c => c.withSp (c.spPlus (BitVec.ofNat 32 sz.bytes))
  pure v

/-- The stack item `i` items above the stack pointer, with the pointer left alone. -/
def stackItem (sz : Sz) (i : Nat) : M (BitVec sz.bits) := do
  let c ← getCpu
  segRead .ss (c.spPlus (BitVec.ofNat 32 (i * sz.bytes))) sz

/-- The `n` bytes at the stack pointer plus `k` lie within the stack limit, else SS(0) (R460, R495). -/
def requireStack (k : Dword) (n : Nat) : M Unit := do
  let c ← getCpu
  let _ ← segCheck .ss (c.spPlus k) n .read

/-- Each of `k` slots of `w` bytes below a stack pointer lies within the limit of a stack segment (R277, R457, R635). Slots that a
16-bit stack pointer wraps to the top of the segment count: log 20. -/
def stackRoom (prot : Bool) (g : SegReg) (sp : Dword) (k w : Nat) : Bool :=
  (List.range k).all fun i =>
    let t := sp - BitVec.ofNat 32 ((i + 1) * w)
    withinLimit prot g (if g.big then t else (t.setWidth 16).setWidth 32) w

/-- A selector pushed as an item of `sz`; the upper half of a dword is free (R274, U5). -/
def selectorItem (sz : Sz) (sel : Word) : M (BitVec sz.bits) := do
  let junk ← if sz == .d then draw else pure 0
  pure ((junk.extractLsb' 16 16 ++ sel).setWidth sz.bits)

/-- Push a selector, or another word of which the upper half of a dword item is free (R274, U5). -/
def pushSelector (sz : Sz) (sel : Word) : M Unit := do
  let v ← selectorItem sz sel
  push sz v

end Sys2Proof.Machine
end

