-- ==== Sys2Proof/Machine/Operands.lean ====
section
/-! DEFINITION. The operand forms: effective addresses (30_encoding.md R211, R215, R216; 20_memory.md R109), r/m operands
(40_data_transfer.md R260), immediates (R208, R209), and bit operands (46_bit.md R430). -/

namespace Sys2Proof.Machine

/-! ## Immediates -/

/-- An immediate as an operand of `sz`: a byte is sign-extended (R208, R209). -/
def immValue (sz : Sz) : Imm → BitVec sz.bits
  | .i8 v => v.signExtend sz.bits
  | .i16 v => v.signExtend sz.bits
  | .i32 v => v.signExtend sz.bits

/-- An unsigned datum: an offset (R265, R452). -/
def immOffset : Imm → Dword
  | .i8 v => v.setWidth 32
  | .i16 v => v.setWidth 32
  | .i32 v => v

/-- A signed datum: a relative displacement (R210). -/
def immDisp : Imm → Dword
  | .i8 v => v.signExtend 32
  | .i16 v => v.signExtend 32
  | .i32 v => v

/-! ## Effective addresses (R215, R216) -/

/-- The value of a 16-bit displacement field. -/
def disp16Value : Disp16 → Dword
  | .none => 0
  | .d8 d => d.signExtend 32
  | .d16 d => d.setWidth 32

/-- The value of a 32-bit displacement field. -/
def disp32Value : Disp32 → Dword
  | .none => 0
  | .d8 d => d.signExtend 32
  | .d32 d => d

/-- The base and index registers of 16-bit addressing. -/
def base16Value (g : Gpr) : Base16 → Dword
  | .bxsi => g.ebx + g.esi
  | .bxdi => g.ebx + g.edi
  | .bpsi => g.ebp + g.esi
  | .bpdi => g.ebp + g.edi
  | .si => g.esi
  | .di => g.edi
  | .bp => g.ebp
  | .bx => g.ebx

/-- The forms that use BP have SS as their default segment (R109). -/
def base16Segment : Base16 → SReg
  | .bxsi => .ds
  | .bxdi => .ds
  | .bpsi => .ss
  | .bpdi => .ss
  | .si => .ds
  | .di => .ds
  | .bp => .ss
  | .bx => .ds

/-- A base register EBP or ESP has SS as its default segment (R109). -/
def base32Segment (b : Reg) : SReg := if b = .ebp || b = .esp then .ss else .ds

/-- The scaled index. -/
def indexValue (g : Gpr) (s : Scale) : Option Reg → Dword
  | none => 0
  | some r =>
    match s with
    | .x1 => g.get r
    | .x2 => g.get r <<< 1
    | .x4 => g.get r <<< 2
    | .x8 => g.get r <<< 3

/-- The operand uses 16-bit addressing. -/
def memIs16 : Mem → Bool
  | .direct16 _ => true
  | .base16 _ _ => true
  | .direct32 _ => false
  | .base32 _ _ => false
  | .sib _ _ _ _ => false
  | .sibNoBase _ _ _ => false

/-- An offset wrapped to the address size of the operand (R207). -/
def memWrap (m : Mem) (off : Dword) : Dword := if memIs16 m then (off.setWidth 16).setWidth 32 else off

/-- The effective address (R215, R216). -/
def memOffset (g : Gpr) (m : Mem) : Dword :=
  memWrap m <|
    match m with
    | .direct16 d => d.setWidth 32
    | .base16 b d => base16Value g b + disp16Value d
    | .direct32 d => d
    | .base32 b d => g.get b + disp32Value d
    | .sib s x b d => g.get b + indexValue g s x + disp32Value d
    | .sibNoBase s x d => indexValue g s x + d

/-- The default segment (R109, R216). -/
def memDefaultSegment : Mem → SReg
  | .direct16 _ => .ds
  | .base16 b _ => base16Segment b
  | .direct32 _ => .ds
  | .base32 b _ => base32Segment b
  | .sib _ _ b _ => base32Segment b
  | .sibNoBase _ _ _ => .ds

/-- The segment of a memory operand: its override, else its default (R204). -/
def memSegment (c : Cpu) (m : Mem) : SReg := c.cur.pfx.seg.getD (memDefaultSegment m)

/-! ## The r/m operand (R260) -/

/-- A memory operand `k` bytes above its effective address (R300, R494). -/
def readMem (sz : Sz) (m : Mem) (k : Dword) : M (BitVec sz.bits) := do
  let c ← getCpu
  segRead (memSegment c m) (memWrap m (memOffset c.gpr m + k)) sz

/-- Write a memory operand `k` bytes above its effective address. -/
def writeMem (sz : Sz) (m : Mem) (k : Dword) (v : BitVec sz.bits) : M Unit := do
  let c ← getCpu
  segWrite (memSegment c m) (memWrap m (memOffset c.gpr m + k)) sz v

/-- ReadRM (R260). -/
def readRM (sz : Sz) : RM → M (BitVec sz.bits)
  | .reg r => readReg sz r
  | .mem m => readMem sz m 0

/-- WriteRM (R260). -/
def writeRM (sz : Sz) (rm : RM) (v : BitVec sz.bits) : M Unit :=
  match rm with
  | .reg r => writeReg sz r v
  | .mem m => writeMem sz m 0 v

/-- A read-modify-write destination is checked for writability before it is read (R260). -/
def verifyRM (sz : Sz) : RM → M Unit
  | .reg _ => pure ()
  | .mem m => do
    let c ← getCpu
    segVerify (memSegment c m) (memOffset c.gpr m) sz.bytes

/-- Read a destination that will be written (R260). -/
def readDest (sz : Sz) (rm : RM) : M (BitVec sz.bits) := do
  verifyRM sz rm
  readRM sz rm

/-- Store a selector: 2 bytes of memory, or a register; the upper half of a 32-bit register is free (R268, R552, U5). -/
def writeSelector (rm : RM) (v : Word) : M Unit :=
  match rm with
  | .reg r => do
    let c ← getCpu
    let x ← selectorItem c.osz v
    writeReg c.osz r x
  | .mem m => writeMem .w m 0 v

/-- A far pointer: offset first, then the selector (R300, R453). -/
def readFarPointer (m : Mem) : M (Dword × Word) := do
  let c ← getCpu
  let off ← readMem c.osz m 0
  let sel ← readMem .w m (BitVec.ofNat 32 c.osz.bytes)
  pure (off.setWidth 32, sel)

/-! ## Bit operands (R430) -/

/-- The displacement of the operand a bit offset selects: floor(o / N) operands of N/8 bytes. -/
def bitDisplacement (sz : Sz) (o : BitVec sz.bits) : Dword :=
  BitVec.ofInt 32 ((sz.bytes : Int) * (o.toInt / (sz.bits : Int)))

/-- The operand is memory `k` bytes above its effective address, or a register. -/
def readBitOperand (sz : Sz) (rm : RM) (k : Dword) : M (BitVec sz.bits) :=
  match rm with
  | .reg r => readReg sz r
  | .mem m => readMem sz m k

/-- Check that the bit operand could be written (R260). -/
def verifyBitOperand (sz : Sz) (rm : RM) (k : Dword) : M Unit :=
  match rm with
  | .reg _ => pure ()
  | .mem m => do
    let c ← getCpu
    segVerify (memSegment c m) (memWrap m (memOffset c.gpr m + k)) sz.bytes

/-- Write the bit operand back. -/
def writeBitOperand (sz : Sz) (rm : RM) (k : Dword) (v : BitVec sz.bits) : M Unit :=
  match rm with
  | .reg r => writeReg sz r v
  | .mem m => writeMem sz m k v

/-! ## String operands (R410) -/

/-- An index register of the address size. -/
def Cpu.index (c : Cpu) (r : Reg) : Dword :=
  if c.as32 then c.gpr.get r else ((c.gpr.get r).setWidth 16).setWidth 32

/-- Replace a register of the address size; with 16-bit addresses the upper half stays. -/
def Cpu.withIndex (c : Cpu) (r : Reg) (v : Dword) : Cpu :=
  { c with gpr := if c.as32 then c.gpr.set r v else c.gpr.set r ((c.gpr.get r).extractLsb' 16 16 ++ v.setWidth 16) }

/-- +n or -n by DF (R410). -/
def Cpu.delta (c : Cpu) (sz : Sz) : Dword :=
  if c.flags.df then - BitVec.ofNat 32 sz.bytes else BitVec.ofNat 32 sz.bytes

/-- Step an index register. -/
def stepIndex (r : Reg) (sz : Sz) : M Unit := modifyCpu fun c => c.withIndex r (c.index r + c.delta sz)

/-- The segment of the source of a string instruction and of XLAT: DS or the override (R204, R410). -/
def Cpu.stringSegment (c : Cpu) : SReg := c.cur.pfx.seg.getD .ds

end Sys2Proof.Machine
end

