-- ==== Sys2Proof/Machine/Io.lean ====
section
/-! DEFINITION. The I/O space and its permission map (20_memory.md R136 to R138), the interrupt acknowledge (60_exceptions.md
R608), and the coprocessor ports (50_processor_control.md R522, R524), against the scripted environment (log 11, 12, 22). -/

namespace Sys2Proof.Machine

/-- Bit `port` of the permission map is 0; a byte beyond the TSS limit counts as ones (R138). -/
def ioBitClear (base : Word) (port : Nat) : M Bool := do
  let c ← getCpu
  let off := base.toNat + port / 8
  if off ≤ c.tr.limit.toNat then do
    let b ← sysRead (c.tr.base + BitVec.ofNat 32 off) .b
    pure (!BitVec.getLsbD b (port % 8))
  else pure false

/-- The bits of `n` ports from `port` on are all 0 (R138). -/
def ioBitsClear (base : Word) (port : Nat) : Nat → M Bool
  | 0 => pure true
  | n + 1 => do
    let ok ← ioBitClear base port
    if ok then ioBitsClear base (port + 1) n else pure false

/-- IoPermitted (R138). -/
def ioPermitted (port : Word) (n : Nat) : M Bool := do
  let c ← getCpu
  if c.real then pure true
  else if c.prot && c.cpl ≤ c.flags.iopl then pure true
  else if !c.tr.is386 then pure false
  else do
    let base ← sysRead (c.tr.base + 0x66) .w
    ioBitsClear base port.toNat n

/-- Raise GP(0) unless the ports may be accessed (R138). -/
def requireIo (port : Word) (n : Nat) : M Unit := do
  let ok ← ioPermitted port n
  require ok (.gp 0)

/-- The access stays within the 64K ports, else it is refused (R136, U9). -/
def requirePorts (port : Word) (n : Nat) : M Unit :=
  if port.toNat + n ≤ 0x10000 then pure () else refuse .ioBeyondLastPort

/-- The next scripted answer to an I/O read; a free value where there is none (D9; log 11). -/
def nextIoAnswer : M Dword := do
  let s ← getState
  match s.env.ioIn with
  | v :: rest => do
    modifyEnv fun e => { e with ioIn := rest }
    pure v
  | [] => draw

/-- IoRead (R136, R137). -/
def ioRead (port : Word) (sz : Sz) : M (BitVec sz.bits) := do
  requirePorts port sz.bytes
  let v ← nextIoAnswer
  let x := v.setWidth sz.bits
  emit (.ioRead port sz.bytes (x.setWidth 32))
  pure x

/-- IoWrite (R136, R137). -/
def ioWrite (port : Word) (sz : Sz) (v : BitVec sz.bits) : M Unit := do
  requirePorts port sz.bytes
  emit (.ioWrite port sz.bytes (v.setWidth 32))

/-- IntAck: the vector an external controller answers; a free byte where none is scripted (R608; log 12). -/
def intAck : M Byte := do
  let s ← getState
  let v ← match s.env.intVectors with
    | v :: rest => do
      modifyEnv fun e => { e with intVectors := rest }
      pure v
    | [] => do
      let j ← draw
      pure (j.setWidth 8)
  emit (.intAck v)
  pure v

end Sys2Proof.Machine
end

