-- ==== Sys2Proof/Machine/Task.lean ====
section
/-! DEFINITION. Task switching: the TSS layouts (20_memory.md R126) and the switch (60_exceptions.md R650 to R655). -/

namespace Sys2Proof.Machine

/-- What switches the task (R650). -/
inductive TaskKind where
  | jmp
  | call
  | int
  | iret
  deriving DecidableEq, Repr

/-- CALL and INT nest the new task in the old one (R651). -/
def TaskKind.nests : TaskKind → Bool
  | .jmp => false
  | .call => true
  | .int => true
  | .iret => false

/-- The execution state a TSS holds (R126). -/
structure TaskImage where
  cr3 : Option Dword
  eip : Dword
  flags : EFlags
  gpr : Gpr
  es : Word
  cs : Word
  ss : Word
  ds : Word
  fs : Word
  gs : Word
  ldt : Word
  debugTrap : Bool
  deriving DecidableEq, Repr

/-! ## Saving and reading the images (R126, R650 steps 3 and 8) -/

/-- Save into an 80386SX TSS. -/
def saveTask386 (base : Dword) (c : Cpu) (eip : Dword) (flags : EFlags) : M Unit := do
  sysWrite (base + 0x20) .d eip
  sysWrite (base + 0x24) .d flags.image32
  sysWrite (base + 0x28) .d c.gpr.eax
  sysWrite (base + 0x2C) .d c.gpr.ecx
  sysWrite (base + 0x30) .d c.gpr.edx
  sysWrite (base + 0x34) .d c.gpr.ebx
  sysWrite (base + 0x38) .d c.gpr.esp
  sysWrite (base + 0x3C) .d c.gpr.ebp
  sysWrite (base + 0x40) .d c.gpr.esi
  sysWrite (base + 0x44) .d c.gpr.edi
  sysWrite (base + 0x48) .w c.segs.es.selector
  sysWrite (base + 0x4C) .w c.segs.cs.selector
  sysWrite (base + 0x50) .w c.segs.ss.selector
  sysWrite (base + 0x54) .w c.segs.ds.selector
  sysWrite (base + 0x58) .w c.segs.fs.selector
  sysWrite (base + 0x5C) .w c.segs.gs.selector

/-- Save into a 286 TSS. -/
def saveTask286 (base : Dword) (c : Cpu) (eip : Dword) (flags : EFlags) : M Unit := do
  sysWrite (base + 0x0E) .w (eip.setWidth 16)
  sysWrite (base + 0x10) .w flags.image16
  sysWrite (base + 0x12) .w (c.gpr.eax.setWidth 16)
  sysWrite (base + 0x14) .w (c.gpr.ecx.setWidth 16)
  sysWrite (base + 0x16) .w (c.gpr.edx.setWidth 16)
  sysWrite (base + 0x18) .w (c.gpr.ebx.setWidth 16)
  sysWrite (base + 0x1A) .w (c.gpr.esp.setWidth 16)
  sysWrite (base + 0x1C) .w (c.gpr.ebp.setWidth 16)
  sysWrite (base + 0x1E) .w (c.gpr.esi.setWidth 16)
  sysWrite (base + 0x20) .w (c.gpr.edi.setWidth 16)
  sysWrite (base + 0x22) .w c.segs.es.selector
  sysWrite (base + 0x24) .w c.segs.cs.selector
  sysWrite (base + 0x26) .w c.segs.ss.selector
  sysWrite (base + 0x28) .w c.segs.ds.selector

/-- Read the image of an 80386SX TSS. -/
def readTask386 (base : Dword) : M TaskImage := do
  let cr3 ← sysRead (base + 0x1C) .d
  let eip ← sysRead (base + 0x20) .d
  let flags ← sysRead (base + 0x24) .d
  let eax ← sysRead (base + 0x28) .d
  let ecx ← sysRead (base + 0x2C) .d
  let edx ← sysRead (base + 0x30) .d
  let ebx ← sysRead (base + 0x34) .d
  let esp ← sysRead (base + 0x38) .d
  let ebp ← sysRead (base + 0x3C) .d
  let esi ← sysRead (base + 0x40) .d
  let edi ← sysRead (base + 0x44) .d
  let es ← sysRead (base + 0x48) .w
  let cs ← sysRead (base + 0x4C) .w
  let ss ← sysRead (base + 0x50) .w
  let ds ← sysRead (base + 0x54) .w
  let fs ← sysRead (base + 0x58) .w
  let gs ← sysRead (base + 0x5C) .w
  let ldt ← sysRead (base + 0x60) .w
  let t ← sysRead (base + 0x64) .w
  pure { cr3 := some cr3, eip := eip, flags := EFlags.ofImage32 flags, gpr := ⟨eax, ecx, edx, ebx, esp, ebp, esi, edi⟩,
         es := es, cs := cs, ss := ss, ds := ds, fs := fs, gs := gs, ldt := ldt, debugTrap := BitVec.getLsbD t 0 }

/-- A 16-bit register image with a free upper half (R650 step 8; log 19). -/
def wideImage (la : Dword) : M Dword := do
  let v ← sysRead la .w
  let junk ← draw
  pure (junk.extractLsb' 16 16 ++ v)

/-- Read the image of a 286 TSS; FS and GS, which it does not hold, are null (log 19). -/
def readTask286 (base : Dword) : M TaskImage := do
  let ip ← sysRead (base + 0x0E) .w
  let flags ← sysRead (base + 0x10) .w
  let eax ← wideImage (base + 0x12)
  let ecx ← wideImage (base + 0x14)
  let edx ← wideImage (base + 0x16)
  let ebx ← wideImage (base + 0x18)
  let esp ← wideImage (base + 0x1A)
  let ebp ← wideImage (base + 0x1C)
  let esi ← wideImage (base + 0x1E)
  let edi ← wideImage (base + 0x20)
  let es ← sysRead (base + 0x22) .w
  let cs ← sysRead (base + 0x24) .w
  let ss ← sysRead (base + 0x26) .w
  let ds ← sysRead (base + 0x28) .w
  let ldt ← sysRead (base + 0x2A) .w
  pure { cr3 := none, eip := BitVec.setWidth 32 ip, flags := EFlags.ofImage32 (BitVec.setWidth 32 flags),
         gpr := ⟨eax, ecx, edx, ebx, esp, ebp, esi, edi⟩, es := es, cs := cs, ss := ss, ds := ds, fs := 0, gs := 0,
         ldt := ldt, debugTrap := false }

/-! ## Touching the TSSs (R650 step 2, R616) -/

/-- What a meaning raises, as a value. -/
def attempt {α : Type} (m : M α) : M (Except Exc α) := fun s =>
  match m s with
  | .ok a s' => .ok (.ok a) s'
  | .error (.exc e) s' => .ok (.error e) s'
  | .error e s' => .error e s'

/-- Why a byte of the new TSS is touched: CALL and INT write the back link in its first word, everything else is only read
(R650 steps 5 and 8, R651), which the W/R bit of a page fault tells (R135). -/
def linkAccess (nests : Bool) (base page : Dword) : Access :=
  if nests && (page.extractLsb' 12 20 == base.extractLsb' 12 20 || page.extractLsb' 12 20 == (base + 1).extractLsb' 12 20)
  then .verify else .peek

/-- The bytes of the new TSS are present: none of them present is a page fault, some of them is refused (R616 case 1, U13;
log 25). -/
def touchNewTss (nests : Bool) (base : Dword) (n : Nat) : M Unit := do
  let last := base + BitVec.ofNat 32 (n - 1)
  let first ← attempt (translate base 1 (linkAccess nests base base) false)
  if last.extractLsb' 12 20 == base.extractLsb' 12 20 then
    match first with
    | .ok _ => pure ()
    | .error e => raiseExc e
  else do
    let second ← attempt (translate (last &&& 0xFFFFF000) 1 (linkAccess nests base last) false)
    match first, second with
    | .ok _, .ok _ => pure ()
    | .error e, .error _ => raiseExc e
    | .ok _, .error _ => refuse .partialTss
    | .error _, .ok _ => refuse .partialTss

/-- The number of bytes a task switch uses of a TSS (R126). -/
def tssBytes (is386 : Bool) : Nat := if is386 then 0x68 else 0x2C

/-! ## Loading the new task (R650 steps 8 to 15, R652) -/

/-- From here on an exception is taken in the new task (R652). -/
def commit {α : Type} (m : M α) : M α := fun s =>
  match m s with
  | .error (.exc e) s' => .error (.committed e) s'
  | r => r

/-- A segment register with its selector loaded and its cache invalid (R650 step 10). -/
def SegReg.pending (g : SegReg) (sel : Word) : SegReg := { g with selector := sel, valid := false }

/-- Load LDTR from the image (R650 step 11). A not-present LDT raises exception 10 as step 11 and R641 say; R642 names it under
exception 11: log 42. -/
def loadTaskLdt (sel : Word) : M Unit :=
  if isNull sel then pure ()
  else do
    require (!sel.getLsbD 2) (.ts (selCode sel))
    let d ← readDescriptor sel (.ts (selCode sel))
    require (!d.s && d.type == 2 && d.present) (.ts (selCode sel))
    modifyCpu fun c => { c with ldtr := ⟨sel, d.base, d.limit, true⟩ }

/-- Load CS from the image at the new CPL (R650 step 12). -/
def loadTaskCode (sel : Word) : M Unit := do
  let c ← getCpu
  require (!isNull sel) (.ts (selCode sel))
  let d ← readDescriptor sel (.ts (selCode sel))
  require d.isCode (.ts (selCode sel))
  require (if d.ec then d.dpl ≤ c.cpl else d.dpl == c.cpl) (.ts (selCode sel))
  require d.present (.np (selCode sel))
  setAccessed sel d
  setSeg .cs (d.cache sel)

/-- Load the six segment registers of the new task (R650 step 12, R655). -/
def loadTaskSegments (im : TaskImage) : M Unit :=
  if im.flags.vm then
    modifyCpu fun c => { c with
      cpl := 3
      segs := { es := v86Segment .es im.es, cs := v86Segment .cs im.cs, ss := v86Segment .ss im.ss,
                ds := v86Segment .ds im.ds, fs := v86Segment .fs im.fs, gs := v86Segment .gs im.gs } }
  else do
    modifyCpu fun c => { c with cpl := rpl im.cs }
    loadStack .ts (rpl im.cs) im.ss
    loadTaskCode im.cs
    loadData .ts .ds im.ds
    loadData .ts .es im.es
    loadData .ts .fs im.fs
    loadData .ts .gs im.gs

/-- The registers of the new task: steps 7 to 10. With VM the CPL is 3 from here on (R49, R655; log 26). -/
def enterTask (im : TaskImage) (kind : TaskKind) (sel : Word) (t : Desc) (is386 : Bool) (c : Cpu) : Cpu :=
  { c with
    tr := ⟨sel, t.base, t.limit, is386⟩
    cr0 := { c.cr0 with ts := true }
    cr3 := match im.cr3 with
      | some v => if c.cr0.pg then v &&& 0xFFFFF000 else c.cr3
      | none => c.cr3
    eip := im.eip
    flags := { im.flags with nt := im.flags.nt || kind.nests }
    cpl := if im.flags.vm then 3 else c.cpl
    gpr := im.gpr
    segs := { es := c.segs.es.pending im.es, cs := c.segs.cs.pending im.cs, ss := c.segs.ss.pending im.ss,
              ds := c.segs.ds.pending im.ds, fs := c.segs.fs.pending im.fs, gs := c.segs.gs.pending im.gs }
    ldtr := { c.ldtr with selector := im.ldt, valid := false } }

/-- The local breakpoint enables of DR7 are cleared (step 13), and the exception 1 of the T bit becomes pending (step 14,
R653). -/
def armTask (im : TaskImage) (c : Cpu) : Cpu :=
  { c with
    dbg := { c.dbg with dr7 := c.dbg.dr7 &&& 0xFFFFFEAA }
    cur := { c.cur with hits := { c.cur.hits with bt := c.cur.hits.bt || im.debugTrap } } }

/-- Flush the TLB (R146). -/
def flushTlb : M Unit := fun s => .ok () { s with tlb := [] }

/-- The new EIP lies within the new code segment (R650 step 15); a pending T-bit trap comes first (step 14). -/
def requireTaskEip (im : TaskImage) : M Unit := do
  let c ← getCpu
  require (im.debugTrap || c.eip ≤ c.segs.cs.limit) (.gp 0)

/-- Change the access rights byte of a TSS descriptor in the GDT (R650 steps 4 and 6). One that the limit of the GDT no longer takes
in is left alone: log 51. -/
def changeTssRights (sel : Word) (f : Byte → Byte) : M Unit := do
  let c ← getCpu
  match descriptorAddr c sel with
  | some la => do
    let v ← sysRead (la + 5) .b
    sysWrite (la + 5) .b (f v)
  | none => pure ()

/-- Save the old task (R650 step 3). -/
def saveTask (old : TaskReg) (c : Cpu) (eip : Dword) (flags : EFlags) : M Unit :=
  if old.is386 then saveTask386 old.base c eip flags else saveTask286 old.base c eip flags

/-- JMP and IRET leave the old task not busy (R650 step 4). -/
def releaseOldTask (kind : TaskKind) (old : Word) : M Unit :=
  if kind == .jmp || kind == .iret then changeTssRights old (· &&& 0xFD) else pure ()

/-- CALL and INT store the old TSS selector in the new TSS (R650 step 5). -/
def linkTasks (kind : TaskKind) (base : Dword) (old : Word) : M Unit :=
  if kind.nests then sysWrite base .w old else pure ()

/-- All but IRET mark the new task busy (R650 step 6). -/
def markNewTask (kind : TaskKind) (sel : Word) : M Unit :=
  if kind != .iret then changeTssRights sel (· ||| 0x02) else pure ()

/-- Read the image of the new task (R650 step 8). -/
def readTask (is386 : Bool) (base : Dword) : M TaskImage := if is386 then readTask386 base else readTask286 base

/-- A load of CR3 flushes the TLB (R146, R650). -/
def flushForTask (reload : Bool) : M Unit := if reload then flushTlb else pure ()

/-- TaskSwitch (R650): `t` is the checked descriptor of `sel`, `ret` the EIP and `rf` the RF to save. The images of the new TSS
are read through the page tables of the old task; CR3 is loaded after: log 43. Step 2 touches the old TSS as a write of all
its bytes: log 47. -/
def taskSwitch (sel : Word) (t : Desc) (kind : TaskKind) (ret : Dword) (rf : Bool) : M Unit := do
  let c ← getCpu
  let is386 := t.type.getLsbD 3
  let old := c.tr
  require ((tssBytes is386) - 1 ≤ t.limit.toNat) (.ts (selCode sel))
  let _ ← translate old.base (tssBytes old.is386) .verify false
  touchNewTss kind.nests t.base (tssBytes is386)
  saveTask old c ret { c.flags with rf := rf, nt := c.flags.nt && kind != .iret }
  releaseOldTask kind old.selector
  linkTasks kind t.base old.selector
  markNewTask kind sel
  let im ← readTask is386 t.base
  modifyCpu (enterTask im kind sel t is386)
  flushForTask (im.cr3.isSome && c.cr0.pg)
  flushPrefetch
  commit do
    loadTaskLdt im.ldt
    loadTaskSegments im
    modifyCpu (armTask im)
    requireTaskEip im

end Sys2Proof.Machine
end

