-- ==== Sys2Proof/Machine/Transfer.lean ====
section
/-! DEFINITION. Control transfers: near targets (47_control_transfer.md R440, R441), far JMP, CALL and RET with call gates,
task gates and TSSs (R452 to R462), and the checks they share with interrupts and IRET. -/

namespace Sys2Proof.Machine

/-- How an instruction that completes ends: what the boundary after it must do (60_exceptions.md R611, R670, R673). -/
inductive Ending where
  /-- Sequential completion. -/
  | next
  /-- Sequential completion that leaves RF (POPF, R673). -/
  | nextKeepRf
  /-- A taken transfer; EIP is written. -/
  | jumped
  /-- IRET and task switches: EIP is written, RF is left as loaded (R673). -/
  | returned
  /-- A software interrupt has been delivered (R670: no step trap). -/
  | interrupted
  /-- An element of a repeated string instruction is done and more remain (R421). -/
  | again
  /-- WAIT waits for BUSY#: nothing has completed (R521). -/
  | waiting
  /-- ESC waits for BUSY# after its checks: it goes on in the next step, without a boundary between (R522, R612). -/
  | stalled
  /-- MOV SS and POP SS (R611). -/
  | loadedSs
  /-- STI that changed IF (R320). -/
  | enabled
  deriving DecidableEq, Repr

/-! ## Near transfers -/

/-- A target truncated to the operand size (R440). -/
def Cpu.target (c : Cpu) (t : Dword) : Dword := if c.os32 then t else (t.setWidth 16).setWidth 32

/-- Write EIP and flush the queue: every taken transfer (R440). -/
def setEip (t : Dword) : M Unit := do
  modifyCpu fun c => { c with eip := t }
  flushPrefetch

/-- The target lies within the limit of CS (R441). -/
def requireTarget (t : Dword) : M Unit := do
  let c ← getCpu
  require (t ≤ c.segs.cs.limit) (.gp 0)

/-- Go to a near target after the limit check (R440, R441). -/
def jumpTo (t : Dword) : M Ending := do
  let c ← getCpu
  requireTarget (c.target t)
  setEip (c.target t)
  pure .jumped

/-- Go to the next instruction plus a displacement (R444). -/
def jumpRel (disp : Dword) : M Ending := do
  let c ← getCpu
  jumpTo (c.next + disp)

/-- Push the return offset and go to a near target; the target is checked before the push (R441, R442). -/
def callTo (t : Dword) : M Ending := do
  let c ← getCpu
  requireTarget (c.target t)
  push c.osz (c.next.setWidth c.osz.bits)
  setEip (c.target t)
  pure .jumped

/-- Near RET; `bytes` are added to the stack pointer (R447, R448). -/
def returnNear (bytes : Dword) : M Ending := do
  let c ← getCpu
  let t ← pop c.osz
  requireTarget (t.setWidth 32)
  modifyCpu fun c => c.withSp (c.spPlus bytes)
  setEip (t.setWidth 32)
  pure .jumped

/-! ## Checks shared by the far transfers -/

/-- A code segment named by a far RET or IRET (R460, R497). -/
def checkReturnCode (sel : Word) : M Desc := do
  let c ← getCpu
  require (!isNull sel) (.gp 0)
  require (c.cpl ≤ rpl sel) (.gp (selCode sel))
  let d ← readDescriptor sel (.gp (selCode sel))
  require d.isCode (.gp (selCode sel))
  require (if d.ec then d.dpl ≤ rpl sel else d.dpl == rpl sel) (.gp (selCode sel))
  require d.present (.np (selCode sel))
  pure d

/-- The stack segment of the outer level (R460). -/
def checkOuterStack (sel : Word) (level : BitVec 2) : M Desc := do
  require (!isNull sel) (.gp 0)
  let d ← readDescriptor sel (.gp (selCode sel))
  require (rpl sel == level && d.dpl == level && d.isStack) (.gp (selCode sel))
  require d.present (.ss (selCode sel))
  pure d

/-- A data segment register that the level may not use becomes null (R460). -/
def dropSegment (level : BitVec 2) (g : SegReg) : SegReg :=
  if g.valid && g.s && !(g.exec && g.ec) && g.dpl < level then { g with selector := 0, valid := false } else g

/-- The last step of a return to an outer level (R460). -/
def dropSegments : M Unit :=
  modifyCpu fun c => { c with segs := { c.segs with
    es := dropSegment c.cpl c.segs.es, ds := dropSegment c.cpl c.segs.ds, fs := dropSegment c.cpl c.segs.fs,
    gs := dropSegment c.cpl c.segs.gs } }

/-- The stack pointer the TSS holds for a level (R458, R636). -/
def innerStackPointer (level : BitVec 2) : M (Dword × Word) := do
  let c ← getCpu
  if c.tr.is386 then do
    let k := 4 + 8 * level.toNat
    require (k + 5 ≤ c.tr.limit.toNat) (.ts (selCode c.tr.selector))
    let sp ← sysRead (c.tr.base + BitVec.ofNat 32 k) .d
    let ss ← sysRead (c.tr.base + BitVec.ofNat 32 (k + 4)) .w
    pure (sp, ss)
  else do
    let k := 2 + 4 * level.toNat
    require (k + 3 ≤ c.tr.limit.toNat) (.ts (selCode c.tr.selector))
    let sp ← sysRead (c.tr.base + BitVec.ofNat 32 k) .w
    let ss ← sysRead (c.tr.base + BitVec.ofNat 32 (k + 2)) .w
    pure (BitVec.setWidth 32 sp, ss)

/-- The stack segment the TSS names for a level (R458, R636). -/
def checkInnerStack (sel : Word) (level : BitVec 2) : M Desc := do
  require (!isNull sel) (.ts (selCode sel))
  let d ← readDescriptor sel (.ts (selCode sel))
  require (rpl sel == level && d.dpl == level && d.isStack) (.ts (selCode sel))
  require d.present (.ss (selCode sel))
  pure d

/-- Switch to the stack of an inner level; VM is cleared with it (R636, R661 step 1). -/
def enterInnerStack (sel : Word) (d : Desc) (esp : Dword) (level : BitVec 2) : M Unit := do
  setAccessed sel d
  modifyCpu fun c => { c with
    segs := { c.segs with ss := d.cache sel }
    gpr := { c.gpr with esp := esp }
    cpl := level
    flags := { c.flags with vm := false } }

/-- Load CS with a checked code segment at privilege level `level`, and EIP (R457, R639). -/
def enterCode (sel : Word) (d : Desc) (level : BitVec 2) (off : Dword) : M Unit := do
  setAccessed sel d
  modifyCpu fun c => { c with segs := { c.segs with cs := d.cache (withRpl sel level) }, cpl := level }
  setEip off

/-- Load CS as the 8086 does (R55, R462). -/
def loadCodeReal (sel : Word) : M Unit :=
  modifyCpu fun c => { c with segs := { c.segs with
    cs := if c.cr0.pe && c.flags.vm then v86Segment .cs sel else c.segs.cs.realLoad sel } }

/-- A far JMP has been executed since the last change of CR0.PE (R725). -/
def settleMode : M Unit := modifyCpu fun c => { c with peSwitched := false }

/-! ## Far JMP and CALL (R452 to R459) -/

/-- Push CS and the return offset as items of `sz` (R452). -/
def pushReturn (sz : Sz) : M Unit := do
  let c ← getCpu
  pushSelector sz c.segs.cs.selector
  push sz (c.next.setWidth sz.bits)

/-- The current stack has room for `k` items of `sz`, else SS(0) (R457, R635). -/
def requireRoom (k : Nat) (sz : Sz) : M Unit := do
  let c ← getCpu
  require (stackRoom c.prot c.segs.ss c.sp k sz.bytes) (.ss 0)

/-- A far JMP or CALL to a code segment at the current level (R457, R458). -/
def farSameLevel (call : Bool) (sz : Sz) (sel : Word) (d : Desc) (off : Dword) : M Ending := do
  let c ← getCpu
  require (off ≤ d.limit) (.gp 0)
  if call then do
    requireRoom 2 sz
    pushReturn sz
  enterCode sel d c.cpl off
  pure .jumped

/-- Push items, the last of the list first. -/
def pushAll (sz : Sz) : List (BitVec sz.bits) → M Unit
  | [] => pure ()
  | v :: rest => do
    pushAll sz rest
    push sz v

/-- The first `n` items of the stack, the top one first. -/
def stackItems (sz : Sz) : Nat → Nat → M (List (BitVec sz.bits))
  | _, 0 => pure []
  | i, n + 1 => do
    let v ← stackItem sz i
    let rest ← stackItems sz (i + 1) n
    pure (v :: rest)

/-- CALL through a call gate to a more privileged level (R458). -/
def callInner (g : Desc) (csel : Word) (d : Desc) (off : Dword) (sz : Sz) : M Ending := do
  let c ← getCpu
  let (nesp, nss) ← innerStackPointer d.dpl
  let s ← checkInnerStack nss d.dpl
  require (stackRoom true (s.cache nss) nesp (4 + g.wordCount) sz.bytes) (.ss 0)
  require (off ≤ d.limit) (.gp 0)
  let params ← stackItems sz 0 g.wordCount
  enterInnerStack nss s nesp d.dpl
  pushSelector sz c.segs.ss.selector
  push sz (c.gpr.esp.setWidth sz.bits)
  pushAll sz params
  pushReturn sz
  enterCode csel d d.dpl off
  pure .jumped

/-- JMP and CALL through a call gate (R458). -/
def farGate (call : Bool) (g : Desc) (gsel : Word) : M Ending := do
  let c ← getCpu
  require (c.cpl ≤ g.dpl && rpl gsel ≤ g.dpl) (.gp (selCode gsel))
  require g.present (.np (selCode gsel))
  let csel := g.gateSelector
  let sz : Sz := if g.type.getLsbD 3 then .d else .w
  require (!isNull csel) (.gp 0)
  let d ← readDescriptor csel (.gp (selCode csel))
  require d.isCode (.gp (selCode csel))
  require (d.dpl ≤ c.cpl) (.gp (selCode csel))
  require (call || d.ec || d.dpl == c.cpl) (.gp (selCode csel))
  require d.present (.np (selCode csel))
  if !call || d.ec || d.dpl == c.cpl then farSameLevel call sz csel d g.gateOffset
  else callInner g csel d g.gateOffset sz

/-- An available TSS: type 1 or 9 (R123). -/
def Desc.isAvailableTss (d : Desc) : Bool := !d.s && (d.type == 1 || d.type == 9)

/-- A busy TSS: type 3 or 0BH (R123). -/
def Desc.isBusyTss (d : Desc) : Bool := !d.s && (d.type == 3 || d.type == 0xB)

/-- JMP and CALL to a TSS (R459). -/
def farTss (call : Bool) (t : Desc) (sel : Word) : M Ending := do
  let c ← getCpu
  require (c.cpl ≤ t.dpl && rpl sel ≤ t.dpl) (.gp (selCode sel))
  require (!sel.getLsbD 2) (.gp (selCode sel))
  require t.present (.np (selCode sel))
  taskSwitch sel t (if call then .call else .jmp) c.next c.flags.rf
  pure .returned

/-- The TSS a task gate names (R459, R637). -/
def taskGateTarget (tsel : Word) : M Desc := do
  require (!isNull tsel && !tsel.getLsbD 2) (.gp (selCode tsel))
  let t ← readDescriptor tsel (.gp (selCode tsel))
  require t.isAvailableTss (.gp (selCode tsel))
  require t.present (.np (selCode tsel))
  pure t

/-- JMP and CALL through a task gate (R459). -/
def farTaskGate (call : Bool) (g : Desc) (gsel : Word) : M Ending := do
  let c ← getCpu
  require (c.cpl ≤ g.dpl && rpl gsel ≤ g.dpl) (.gp (selCode gsel))
  require g.present (.np (selCode gsel))
  let t ← taskGateTarget g.gateSelector
  taskSwitch g.gateSelector t (if call then .call else .jmp) c.next c.flags.rf
  pure .returned

/-- Far JMP and CALL in Protected Mode (R457). -/
def farProtected (call : Bool) (off : Dword) (sel : Word) : M Ending := do
  let c ← getCpu
  require (!isNull sel) (.gp 0)
  let d ← readDescriptor sel (.gp (selCode sel))
  if d.isCode then do
    require (if d.ec then d.dpl ≤ c.cpl else rpl sel ≤ c.cpl && d.dpl == c.cpl) (.gp (selCode sel))
    require d.present (.np (selCode sel))
    farSameLevel call c.osz sel d off
  else if !d.s && (d.type == 4 || d.type == 0xC) then farGate call d sel
  else if !d.s && d.type == 5 then farTaskGate call d sel
  else if d.isAvailableTss then farTss call d sel
  else raiseExc (.gp (selCode sel))

/-- Far JMP (R454, R457). -/
def farJump (off : Dword) (sel : Word) : M Ending := do
  settleMode
  let c ← getCpu
  if c.prot then farProtected false off sel
  else do
    require (off ≤ 0xFFFF) (.gp 0)
    loadCodeReal sel
    setEip off
    pure .jumped

/-- Far CALL (R452, R457). -/
def farCall (off : Dword) (sel : Word) : M Ending := do
  requireSettledMode
  let c ← getCpu
  if c.prot then farProtected true off sel
  else do
    require (off ≤ 0xFFFF) (.gp 0)
    pushReturn c.osz
    loadCodeReal sel
    setEip off
    pure .jumped

/-! ## Far RET (R456, R460) -/

/-- Write ESP from a stack image: a 16-bit image loads SP alone (R460). -/
def loadEsp (sz : Sz) (v : Dword) : M Unit :=
  modifyCpu fun c => { c with gpr := { c.gpr with
    esp := if sz = .d then v else c.gpr.esp.extractLsb' 16 16 ++ v.setWidth 16 } }

/-- Far RET; `bytes` are added to the stack pointer (R456, R460). -/
def returnFar (bytes : Dword) : M Ending := do
  requireSettledMode
  let c ← getCpu
  let sz := c.osz
  let w := BitVec.ofNat 32 sz.bytes
  if c.prot then do
    requireStack 0 (2 * sz.bytes)
    let off ← stackItem sz 0
    let selItem ← stackItem sz 1
    let sel : Word := selItem.setWidth 16
    let d ← checkReturnCode sel
    if rpl sel == c.cpl then do
      require (off.setWidth 32 ≤ d.limit) (.gp 0)
      modifyCpu fun c => c.withSp (c.spPlus (w + w + bytes))
      enterCode sel d (rpl sel) (off.setWidth 32)
      pure .jumped
    else do
      requireStack (w + w + bytes) (2 * sz.bytes)
      let nesp ← segRead .ss (c.spPlus (w + w + bytes)) sz
      let ssItem ← segRead .ss (c.spPlus (w + w + w + bytes)) sz
      let nss : Word := ssItem.setWidth 16
      let s ← checkOuterStack nss (rpl sel)
      require (off.setWidth 32 ≤ d.limit) (.gp 0)
      enterCode sel d (rpl sel) (off.setWidth 32)
      setAccessed nss s
      setSeg .ss (s.cache nss)
      loadEsp sz (nesp.setWidth 32 + bytes)
      dropSegments
      pure .jumped
  else do
    let off ← stackItem sz 0
    let selItem ← stackItem sz 1
    require (off.setWidth 32 ≤ (0xFFFF : Dword)) (.gp 0)
    modifyCpu fun c => c.withSp (c.spPlus (w + w + bytes))
    loadCodeReal (selItem.setWidth 16)
    setEip (off.setWidth 32)
    pure .jumped

end Sys2Proof.Machine
end

