-- ==== Sys2Proof/Machine/Ops.lean ====
section
/-! DEFINITION. Taking an interrupt or exception (60_exceptions.md R600 to R640, R660 to R663), returning from one
(49_interrupt_instr.md R495 to R497), and the shell every instruction runs in: decode-time checks, completion, restart. -/

namespace Sys2Proof.Machine

/-! ## Events (R600, R620) -/

/-- The kind of an event (R620). -/
inductive EventKind where
  | software
  | exception
  | hardware
  deriving DecidableEq, Repr

/-- What Deliver is given (R620): `rf` is the RF of the saved image (R673), `ret` the EIP to save, `start` the offset of the
current instruction. -/
structure Event where
  vector : Byte
  kind : EventKind
  code : Option Word
  rf : Bool
  ret : Dword
  start : Dword
  nmi : Bool
  deriving DecidableEq, Repr

/-- The image saved for an exception has RF = 1, but for the abort 9 (R605, R673). -/
def excSavesRf (e : Exc) : Bool := e.vector != 9

/-- The event of an exception raised by an instruction that starts at `start` (R620). -/
def Exc.event (e : Exc) (start : Dword) : Event :=
  { vector := e.vector, kind := .exception, code := e.code, rf := excSavesRf e, ret := start,
    start := start, nmi := false }

/-- The debug registers as an exception leaves them before it is delivered: DR6 gains its bits, and one that sets DR6.BD clears
DR7.GD (R516, R671). -/
def DebugRegs.afterExc (d : DebugRegs) (bits : Dword) : DebugRegs :=
  { d with dr6 := d.dr6 ||| bits, dr7 := if bits.getLsbD 13 then d.dr7 &&& 0xFFFFDFFF else d.dr7 }

/-- CR2, DR6 and DR7 as an exception leaves them, before its handler is entered (R135, R516, R671). -/
def applyExc (e : Exc) : M Unit :=
  modifyCpu fun c => { c with cr2 := e.cr2.getD c.cr2, dbg := c.dbg.afterExc e.dr6 }

/-! ## Real Mode delivery (R621, R622) -/

/-- Deliver in Real Mode. A vector beyond the IDTR limit is exception 8, or shutdown for exceptions 8 and 13 (R682). IF, TF
and NT are cleared (R47; log 48). -/
def deliverReal (ev : Event) : M Unit := do
  let c ← getCpu
  let off : Dword := ev.vector.setWidth 32 <<< 2
  if off.toNat + 3 > c.idtr.limit.toNat then
    if ev.kind == .exception && (ev.vector == 8 || ev.vector == 13) then shutdown else raiseExc (.plain 8)
  else do
    let ip ← sysRead (c.idtr.base + off) .w
    let cs ← sysRead (c.idtr.base + off + 2) .w
    push .w c.flags.image16
    push .w c.segs.cs.selector
    push .w (ev.ret.setWidth 16)
    modifyCpu fun c => { c with
      flags := { c.flags with intf := false, tf := false, nt := false }
      segs := { c.segs with cs := c.segs.cs.realLoad cs } }
    setEip (BitVec.setWidth 32 ip)

/-! ## Protected Mode delivery (R632 to R639, R661) -/

/-- The error code that names an IDT entry (R606); EXT is added by `deliver`. -/
def idtCode (vector : Byte) : Word := (vector.setWidth 16 <<< 3) ||| 2

/-- The flags after the image is saved (R632, D20). -/
def EFlags.afterEntry (f : EFlags) (clearIf : Bool) : EFlags :=
  { f with tf := false, nt := false, vm := false, rf := false, intf := f.intf && !clearIf }

/-- Push EFLAGS, CS, EIP and the error code (R635, R636). -/
def pushFrame (ev : Event) (sz : Sz) (old : Cpu) : M Unit := do
  push sz ({ old.flags with rf := ev.rf }.image sz)
  pushSelector sz old.segs.cs.selector
  push sz (ev.ret.setWidth sz.bits)
  match ev.code with
  | some code => pushSelector sz code
  | none => pure ()

/-- Same-level entry (R635). -/
def enterSame (ev : Event) (sz : Sz) (csel : Word) (d : Desc) (off : Dword) : M Unit := do
  let c ← getCpu
  requireRoom (if ev.code.isSome then 4 else 3) sz
  require (off ≤ d.limit) (.gp 0)
  pushFrame ev sz c
  enterCode csel d c.cpl off

/-- Push the 8086 segment registers and load them with null selectors (R661 step 3). -/
def pushV86Segments (old : Cpu) : M Unit := do
  pushSelector .d old.segs.gs.selector
  pushSelector .d old.segs.fs.selector
  pushSelector .d old.segs.ds.selector
  pushSelector .d old.segs.es.selector
  modifyCpu fun c => { c with segs := { c.segs with
    es := { c.segs.es with selector := 0, valid := false }, ds := { c.segs.ds with selector := 0, valid := false },
    fs := { c.segs.fs with selector := 0, valid := false }, gs := { c.segs.gs with selector := 0, valid := false } } }

/-- Inner-level entry, from Protected or Virtual 8086 Mode (R636, R661). -/
def enterInner (ev : Event) (sz : Sz) (csel : Word) (d : Desc) (off : Dword) : M Unit := do
  let c ← getCpu
  let (nesp, nss) ← innerStackPointer d.dpl
  let s ← checkInnerStack nss d.dpl
  let slots := (if c.v86 then 9 else 5) + (if ev.code.isSome then 1 else 0)
  require (stackRoom true (s.cache nss) nesp slots sz.bytes) (.ss 0)
  require (off ≤ d.limit) (.gp 0)
  enterInnerStack nss s nesp d.dpl
  if c.v86 then pushV86Segments c
  pushSelector sz c.segs.ss.selector
  push sz (c.gpr.esp.setWidth sz.bits)
  pushFrame ev sz c
  enterCode csel d d.dpl off

/-- Entry through an interrupt or trap gate (R634, R663). -/
def enterGate (ev : Event) (g : Desc) : M Unit := do
  let c ← getCpu
  if c.v86 && !g.type.getLsbD 3 then refuse .gate286FromVirtual8086
  else do
    let csel := g.gateSelector
    let sz : Sz := if g.type.getLsbD 3 then .d else .w
    require (!isNull csel) (.gp 0)
    let d ← readDescriptor csel (.gp (selCode csel))
    require d.isCode (.gp (selCode csel))
    require (d.dpl ≤ c.cpl) (.gp (selCode csel))
    require d.present (.np (selCode csel))
    require (!c.v86 || (!d.ec && d.dpl == 0)) (.gp (selCode csel))
    if !d.ec && d.dpl < c.cpl then enterInner ev sz csel d g.gateOffset
    else enterSame ev sz csel d g.gateOffset
    modifyFlags fun f => f.afterEntry (!g.type.getLsbD 0 || ev.nmi)

/-- Entry through a task gate (R637); the error code goes onto the new task's stack. -/
def enterTaskGate (ev : Event) (g : Desc) : M Unit := do
  let t ← taskGateTarget g.gateSelector
  taskSwitch g.gateSelector t .int ev.ret ev.rf
  if ev.nmi then modifyFlags fun f => { f with intf := false }
  commit <|
    match ev.code with
    | some code => pushSelector (if t.type.getLsbD 3 then .d else .w) code
    | none => pure ()

/-- The five gate types an IDT entry may have (R633). -/
def Desc.isIdtGate (d : Desc) : Bool :=
  !d.s && (d.type == 5 || d.type == 6 || d.type == 7 || d.type == 0xE || d.type == 0xF)

/-- An exception raised by a check of the gate that belongs to INT n, INT 3 and INTO themselves (R491, R634; log 17). -/
def Exc.ofCheck (kind : EventKind) (e : Exc) : Exc := { e with own := kind == .software }

/-- Deliver with PE = 1 (R633, R634). -/
def deliverProtected (ev : Event) : M Unit := do
  let c ← getCpu
  let off : Dword := ev.vector.setWidth 32 <<< 3
  require (off.toNat + 7 ≤ c.idtr.limit.toNat) ((Exc.gp (idtCode ev.vector)).ofCheck ev.kind)
  let g ← readDescriptorAt (c.idtr.base + off)
  require g.isIdtGate (.gp (idtCode ev.vector))
  require (ev.kind != .software || c.cpl ≤ g.dpl) ((Exc.gp (idtCode ev.vector)).ofCheck ev.kind)
  require g.present (.np (idtCode ev.vector))
  if g.type == 5 then enterTaskGate ev g else enterGate ev g

/-! ## Deliver (R620, R629, R640) -/

/-- One attempt to deliver an event. Exception 1 clears DR7.GD once its handler is entered (R68, R674; INT 1, which enters the same
handler, leaves GD alone: log 41); delivery ends a halt and flushes the queue. -/
def deliverOnce (ev : Event) : M Unit := do
  requireSettledMode
  let c ← getCpu
  if c.real then deliverReal ev else deliverProtected ev
  flushPrefetch
  modifyCpu fun c => { c with
    run := .running
    dbg := if ev.vector == 1 && ev.kind == .exception then { c.dbg with dr7 := c.dbg.dr7 &&& 0xFFFFDFFF } else c.dbg }

/-- The error code of an exception found while delivering an event: EXT of exceptions 10 to 13 is 1, but for the checks of the gate
that are faults of INT n, INT 3 and INTO themselves (R491, R606, R629, R634, R640; log 17). -/
def nestedCode (e : Exc) : Option Word :=
  e.code.map fun code => if !e.own && 10 ≤ e.vector && e.vector ≤ 13 then code ||| 1 else code

/-- The event an exception found while delivering an event becomes; `none` is shutdown (R629, R640; log 17). -/
def nestedEvent (ev : Event) (e : Exc) : Option Event :=
  let second : Event :=
    { vector := e.vector, kind := .exception, code := nestedCode e, rf := true, ret := ev.ret,
      start := ev.start, nmi := false }
  let double : Event :=
    { vector := 8, kind := .exception, code := some 0, rf := ev.rf, ret := ev.ret, start := ev.start,
      nmi := false }
  if e.vector = 8 then some { double with ret := ev.start }
  else if ev.kind = .exception then
    if ev.vector = 8 then none
    else if ev.vector = 14 then some double
    else if 10 ≤ ev.vector && ev.vector ≤ 13 then (if e.vector = 14 then some second else some double)
    else some second
  else some second

/-- Deliver (R620). A failed attempt leaves the registers as before it (R640), or in the new task after a task switch
(R652), and becomes the event R629 says, or shutdown with these registers (R683). The depth R629 allows is less than 6. -/
def deliver : Nat → Event → M Unit
  | 0, _ => shutdown
  | n + 1, ev => fun s =>
    match deliverOnce ev s with
    | .ok a s1 => .ok a s1
    | .error (.exc e) s1 =>
      (do applyExc e
          match nestedEvent ev e with
          | some ev2 => deliver n ev2
          | none => shutdown) { s1 with cpu := s.cpu }
    | .error (.committed e) s1 =>
      (do applyExc e
          match nestedEvent { ev with ret := s1.cpu.eip, start := s1.cpu.eip } e with
          | some ev2 => deliver n ev2
          | none => shutdown) s1
    | .error stop s1 => .error stop s1

/-- How many deliveries one event can lead to at most, and one more. -/
def deliverDepth : Nat := 6

/-- The boundary after a delivery: the data breakpoints its pushes matched become pending (R672). The inhibit ends, also where a
trap comes between STI and the instruction after it: log 38. -/
def settleDelivery (s : State) : State :=
  { s with cpu := { s.cpu with
      trap := s.cpu.cur.hits, inhibit := .none, repActive := false, escWaiting := false, cur := Current.none } }

/-- Enter shutdown with its indication cycle; the registers stand as they are at that moment (R682, R683; log 13). -/
def enterShutdown (s : State) : State :=
  { s with
    cpu := { s.cpu with
      run := .shutdown, trap := DebugCauses.none, inhibit := .none, repActive := false, escWaiting := false,
      cur := Current.none }
    queue := []
    prefetch := []
    pgSwitch := none
    env := { s.env with trace := .shutdown :: s.env.trace } }

/-- Deliver an event at a boundary: a whole step. -/
def deliverAt (ev : Event) (s : State) : Host.Outcome State Fault Refusal :=
  match deliver deliverDepth ev s with
  | .ok _ s' => .next (settleDelivery s')
  | .error (.refuse r) _ => .refused r
  | .error _ s' => .next (enterShutdown s')

/-- Take an exception: what `raise` means at the level of a step (R603, R620). -/
def takeException (e : Exc) (s : State) : Host.Outcome State Fault Refusal :=
  match applyExc e s with
  | .ok _ s' => deliverAt (e.event s'.cpu.eip) s'
  | .error _ s' => .next s'

/-- The software interrupts: delivery with the return address after the instruction (R490). -/
def softwareInterrupt (vector : Byte) : M Ending := do
  let c ← getCpu
  deliver deliverDepth
    { vector := vector, kind := .software, code := none, rf := false, ret := c.next, start := c.eip,
      nmi := false }
  if c.real then modifyFlags fun f => { f with rf := false }
  pure .interrupted

/-! ## Interrupt return (R495 to R497) -/

/-- Any IRET ends NMI service (R495, R609). -/
def endNmiService : M Unit := modifyCpu fun c => { c with nmiInService := false }

/-- IRET in Real and Virtual 8086 Mode (R495, R496). -/
def iretReal : M Unit := do
  let c ← getCpu
  let sz := c.osz
  require (c.real || c.flags.iopl == 3) (.gp 0)
  requireStack 0 (3 * sz.bytes)
  let off ← stackItem sz 0
  let sel ← stackItem sz 1
  let f ← stackItem sz 2
  require (off.setWidth 32 ≤ (0xFFFF : Dword)) (.gp 0)
  modifyCpu fun c => c.withSp (c.spPlus (BitVec.ofNat 32 (3 * sz.bytes)))
  loadCodeReal (sel.setWidth 16)
  setEip (off.setWidth 32)
  modifyFlags fun g =>
    { g.loadImage (f.setWidth 16) c.real true with rf := if sz = .d then f.getLsbD 16 else g.rf }

/-- IRET with NT = 1: back to the task that was interrupted (R497). -/
def iretTask : M Unit := do
  let c ← getCpu
  let link ← sysRead c.tr.base .w
  require (!BitVec.getLsbD link 2) (.ts (selCode link))
  let t ← readDescriptor link (.ts (selCode link))
  require t.isBusyTss (.ts (selCode link))
  require t.present (.np (selCode link))
  taskSwitch link t .iret c.next c.flags.rf

/-- IRET to Virtual 8086 Mode (R497): the frame of R638 read from the stack. -/
def iretV86 (off : Dword) (sel : Word) (f : Dword) : M Unit := do
  requireStack 0 36
  let nesp ← stackItem .d 3
  let nss ← stackItem .d 4
  let es ← stackItem .d 5
  let ds ← stackItem .d 6
  let fs ← stackItem .d 7
  let gs ← stackItem .d 8
  modifyCpu fun c => { c with
    flags := EFlags.ofImage32 f
    segs := { es := v86Segment .es (BitVec.setWidth 16 es), cs := v86Segment .cs sel,
              ss := v86Segment .ss (BitVec.setWidth 16 nss), ds := v86Segment .ds (BitVec.setWidth 16 ds),
              fs := v86Segment .fs (BitVec.setWidth 16 fs), gs := v86Segment .gs (BitVec.setWidth 16 gs) }
    gpr := { c.gpr with esp := nesp }
    cpl := 3 }
  setEip ((off.setWidth 16).setWidth 32)

/-- The flags a Protected Mode IRET loads, with the CPL before the return (R497). -/
def iretFlags (cpl : BitVec 2) (sz : Sz) (f : Dword) (g : EFlags) : EFlags :=
  { g.loadImage (f.setWidth 16) (cpl == 0) (cpl ≤ g.iopl) with rf := if sz = .d then f.getLsbD 16 else g.rf }

/-- IRET within a task in Protected Mode (R497). -/
def iretProtected (sz : Sz) (off : Dword) (sel : Word) (f : Dword) : M Unit := do
  let c ← getCpu
  let d ← checkReturnCode sel
  if rpl sel == c.cpl then do
    require (off ≤ d.limit) (.gp 0)
    modifyCpu fun c => c.withSp (c.spPlus (BitVec.ofNat 32 (3 * sz.bytes)))
    enterCode sel d (rpl sel) off
    modifyFlags (iretFlags c.cpl sz f)
  else do
    requireStack 0 (5 * sz.bytes)
    let nesp ← stackItem sz 3
    let ssItem ← stackItem sz 4
    let nss : Word := ssItem.setWidth 16
    let s ← checkOuterStack nss (rpl sel)
    require (off ≤ d.limit) (.gp 0)
    modifyFlags (iretFlags c.cpl sz f)
    enterCode sel d (rpl sel) off
    setAccessed nss s
    setSeg .ss (s.cache nss)
    loadEsp sz (nesp.setWidth 32)
    dropSegments

/-- IRET (R495 to R497). One whose task switch faults past its commit point does not end NMI service: log 40. -/
def interruptReturn : M Ending := do
  requireSettledMode
  let c ← getCpu
  let sz := c.osz
  if !c.prot then iretReal
  else if c.flags.nt then iretTask
  else do
    requireStack 0 (3 * sz.bytes)
    let off ← stackItem sz 0
    let sel ← stackItem sz 1
    let f ← stackItem sz 2
    let f32 : Dword := f.setWidth 32
    if c.os32 && f32.getLsbD 17 && c.cpl == 0 then iretV86 (off.setWidth 32) (sel.setWidth 16) f32
    else iretProtected sz (off.setWidth 32) (sel.setWidth 16) f32
  endNmiService
  pure .returned

/-! ## Completion (R34, R35, R48, R611, R670) -/

/-- EIP goes on to the next instruction. -/
def Ending.advances : Ending → Bool
  | .next => true
  | .nextKeepRf => true
  | .jumped => false
  | .returned => false
  | .interrupted => false
  | .again => false
  | .waiting => false
  | .stalled => false
  | .loadedSs => true
  | .enabled => true

/-- RF stays as it is (R673). -/
def Ending.keepsRf : Ending → Bool
  | .next => false
  | .nextKeepRf => true
  | .jumped => false
  | .returned => true
  | .interrupted => true
  | .again => true
  | .waiting => true
  | .stalled => true
  | .loadedSs => false
  | .enabled => false

/-- The single-step trap applies (R670). -/
def Ending.steps : Ending → Bool
  | .next => true
  | .nextKeepRf => true
  | .jumped => true
  | .returned => true
  | .interrupted => false
  | .again => true
  | .waiting => false
  | .stalled => false
  | .loadedSs => true
  | .enabled => true

/-- The inhibit the boundary finds; a second load of SS in a row does not set it again (R611). Between two elements of a repeated
string instruction, and while WAIT or ESC waits, the following instruction has not completed and the inhibit lasts (R320, R611,
R722; log 38). -/
def Ending.inhibits (e : Ending) (before : Inhibit) : Inhibit :=
  match e with
  | .loadedSs => if before = .ss then .none else .ss
  | .enabled => .sti
  | .next => .none
  | .nextKeepRf => .none
  | .jumped => .none
  | .returned => .none
  | .interrupted => .none
  | .again => before
  | .waiting => before
  | .stalled => before

/-- The next sequential offset needs a carry out of the address width of the code segment (R35, U29). In a 16-bit code segment an
EIP above FFFFH, which a 32-bit transfer can reach in Protected Mode (R440), counts as one: log 39. -/
def Cpu.wraps (c : Cpu) : Bool :=
  if c.code32 then 0x100000000 ≤ c.eip.toNat + c.cur.len else 0x10000 ≤ c.eip.toNat + c.cur.len

/-- The processor at the boundary after an instruction that began as `before` (R615). -/
def Cpu.settle (before : Cpu) (e : Ending) (c : Cpu) : Cpu :=
  { c with
    eip := if e.advances then before.next else c.eip
    flags := if e.keepsRf then c.flags else { c.flags with rf := false }
    trap := { c.cur.hits with bs := e.steps && before.flags.tf }
    inhibit := e.inhibits before.inhibit
    repActive := e == .again
    escWaiting := e == .stalled
    cur := Current.none }

/-- The state after an instruction that began in `before` and completed in `s`. -/
def State.settle (before : State) (e : Ending) (s : State) : State := { s with cpu := Cpu.settle before.cpu e s.cpu }

/-- The outcome of an instruction that completes. -/
def complete (before : State) (e : Ending) (s : State) : Host.Outcome State Fault Refusal :=
  if e.advances && before.cpu.wraps then .refused .instructionPointerWrap else .next (State.settle before e s)

/-- The outcome of an instruction that stops: an exception restores the registers and keeps memory and I/O (R603); shutdown
leaves the registers of its moment (R683; log 13). -/
def stopped (before : State) (stop : Stop) (s : State) : Host.Outcome State Fault Refusal :=
  match stop with
  | .exc e => takeException e { s with cpu := before.cpu }
  | .committed e => takeException e s
  | .refuse r => .refused r
  | .shutdown => .next (enterShutdown s)

/-- The outcome of a meaning. -/
def outcome (before : State) (m : M Ending) : Host.Outcome State Fault Refusal :=
  match m before with
  | .ok e s => complete before e s
  | .error stop s => stopped before stop s

end Sys2Proof.Machine
end

