-- ==== Sys2Proof/Machine/Checks.lean ====
section
/-! DEFINITION. The checks made while an instruction is decoded (30_encoding.md R241 to R245, 20_memory.md R142), and the shell
every meaning runs in. -/

namespace Sys2Proof.Machine

/-- The operand is memory. -/
def rmIsMem : RM → Bool
  | .reg _ => false
  | .mem _ => true

/-- The prefix bytes: an instruction goes on after them (R203, R526; log 8). -/
def isPrefix : Instr → Bool
  | .movRmReg _ _ _ => false
  | .movRegRm _ _ _ => false
  | .movRmImm _ _ _ => false
  | .movRegImm _ _ _ => false
  | .movAccMoffs _ _ => false
  | .movMoffsAcc _ _ => false
  | .movSregRm _ _ => false
  | .movRmSreg _ _ => false
  | .movsx _ _ _ => false
  | .movzx _ _ _ => false
  | .pushRm _ => false
  | .pushReg _ => false
  | .pushSreg _ => false
  | .pushFs => false
  | .pushGs => false
  | .pushImm _ _ => false
  | .pusha => false
  | .popRm _ => false
  | .popReg _ => false
  | .popEs => false
  | .popSs => false
  | .popDs => false
  | .popFs => false
  | .popGs => false
  | .popa => false
  | .xchgRmReg _ _ _ => false
  | .xchgRegAcc _ => false
  | .inImm _ _ => false
  | .inDx _ => false
  | .outImm _ _ => false
  | .outDx _ => false
  | .lea _ _ => false
  | .lds _ _ => false
  | .les _ _ => false
  | .lfs _ _ => false
  | .lgs _ _ => false
  | .lss _ _ => false
  | .clc => false
  | .cld => false
  | .cli => false
  | .clts => false
  | .cmc => false
  | .lahf => false
  | .popf => false
  | .pushf => false
  | .sahf => false
  | .sti => false
  | .stc => false
  | .std => false
  | .addRmReg _ _ _ _ => false
  | .addRmImm _ _ _ _ => false
  | .addAccImm _ _ => false
  | .adcRmReg _ _ _ _ => false
  | .adcRmImm _ _ _ _ => false
  | .adcAccImm _ _ => false
  | .subRmReg _ _ _ _ => false
  | .subRmImm _ _ _ _ => false
  | .subAccImm _ _ => false
  | .sbbRmReg _ _ _ _ => false
  | .sbbRmImm _ _ _ _ => false
  | .sbbAccImm _ _ => false
  | .cmpRmReg _ _ _ _ => false
  | .cmpRmImm _ _ _ _ => false
  | .cmpAccImm _ _ => false
  | .incRm _ _ => false
  | .incReg _ => false
  | .decRm _ _ => false
  | .decReg _ => false
  | .negRm _ _ => false
  | .aaa => false
  | .aas => false
  | .daa => false
  | .das => false
  | .mulAcc _ _ => false
  | .imulAcc _ _ => false
  | .imulRegRm _ _ => false
  | .imulRegRmImm _ _ _ _ => false
  | .divAcc _ _ => false
  | .idivAcc _ _ => false
  | .aad => false
  | .aam => false
  | .cbw => false
  | .cwd => false
  | .rolOne _ _ => false
  | .rolCl _ _ => false
  | .rolImm _ _ _ => false
  | .rorOne _ _ => false
  | .rorCl _ _ => false
  | .rorImm _ _ _ => false
  | .rclOne _ _ => false
  | .rclCl _ _ => false
  | .rclImm _ _ _ => false
  | .rcrOne _ _ => false
  | .rcrCl _ _ => false
  | .rcrImm _ _ _ => false
  | .shlOne _ _ => false
  | .shlCl _ _ => false
  | .shlImm _ _ _ => false
  | .shrOne _ _ => false
  | .shrCl _ _ => false
  | .shrImm _ _ _ => false
  | .sarOne _ _ => false
  | .sarCl _ _ => false
  | .sarImm _ _ _ => false
  | .shldImm _ _ _ => false
  | .shldCl _ _ => false
  | .shrdImm _ _ _ => false
  | .shrdCl _ _ => false
  | .andRmReg _ _ _ _ => false
  | .andRmImm _ _ _ => false
  | .andRmImm8 _ _ => false
  | .andAccImm _ _ => false
  | .orRmReg _ _ _ _ => false
  | .orRmImm _ _ _ => false
  | .orRmImm8 _ _ => false
  | .orAccImm _ _ => false
  | .xorRmReg _ _ _ _ => false
  | .xorRmImm _ _ _ => false
  | .xorRmImm8 _ _ => false
  | .xorAccImm _ _ => false
  | .testRmReg _ _ _ => false
  | .testRmImm _ _ _ => false
  | .testAccImm _ _ => false
  | .notRm _ _ => false
  | .cmps _ => false
  | .ins _ => false
  | .lods _ => false
  | .movs _ => false
  | .outs _ => false
  | .scas _ => false
  | .stos _ => false
  | .xlat => false
  | .repPrefix => true
  | .repnePrefix => true
  | .bsf _ _ => false
  | .bsr _ _ => false
  | .btImm _ _ => false
  | .btReg _ _ => false
  | .btcImm _ _ => false
  | .btcReg _ _ => false
  | .btrImm _ _ => false
  | .btrReg _ _ => false
  | .btsImm _ _ => false
  | .btsReg _ _ => false
  | .callRel _ => false
  | .callRm _ => false
  | .jmpShort _ => false
  | .jmpRel _ => false
  | .jmpRm _ => false
  | .retNear => false
  | .retNearImm _ => false
  | .jccShort _ _ => false
  | .jccNear _ _ => false
  | .jcxz _ => false
  | .loop _ => false
  | .loopz _ => false
  | .loopnz _ => false
  | .callFar _ _ => false
  | .callFarMem _ => false
  | .jmpFar _ _ => false
  | .jmpFarMem _ => false
  | .retFar => false
  | .retFarImm _ => false
  | .setcc _ _ => false
  | .enter _ _ => false
  | .leave => false
  | .int _ => false
  | .int3 => false
  | .into => false
  | .bound _ _ => false
  | .iret => false
  | .hlt => false
  | .movCrReg _ _ => false
  | .movRegCr _ _ => false
  | .movDrReg _ _ => false
  | .movRegDr _ _ => false
  | .movTrReg _ _ => false
  | .movRegTr _ _ => false
  | .nop => false
  | .wait => false
  | .esc _ _ _ => false
  | .addressSizePrefix => true
  | .lockPrefix => true
  | .operandSizePrefix => true
  | .csPrefix => true
  | .dsPrefix => true
  | .esPrefix => true
  | .fsPrefix => true
  | .gsPrefix => true
  | .ssPrefix => true
  | .arpl _ _ => false
  | .lar _ _ => false
  | .lgdt _ => false
  | .lidt _ => false
  | .lldt _ => false
  | .lmsw _ => false
  | .lsl _ _ => false
  | .ltr _ => false
  | .sgdt _ => false
  | .sidt _ => false
  | .sldt _ => false
  | .smsw _ => false
  | .str _ => false
  | .verr _ => false
  | .verw _ => false

/-- The forms of Table 3.2, which alone may carry LOCK (R142). -/
def lockable : Instr → Bool
  | .movRmReg _ _ _ => false
  | .movRegRm _ _ _ => false
  | .movRmImm _ _ _ => false
  | .movRegImm _ _ _ => false
  | .movAccMoffs _ _ => false
  | .movMoffsAcc _ _ => false
  | .movSregRm _ _ => false
  | .movRmSreg _ _ => false
  | .movsx _ _ _ => false
  | .movzx _ _ _ => false
  | .pushRm _ => false
  | .pushReg _ => false
  | .pushSreg _ => false
  | .pushFs => false
  | .pushGs => false
  | .pushImm _ _ => false
  | .pusha => false
  | .popRm _ => false
  | .popReg _ => false
  | .popEs => false
  | .popSs => false
  | .popDs => false
  | .popFs => false
  | .popGs => false
  | .popa => false
  | .xchgRmReg _ rm _ => rmIsMem rm
  | .xchgRegAcc _ => false
  | .inImm _ _ => false
  | .inDx _ => false
  | .outImm _ _ => false
  | .outDx _ => false
  | .lea _ _ => false
  | .lds _ _ => false
  | .les _ _ => false
  | .lfs _ _ => false
  | .lgs _ _ => false
  | .lss _ _ => false
  | .clc => false
  | .cld => false
  | .cli => false
  | .clts => false
  | .cmc => false
  | .lahf => false
  | .popf => false
  | .pushf => false
  | .sahf => false
  | .sti => false
  | .stc => false
  | .std => false
  | .addRmReg d _ rm _ => !d && rmIsMem rm
  | .addRmImm _ _ rm _ => rmIsMem rm
  | .addAccImm _ _ => false
  | .adcRmReg d _ rm _ => !d && rmIsMem rm
  | .adcRmImm _ _ rm _ => rmIsMem rm
  | .adcAccImm _ _ => false
  | .subRmReg d _ rm _ => !d && rmIsMem rm
  | .subRmImm _ _ rm _ => rmIsMem rm
  | .subAccImm _ _ => false
  | .sbbRmReg d _ rm _ => !d && rmIsMem rm
  | .sbbRmImm _ _ rm _ => rmIsMem rm
  | .sbbAccImm _ _ => false
  | .cmpRmReg _ _ _ _ => false
  | .cmpRmImm _ _ _ _ => false
  | .cmpAccImm _ _ => false
  | .incRm _ rm => rmIsMem rm
  | .incReg _ => false
  | .decRm _ rm => rmIsMem rm
  | .decReg _ => false
  | .negRm _ rm => rmIsMem rm
  | .aaa => false
  | .aas => false
  | .daa => false
  | .das => false
  | .mulAcc _ _ => false
  | .imulAcc _ _ => false
  | .imulRegRm _ _ => false
  | .imulRegRmImm _ _ _ _ => false
  | .divAcc _ _ => false
  | .idivAcc _ _ => false
  | .aad => false
  | .aam => false
  | .cbw => false
  | .cwd => false
  | .rolOne _ _ => false
  | .rolCl _ _ => false
  | .rolImm _ _ _ => false
  | .rorOne _ _ => false
  | .rorCl _ _ => false
  | .rorImm _ _ _ => false
  | .rclOne _ _ => false
  | .rclCl _ _ => false
  | .rclImm _ _ _ => false
  | .rcrOne _ _ => false
  | .rcrCl _ _ => false
  | .rcrImm _ _ _ => false
  | .shlOne _ _ => false
  | .shlCl _ _ => false
  | .shlImm _ _ _ => false
  | .shrOne _ _ => false
  | .shrCl _ _ => false
  | .shrImm _ _ _ => false
  | .sarOne _ _ => false
  | .sarCl _ _ => false
  | .sarImm _ _ _ => false
  | .shldImm _ _ _ => false
  | .shldCl _ _ => false
  | .shrdImm _ _ _ => false
  | .shrdCl _ _ => false
  | .andRmReg d _ rm _ => !d && rmIsMem rm
  | .andRmImm _ rm _ => rmIsMem rm
  | .andRmImm8 rm _ => rmIsMem rm
  | .andAccImm _ _ => false
  | .orRmReg d _ rm _ => !d && rmIsMem rm
  | .orRmImm _ rm _ => rmIsMem rm
  | .orRmImm8 rm _ => rmIsMem rm
  | .orAccImm _ _ => false
  | .xorRmReg d _ rm _ => !d && rmIsMem rm
  | .xorRmImm _ rm _ => rmIsMem rm
  | .xorRmImm8 rm _ => rmIsMem rm
  | .xorAccImm _ _ => false
  | .testRmReg _ _ _ => false
  | .testRmImm _ _ _ => false
  | .testAccImm _ _ => false
  | .notRm _ rm => rmIsMem rm
  | .cmps _ => false
  | .ins _ => false
  | .lods _ => false
  | .movs _ => false
  | .outs _ => false
  | .scas _ => false
  | .stos _ => false
  | .xlat => false
  | .repPrefix => false
  | .repnePrefix => false
  | .bsf _ _ => false
  | .bsr _ _ => false
  | .btImm _ _ => false
  | .btReg _ _ => false
  | .btcImm rm _ => rmIsMem rm
  | .btcReg rm _ => rmIsMem rm
  | .btrImm rm _ => rmIsMem rm
  | .btrReg rm _ => rmIsMem rm
  | .btsImm rm _ => rmIsMem rm
  | .btsReg rm _ => rmIsMem rm
  | .callRel _ => false
  | .callRm _ => false
  | .jmpShort _ => false
  | .jmpRel _ => false
  | .jmpRm _ => false
  | .retNear => false
  | .retNearImm _ => false
  | .jccShort _ _ => false
  | .jccNear _ _ => false
  | .jcxz _ => false
  | .loop _ => false
  | .loopz _ => false
  | .loopnz _ => false
  | .callFar _ _ => false
  | .callFarMem _ => false
  | .jmpFar _ _ => false
  | .jmpFarMem _ => false
  | .retFar => false
  | .retFarImm _ => false
  | .setcc _ _ => false
  | .enter _ _ => false
  | .leave => false
  | .int _ => false
  | .int3 => false
  | .into => false
  | .bound _ _ => false
  | .iret => false
  | .hlt => false
  | .movCrReg _ _ => false
  | .movRegCr _ _ => false
  | .movDrReg _ _ => false
  | .movRegDr _ _ => false
  | .movTrReg _ _ => false
  | .movRegTr _ _ => false
  | .nop => false
  | .wait => false
  | .esc _ _ _ => false
  | .addressSizePrefix => false
  | .lockPrefix => false
  | .operandSizePrefix => false
  | .csPrefix => false
  | .dsPrefix => false
  | .esPrefix => false
  | .fsPrefix => false
  | .gsPrefix => false
  | .ssPrefix => false
  | .arpl _ _ => false
  | .lar _ _ => false
  | .lgdt _ => false
  | .lidt _ => false
  | .lldt _ => false
  | .lmsw _ => false
  | .lsl _ _ => false
  | .ltr _ => false
  | .sgdt _ => false
  | .sidt _ => false
  | .sldt _ => false
  | .smsw _ => false
  | .str _ => false
  | .verr _ => false
  | .verw _ => false

/-- In which modes and at which level an instruction may run (R242, R243). -/
inductive ModeRule where
  | any
  | privileged
  | protectedOnly
  | protectedPrivileged
  deriving DecidableEq, Repr

/-- Exception 6 outside Protected Mode (R242). -/
def ModeRule.protectedOnly? : ModeRule → Bool
  | .any => false
  | .privileged => false
  | .protectedOnly => true
  | .protectedPrivileged => true

/-- Exception 13 when CPL is not 0 (R243). -/
def ModeRule.privileged? : ModeRule → Bool
  | .any => false
  | .privileged => true
  | .protectedOnly => false
  | .protectedPrivileged => true

/-- The mode rule of an instruction (Table 8-1 notes a and l; R242, R243). -/
def modeRule : Instr → ModeRule
  | .movRmReg _ _ _ => .any
  | .movRegRm _ _ _ => .any
  | .movRmImm _ _ _ => .any
  | .movRegImm _ _ _ => .any
  | .movAccMoffs _ _ => .any
  | .movMoffsAcc _ _ => .any
  | .movSregRm _ _ => .any
  | .movRmSreg _ _ => .any
  | .movsx _ _ _ => .any
  | .movzx _ _ _ => .any
  | .pushRm _ => .any
  | .pushReg _ => .any
  | .pushSreg _ => .any
  | .pushFs => .any
  | .pushGs => .any
  | .pushImm _ _ => .any
  | .pusha => .any
  | .popRm _ => .any
  | .popReg _ => .any
  | .popEs => .any
  | .popSs => .any
  | .popDs => .any
  | .popFs => .any
  | .popGs => .any
  | .popa => .any
  | .xchgRmReg _ _ _ => .any
  | .xchgRegAcc _ => .any
  | .inImm _ _ => .any
  | .inDx _ => .any
  | .outImm _ _ => .any
  | .outDx _ => .any
  | .lea _ _ => .any
  | .lds _ _ => .any
  | .les _ _ => .any
  | .lfs _ _ => .any
  | .lgs _ _ => .any
  | .lss _ _ => .any
  | .clc => .any
  | .cld => .any
  | .cli => .any
  | .clts => .privileged
  | .cmc => .any
  | .lahf => .any
  | .popf => .any
  | .pushf => .any
  | .sahf => .any
  | .sti => .any
  | .stc => .any
  | .std => .any
  | .addRmReg _ _ _ _ => .any
  | .addRmImm _ _ _ _ => .any
  | .addAccImm _ _ => .any
  | .adcRmReg _ _ _ _ => .any
  | .adcRmImm _ _ _ _ => .any
  | .adcAccImm _ _ => .any
  | .subRmReg _ _ _ _ => .any
  | .subRmImm _ _ _ _ => .any
  | .subAccImm _ _ => .any
  | .sbbRmReg _ _ _ _ => .any
  | .sbbRmImm _ _ _ _ => .any
  | .sbbAccImm _ _ => .any
  | .cmpRmReg _ _ _ _ => .any
  | .cmpRmImm _ _ _ _ => .any
  | .cmpAccImm _ _ => .any
  | .incRm _ _ => .any
  | .incReg _ => .any
  | .decRm _ _ => .any
  | .decReg _ => .any
  | .negRm _ _ => .any
  | .aaa => .any
  | .aas => .any
  | .daa => .any
  | .das => .any
  | .mulAcc _ _ => .any
  | .imulAcc _ _ => .any
  | .imulRegRm _ _ => .any
  | .imulRegRmImm _ _ _ _ => .any
  | .divAcc _ _ => .any
  | .idivAcc _ _ => .any
  | .aad => .any
  | .aam => .any
  | .cbw => .any
  | .cwd => .any
  | .rolOne _ _ => .any
  | .rolCl _ _ => .any
  | .rolImm _ _ _ => .any
  | .rorOne _ _ => .any
  | .rorCl _ _ => .any
  | .rorImm _ _ _ => .any
  | .rclOne _ _ => .any
  | .rclCl _ _ => .any
  | .rclImm _ _ _ => .any
  | .rcrOne _ _ => .any
  | .rcrCl _ _ => .any
  | .rcrImm _ _ _ => .any
  | .shlOne _ _ => .any
  | .shlCl _ _ => .any
  | .shlImm _ _ _ => .any
  | .shrOne _ _ => .any
  | .shrCl _ _ => .any
  | .shrImm _ _ _ => .any
  | .sarOne _ _ => .any
  | .sarCl _ _ => .any
  | .sarImm _ _ _ => .any
  | .shldImm _ _ _ => .any
  | .shldCl _ _ => .any
  | .shrdImm _ _ _ => .any
  | .shrdCl _ _ => .any
  | .andRmReg _ _ _ _ => .any
  | .andRmImm _ _ _ => .any
  | .andRmImm8 _ _ => .any
  | .andAccImm _ _ => .any
  | .orRmReg _ _ _ _ => .any
  | .orRmImm _ _ _ => .any
  | .orRmImm8 _ _ => .any
  | .orAccImm _ _ => .any
  | .xorRmReg _ _ _ _ => .any
  | .xorRmImm _ _ _ => .any
  | .xorRmImm8 _ _ => .any
  | .xorAccImm _ _ => .any
  | .testRmReg _ _ _ => .any
  | .testRmImm _ _ _ => .any
  | .testAccImm _ _ => .any
  | .notRm _ _ => .any
  | .cmps _ => .any
  | .ins _ => .any
  | .lods _ => .any
  | .movs _ => .any
  | .outs _ => .any
  | .scas _ => .any
  | .stos _ => .any
  | .xlat => .any
  | .repPrefix => .any
  | .repnePrefix => .any
  | .bsf _ _ => .any
  | .bsr _ _ => .any
  | .btImm _ _ => .any
  | .btReg _ _ => .any
  | .btcImm _ _ => .any
  | .btcReg _ _ => .any
  | .btrImm _ _ => .any
  | .btrReg _ _ => .any
  | .btsImm _ _ => .any
  | .btsReg _ _ => .any
  | .callRel _ => .any
  | .callRm _ => .any
  | .jmpShort _ => .any
  | .jmpRel _ => .any
  | .jmpRm _ => .any
  | .retNear => .any
  | .retNearImm _ => .any
  | .jccShort _ _ => .any
  | .jccNear _ _ => .any
  | .jcxz _ => .any
  | .loop _ => .any
  | .loopz _ => .any
  | .loopnz _ => .any
  | .callFar _ _ => .any
  | .callFarMem _ => .any
  | .jmpFar _ _ => .any
  | .jmpFarMem _ => .any
  | .retFar => .any
  | .retFarImm _ => .any
  | .setcc _ _ => .any
  | .enter _ _ => .any
  | .leave => .any
  | .int _ => .any
  | .int3 => .any
  | .into => .any
  | .bound _ _ => .any
  | .iret => .any
  | .hlt => .privileged
  | .movCrReg _ _ => .privileged
  | .movRegCr _ _ => .privileged
  | .movDrReg _ _ => .privileged
  | .movRegDr _ _ => .privileged
  | .movTrReg _ _ => .privileged
  | .movRegTr _ _ => .privileged
  | .nop => .any
  | .wait => .any
  | .esc _ _ _ => .any
  | .addressSizePrefix => .any
  | .lockPrefix => .any
  | .operandSizePrefix => .any
  | .csPrefix => .any
  | .dsPrefix => .any
  | .esPrefix => .any
  | .fsPrefix => .any
  | .gsPrefix => .any
  | .ssPrefix => .any
  | .arpl _ _ => .protectedOnly
  | .lar _ _ => .protectedOnly
  | .lgdt _ => .privileged
  | .lidt _ => .privileged
  | .lldt _ => .protectedPrivileged
  | .lmsw _ => .privileged
  | .lsl _ _ => .protectedOnly
  | .ltr _ => .protectedPrivileged
  | .sgdt _ => .any
  | .sidt _ => .any
  | .sldt _ => .protectedOnly
  | .smsw _ => .any
  | .str _ => .protectedOnly
  | .verr _ => .protectedOnly
  | .verw _ => .protectedOnly

/-- The decode checks that raise exception 6 (R245): LOCK before a form outside Table 3.2, a Protected Mode instruction in
another mode. -/
def decodeFault (i : Instr) (c : Cpu) : Bool :=
  (c.cur.pfx.lock && !lockable i) || ((modeRule i).protectedOnly? && !c.prot)

/-- The decode checks of Table 2.6 step 6 in the order of D16; the 15-byte limit lies between them, in the fetch (R245). -/
def decodeChecks (i : Instr) : M Unit := do
  let c ← getCpu
  require (!decodeFault i c) .ud
  require (!((modeRule i).privileged? && c.cpl != 0)) (.gp 0)

/-- Run a meaning: the decode checks, then its body, then completion or the exception it raises. -/
def run (i : Instr) (body : M Ending) (s : State) : Host.Outcome State Fault Refusal :=
  outcome s do
    decodeChecks i
    body

/-- A debug register that may not be named is refused before the privilege check (R516, D6). -/
def refuseReservedDebug (r : DReg) : M Unit :=
  if r = .dr4 || r = .dr5 then refuse .reservedDebugRegister else pure ()

/-- Run a MOV to or from a debug register: DR4 and DR5 are refused first (R516, D6). -/
def runDebug (i : Instr) (r : DReg) (body : M Ending) (s : State) : Host.Outcome State Fault Refusal :=
  outcome s do
    let c ← getCpu
    require (!decodeFault i c) .ud
    refuseReservedDebug r
    decodeChecks i
    body

end Sys2Proof.Machine
end

