-- ==== Sys2Proof/Machine/Arithmetic.lean ====
section
/-! DEFINITION. The arithmetic instructions (43_arithmetic.md R330 to R369). -/

namespace Sys2Proof.Machine

/-- The two-operand operations that write their result (R330). -/
inductive Alu where
  | add
  | adc
  | sub
  | sbb
  deriving DecidableEq, Repr

/-- The result of an operation (R331, R332, R334, R335). -/
def Alu.result {n : Nat} (op : Alu) (f : EFlags) (a b : BitVec n) : BitVec n :=
  match op with
  | .add => addResult a b false
  | .adc => addResult a b f.cf
  | .sub => subResult a b false
  | .sbb => subResult a b f.cf

/-- The flags after an operation (R331, R332, R334, R335). -/
def Alu.flags {n : Nat} (op : Alu) (f : EFlags) (a b : BitVec n) : EFlags :=
  match op with
  | .add => f.add a b false
  | .adc => f.add a b f.cf
  | .sub => f.sub a b false
  | .sbb => f.sub a b f.cf

/-- Register/memory with register: `d` says which is the destination (R330). -/
def aluRmReg (op : Alu) (d w : Bool) (rm : RM) (reg : Reg) : M Ending := do
  let sz ← opSize w
  let f ← getFlags
  if d then do
    let b ← readRM sz rm
    let a ← readReg sz reg
    writeReg sz reg (op.result f a b)
    modifyFlags fun f => op.flags f a b
  else do
    let a ← readDest sz rm
    let b ← readReg sz reg
    writeRM sz rm (op.result f a b)
    modifyFlags fun f => op.flags f a b
  pure .next

/-- Immediate to register/memory (R330). -/
def aluRmImm (op : Alu) (w : Bool) (rm : RM) (imm : Imm) : M Ending := do
  let sz ← opSize w
  let f ← getFlags
  let a ← readDest sz rm
  writeRM sz rm (op.result f a (immValue sz imm))
  modifyFlags fun f => op.flags f a (immValue sz imm)
  pure .next

/-- Immediate to accumulator (R330). -/
def aluAccImm (op : Alu) (w : Bool) (imm : Imm) : M Ending := do
  let sz ← opSize w
  let f ← getFlags
  let a ← readReg sz .eax
  writeReg sz .eax (op.result f a (immValue sz imm))
  modifyFlags fun f => op.flags f a (immValue sz imm)
  pure .next

/-- The flags of a - b alone (R337). -/
def compareFlags {n : Nat} (a b : BitVec n) : M Ending := do
  modifyFlags fun f => f.sub a b false
  pure .next

/-- The low digit of AL needs an adjustment (R339 to R342). -/
def asciiAdjusts (f : EFlags) (al : Byte) : Bool := (9 : Byte) < al &&& 0x0F || f.af

/-- The flags after AAA and AAS: OF, SF, ZF, PF are free (R339, R340). -/
def EFlags.afterAscii (f : EFlags) (adjust : Bool) (j : Dword) : EFlags :=
  { (((f.freeOf j).freeSf j).freeZf j).freePf j with af := adjust, cf := adjust }

/-- The register that holds the high half of a double-width value: AH, DX or EDX (R343). -/
def highReg : Sz → Reg
  | .b => regAh
  | .w => .edx
  | .d => .edx

/-- The flags after MUL and IMUL; SF, ZF, AF, PF are free (R343). -/
def afterMul (wide : Bool) : M Ending := do
  let j ← draw
  modifyFlags fun f => (f.setMul wide).freeSzap j
  pure .next

/-- The two- and three-operand forms of IMUL (R345, R346). -/
def signedProduct {sz : Sz} (dst : Reg) (a b : BitVec sz.bits) : M Ending := do
  let r : BitVec sz.bits := a * b
  writeReg sz dst r
  afterMul (r.toInt != a.toInt * b.toInt)

/-- ADD r/m, reg and ADD reg, r/m (R331). -/
def execAddRmReg (d w : Bool) (rm : RM) (reg : Reg) (st : State) : Host.Outcome State Fault Refusal :=
  run (.addRmReg d w rm reg) (s := st) do
    aluRmReg .add d w rm reg

/-- ADD r/m, immediate; a byte of `s` = 1 is sign-extended (R331). -/
def execAddRmImm (s w : Bool) (rm : RM) (imm : Imm) (st : State) : Host.Outcome State Fault Refusal :=
  run (.addRmImm s w rm imm) (s := st) do
    aluRmImm .add w rm imm

/-- ADD accumulator, immediate (R331). -/
def execAddAccImm (w : Bool) (imm : Imm) (st : State) : Host.Outcome State Fault Refusal :=
  run (.addAccImm w imm) (s := st) do
    aluAccImm .add w imm

/-- ADC r/m, reg and ADC reg, r/m (R332). -/
def execAdcRmReg (d w : Bool) (rm : RM) (reg : Reg) (st : State) : Host.Outcome State Fault Refusal :=
  run (.adcRmReg d w rm reg) (s := st) do
    aluRmReg .adc d w rm reg

/-- ADC r/m, immediate; a byte of `s` = 1 is sign-extended (R332). -/
def execAdcRmImm (s w : Bool) (rm : RM) (imm : Imm) (st : State) : Host.Outcome State Fault Refusal :=
  run (.adcRmImm s w rm imm) (s := st) do
    aluRmImm .adc w rm imm

/-- ADC accumulator, immediate (R332). -/
def execAdcAccImm (w : Bool) (imm : Imm) (st : State) : Host.Outcome State Fault Refusal :=
  run (.adcAccImm w imm) (s := st) do
    aluAccImm .adc w imm

/-- SUB r/m, reg and SUB reg, r/m (R334). -/
def execSubRmReg (d w : Bool) (rm : RM) (reg : Reg) (st : State) : Host.Outcome State Fault Refusal :=
  run (.subRmReg d w rm reg) (s := st) do
    aluRmReg .sub d w rm reg

/-- SUB r/m, immediate; a byte of `s` = 1 is sign-extended (R334). -/
def execSubRmImm (s w : Bool) (rm : RM) (imm : Imm) (st : State) : Host.Outcome State Fault Refusal :=
  run (.subRmImm s w rm imm) (s := st) do
    aluRmImm .sub w rm imm

/-- SUB accumulator, immediate (R334). -/
def execSubAccImm (w : Bool) (imm : Imm) (st : State) : Host.Outcome State Fault Refusal :=
  run (.subAccImm w imm) (s := st) do
    aluAccImm .sub w imm

/-- SBB r/m, reg and SBB reg, r/m (R335). -/
def execSbbRmReg (d w : Bool) (rm : RM) (reg : Reg) (st : State) : Host.Outcome State Fault Refusal :=
  run (.sbbRmReg d w rm reg) (s := st) do
    aluRmReg .sbb d w rm reg

/-- SBB r/m, immediate; a byte of `s` = 1 is sign-extended (R335). -/
def execSbbRmImm (s w : Bool) (rm : RM) (imm : Imm) (st : State) : Host.Outcome State Fault Refusal :=
  run (.sbbRmImm s w rm imm) (s := st) do
    aluRmImm .sbb w rm imm

/-- SBB accumulator, immediate (R335). -/
def execSbbAccImm (w : Bool) (imm : Imm) (st : State) : Host.Outcome State Fault Refusal :=
  run (.sbbAccImm w imm) (s := st) do
    aluAccImm .sbb w imm

/-- CMP r/m, reg and CMP reg, r/m: nothing is written (R337). -/
def execCmpRmReg (d w : Bool) (rm : RM) (reg : Reg) (st : State) : Host.Outcome State Fault Refusal :=
  run (.cmpRmReg d w rm reg) (s := st) do
    let sz ← opSize w
    let x ← readRM sz rm
    let y ← readReg sz reg
    compareFlags (if d then y else x) (if d then x else y)

/-- CMP r/m, immediate (R337). -/
def execCmpRmImm (s w : Bool) (rm : RM) (imm : Imm) (st : State) : Host.Outcome State Fault Refusal :=
  run (.cmpRmImm s w rm imm) (s := st) do
    let sz ← opSize w
    let a ← readRM sz rm
    compareFlags a (immValue sz imm)

/-- CMP accumulator, immediate (R337). -/
def execCmpAccImm (w : Bool) (imm : Imm) (st : State) : Host.Outcome State Fault Refusal :=
  run (.cmpAccImm w imm) (s := st) do
    let sz ← opSize w
    let a ← readReg sz .eax
    compareFlags a (immValue sz imm)

/-- INC r/m: CF keeps its value (R333). -/
def execIncRm (w : Bool) (rm : RM) (st : State) : Host.Outcome State Fault Refusal :=
  run (.incRm w rm) (s := st) do
    let sz ← opSize w
    let a ← readDest sz rm
    writeRM sz rm (addResult a 1 false)
    modifyFlags fun f => { f.add a 1 false with cf := f.cf }
    pure .next

/-- INC reg (R333). -/
def execIncReg (reg : Reg) (st : State) : Host.Outcome State Fault Refusal :=
  run (.incReg reg) (s := st) do
    let c ← getCpu
    let a ← readReg c.osz reg
    writeReg c.osz reg (addResult a 1 false)
    modifyFlags fun f => { f.add a 1 false with cf := f.cf }
    pure .next

/-- DEC r/m: CF keeps its value (R336). -/
def execDecRm (w : Bool) (rm : RM) (st : State) : Host.Outcome State Fault Refusal :=
  run (.decRm w rm) (s := st) do
    let sz ← opSize w
    let a ← readDest sz rm
    writeRM sz rm (subResult a 1 false)
    modifyFlags fun f => { f.sub a 1 false with cf := f.cf }
    pure .next

/-- DEC reg (R336). -/
def execDecReg (reg : Reg) (st : State) : Host.Outcome State Fault Refusal :=
  run (.decReg reg) (s := st) do
    let c ← getCpu
    let a ← readReg c.osz reg
    writeReg c.osz reg (subResult a 1 false)
    modifyFlags fun f => { f.sub a 1 false with cf := f.cf }
    pure .next

/-- NEG r/m (R338). -/
def execNegRm (w : Bool) (rm : RM) (st : State) : Host.Outcome State Fault Refusal :=
  run (.negRm w rm) (s := st) do
    let sz ← opSize w
    let a ← readDest sz rm
    writeRM sz rm (subResult 0 a false)
    modifyFlags fun f => f.sub 0 a false
    pure .next

/-- AAA (R339). -/
def execAaa (st : State) : Host.Outcome State Fault Refusal :=
  run .aaa (s := st) do
    let c ← getCpu
    let al := c.gpr.read .b .eax
    let ah := c.gpr.read .b regAh
    let adjust := asciiAdjusts c.flags al
    writeReg .b .eax ((if adjust then al + 6 else al) &&& 0x0F)
    writeAh (if adjust then ah + 1 else ah)
    let j ← draw
    modifyFlags fun f => f.afterAscii adjust j
    pure .next

/-- AAS (R340). -/
def execAas (st : State) : Host.Outcome State Fault Refusal :=
  run .aas (s := st) do
    let c ← getCpu
    let al := c.gpr.read .b .eax
    let ah := c.gpr.read .b regAh
    let adjust := asciiAdjusts c.flags al
    writeReg .b .eax ((if adjust then al - 6 else al) &&& 0x0F)
    writeAh (if adjust then ah - 1 else ah)
    let j ← draw
    modifyFlags fun f => f.afterAscii adjust j
    pure .next

/-- DAA (R341). -/
def execDaa (st : State) : Host.Outcome State Fault Refusal :=
  run .daa (s := st) do
    let c ← getCpu
    let al := c.gpr.read .b .eax
    let low := asciiAdjusts c.flags al
    let high := (0x99 : Byte) < al || c.flags.cf
    let r := al + (if low then 6 else 0) + (if high then 0x60 else 0)
    writeReg .b .eax r
    let j ← draw
    modifyFlags fun f => { (f.setSzp r).freeOf j with af := low, cf := high }
    pure .next

/-- DAS (R342). -/
def execDas (st : State) : Host.Outcome State Fault Refusal :=
  run .das (s := st) do
    let c ← getCpu
    let al := c.gpr.read .b .eax
    let low := asciiAdjusts c.flags al
    let high := (0x99 : Byte) < al || c.flags.cf
    let r := al - (if low then 6 else 0) - (if high then 0x60 else 0)
    writeReg .b .eax r
    let j ← draw
    modifyFlags fun f => { (f.setSzp r).freeOf j with af := low, cf := high || (low && al < (6 : Byte)) }
    pure .next

/-- MUL accumulator, r/m (R343). -/
def execMulAcc (w : Bool) (src : RM) (st : State) : Host.Outcome State Fault Refusal :=
  run (.mulAcc w src) (s := st) do
    let sz ← opSize w
    let a ← readReg sz .eax
    let b ← readRM sz src
    let p := a.toNat * b.toNat
    let hi : BitVec sz.bits := BitVec.ofNat _ (p / 2 ^ sz.bits)
    writeReg sz .eax (BitVec.ofNat _ p)
    writeReg sz (highReg sz) hi
    afterMul (hi != 0)

/-- IMUL accumulator, r/m (R344). -/
def execImulAcc (w : Bool) (src : RM) (st : State) : Host.Outcome State Fault Refusal :=
  run (.imulAcc w src) (s := st) do
    let sz ← opSize w
    let a ← readReg sz .eax
    let b ← readRM sz src
    let p := a.toInt * b.toInt
    let lo : BitVec sz.bits := BitVec.ofInt _ p
    writeReg sz .eax lo
    writeReg sz (highReg sz) (BitVec.ofInt _ (p / 2 ^ sz.bits))
    afterMul (lo.toInt != p)

/-- IMUL reg, r/m (R345). -/
def execImulRegRm (dst : Reg) (src : RM) (st : State) : Host.Outcome State Fault Refusal :=
  run (.imulRegRm dst src) (s := st) do
    let c ← getCpu
    let a ← readReg c.osz dst
    let b ← readRM c.osz src
    signedProduct dst a b

/-- IMUL reg, r/m, immediate (R346). -/
def execImulRegRmImm (s : Bool) (dst : Reg) (src : RM) (imm : Imm) (st : State) : Host.Outcome State Fault Refusal :=
  run (.imulRegRmImm s dst src imm) (s := st) do
    let c ← getCpu
    let a ← readRM c.osz src
    signedProduct dst a (immValue c.osz imm)

/-- DIV accumulator, r/m (R347). -/
def execDivAcc (w : Bool) (src : RM) (st : State) : Host.Outcome State Fault Refusal :=
  run (.divAcc w src) (s := st) do
    let sz ← opSize w
    let d ← readRM sz src
    let hi ← readReg sz (highReg sz)
    let lo ← readReg sz .eax
    let dividend := hi.toNat * 2 ^ sz.bits + lo.toNat
    require (d != 0) .de
    require (dividend / d.toNat < 2 ^ sz.bits) .de
    writeReg sz .eax (BitVec.ofNat _ (dividend / d.toNat))
    writeReg sz (highReg sz) (BitVec.ofNat _ (dividend % d.toNat))
    let j ← draw
    modifyFlags fun f => f.freeAll j
    pure .next

/-- IDIV accumulator, r/m: the quotient is truncated toward zero (R348). -/
def execIdivAcc (w : Bool) (src : RM) (st : State) : Host.Outcome State Fault Refusal :=
  run (.idivAcc w src) (s := st) do
    let sz ← opSize w
    let d ← readRM sz src
    let hi ← readReg sz (highReg sz)
    let lo ← readReg sz .eax
    let dividend : Int := hi.toInt * 2 ^ sz.bits + lo.toNat
    require (d != 0) .de
    let q := dividend.tdiv d.toInt
    require (-(2 ^ (sz.bits - 1)) ≤ q && q < 2 ^ (sz.bits - 1)) .de
    writeReg sz .eax (BitVec.ofInt _ q)
    writeReg sz (highReg sz) (BitVec.ofInt _ (dividend.tmod d.toInt))
    let j ← draw
    modifyFlags fun f => f.freeAll j
    pure .next

/-- AAD with the second byte 0AH (R366). -/
def execAad (st : State) : Host.Outcome State Fault Refusal :=
  run .aad (s := st) do
    let c ← getCpu
    let r := c.gpr.read .b .eax + c.gpr.read .b regAh * 10
    writeReg .b .eax r
    writeAh 0
    let j ← draw
    modifyFlags fun f => (((f.setSzp r).freeOf j).freeAf j).freeCf j
    pure .next

/-- AAM with the second byte 0AH (R367). -/
def execAam (st : State) : Host.Outcome State Fault Refusal :=
  run .aam (s := st) do
    let c ← getCpu
    let al := c.gpr.read .b .eax
    writeAh (al / 10)
    writeReg .b .eax (al % 10)
    let j ← draw
    modifyFlags fun f => (((f.setSzp (al % 10)).freeOf j).freeAf j).freeCf j
    pure .next

/-- CBW, CWDE (R368). -/
def execCbw (st : State) : Host.Outcome State Fault Refusal :=
  run .cbw (s := st) do
    let c ← getCpu
    match c.osz with
    | .d => writeReg .d .eax ((c.gpr.read .w .eax).signExtend 32)
    | .w => writeReg .w .eax ((c.gpr.read .b .eax).signExtend 16)
    | .b => writeReg .w .eax ((c.gpr.read .b .eax).signExtend 16)
    pure .next

/-- CWD, CDQ (R369). -/
def execCwd (st : State) : Host.Outcome State Fault Refusal :=
  run .cwd (s := st) do
    let c ← getCpu
    writeReg c.osz .edx (if (c.gpr.read c.osz .eax).msb then -1 else 0)
    pure .next

end Sys2Proof.Machine
end

