-- ==== Sys2Proof/Machine/BitOps.lean ====
section
/-! DEFINITION. The bit manipulation instructions (46_bit.md R430 to R437). -/

namespace Sys2Proof.Machine

/-- CF is the tested bit; OF, SF, ZF, AF, PF are free (R430). -/
def bitFlags (b : Bool) : M Ending := do
  let j ← draw
  modifyFlags fun f => { (f.freeSzap j).freeOf j with cf := b }
  pure .next

/-- The bit number and the displacement of the operand for a register offset (R430). -/
def selectBit (sz : Sz) (rm : RM) (o : BitVec sz.bits) : Nat × Dword :=
  (o.toNat % sz.bits,
    match rm with
    | .reg _ => 0
    | .mem _ => bitDisplacement sz o)

/-- BT of bit `k` (R433). -/
def testBit (sz : Sz) (rm : RM) (k : Nat) (disp : Dword) : M Ending := do
  let v ← readBitOperand sz rm disp
  bitFlags (BitVec.getLsbD v k)

/-- BTC, BTR, BTS of bit `k`; `f` makes the new bit from the old (R434 to R436). -/
def changeBit (f : Bool → Bool) (sz : Sz) (rm : RM) (k : Nat) (disp : Dword) : M Ending := do
  verifyBitOperand sz rm disp
  let v ← readBitOperand sz rm disp
  let mask : BitVec sz.bits := BitVec.twoPow _ k
  writeBitOperand sz rm disp (if f (BitVec.getLsbD v k) then v ||| mask else v &&& ~~~mask)
  bitFlags (BitVec.getLsbD v k)

/-- The number of the lowest 1 bit among the first `k` bits of a value, else `k` (R431). -/
def lowestBit {n : Nat} (v : BitVec n) : Nat → Nat → Nat
  | i, 0 => i
  | i, k + 1 => if v.getLsbD i then i else lowestBit v (i + 1) k

/-- The number of the highest 1 bit among the lowest `k` bits of a value, else 0 (R432). -/
def highestBit {n : Nat} (v : BitVec n) : Nat → Nat
  | 0 => 0
  | k + 1 => if v.getLsbD k then k else highestBit v k

/-- BSF and BSR: with a source of 0 the destination is free (R431, R432, U7). -/
def scanBits (index : (sz : Sz) → BitVec sz.bits → Nat) (dst : Reg) (src : RM) : M Ending := do
  let sz ← opSize true
  let v ← readRM sz src
  let j ← draw
  if v = 0 then do
    let r ← draw
    writeReg sz dst (r.setWidth sz.bits)
  else writeReg sz dst (BitVec.ofNat _ (index sz v))
  modifyFlags fun f => { f.freeAll j with zf := v == 0 }
  pure .next

/-- BSF (R431). -/
def execBsf (dst : Reg) (src : RM) (st : State) : Host.Outcome State Fault Refusal :=
  run (.bsf dst src) (s := st) do
    scanBits (fun sz v => lowestBit v 0 sz.bits) dst src

/-- BSR (R432). -/
def execBsr (dst : Reg) (src : RM) (st : State) : Host.Outcome State Fault Refusal :=
  run (.bsr dst src) (s := st) do
    scanBits (fun sz v => highestBit v sz.bits) dst src

/-- BT r/m, imm8 (R433). -/
def execBtImm (rm : RM) (off : Byte) (st : State) : Host.Outcome State Fault Refusal :=
  run (.btImm rm off) (s := st) do
    let sz ← opSize true
    testBit sz rm (off.toNat % sz.bits) 0

/-- BT r/m, reg (R433). -/
def execBtReg (rm : RM) (reg : Reg) (st : State) : Host.Outcome State Fault Refusal :=
  run (.btReg rm reg) (s := st) do
    let sz ← opSize true
    let o ← readReg sz reg
    let (k, disp) := selectBit sz rm o
    testBit sz rm k disp

/-- BTC r/m, imm8 (R434). -/
def execBtcImm (rm : RM) (off : Byte) (st : State) : Host.Outcome State Fault Refusal :=
  run (.btcImm rm off) (s := st) do
    let sz ← opSize true
    changeBit (fun b => !b) sz rm (off.toNat % sz.bits) 0

/-- BTC r/m, reg (R434). -/
def execBtcReg (rm : RM) (reg : Reg) (st : State) : Host.Outcome State Fault Refusal :=
  run (.btcReg rm reg) (s := st) do
    let sz ← opSize true
    let o ← readReg sz reg
    let (k, disp) := selectBit sz rm o
    changeBit (fun b => !b) sz rm k disp

/-- BTR r/m, imm8 (R435). -/
def execBtrImm (rm : RM) (off : Byte) (st : State) : Host.Outcome State Fault Refusal :=
  run (.btrImm rm off) (s := st) do
    let sz ← opSize true
    changeBit (fun _ => false) sz rm (off.toNat % sz.bits) 0

/-- BTR r/m, reg (R435). -/
def execBtrReg (rm : RM) (reg : Reg) (st : State) : Host.Outcome State Fault Refusal :=
  run (.btrReg rm reg) (s := st) do
    let sz ← opSize true
    let o ← readReg sz reg
    let (k, disp) := selectBit sz rm o
    changeBit (fun _ => false) sz rm k disp

/-- BTS r/m, imm8 (R436). -/
def execBtsImm (rm : RM) (off : Byte) (st : State) : Host.Outcome State Fault Refusal :=
  run (.btsImm rm off) (s := st) do
    let sz ← opSize true
    changeBit (fun _ => true) sz rm (off.toNat % sz.bits) 0

/-- BTS r/m, reg (R436). -/
def execBtsReg (rm : RM) (reg : Reg) (st : State) : Host.Outcome State Fault Refusal :=
  run (.btsReg rm reg) (s := st) do
    let sz ← opSize true
    let o ← readReg sz reg
    let (k, disp) := selectBit sz rm o
    changeBit (fun _ => true) sz rm k disp

end Sys2Proof.Machine
end

