-- ==== Sys2Proof/Machine/Fetch.lean ====
section
/-! DEFINITION. Fetching and decoding the next instruction (60_exceptions.md R615 steps 4 to 6, 30_encoding.md R202,
20_memory.md R145). -/

namespace Sys2Proof.Machine

/-- A byte that was stored to while it may have been queued: each older value may be the one fetched (R145, U10; log 9). -/
def chooseStale (now : Byte) : List Byte → M Byte
  | [] => pure now
  | old :: rest => do
    let stale ← drawBit
    if stale then pure old else chooseStale now rest

/-- The older values the queue may hold of a byte. -/
def State.staleBytes (s : State) (a : PAddr) : List Byte :=
  (s.prefetch.filter fun e => e.1 == a.toNat).map (·.2)

/-- The word of memory a byte of code lies in: the prefetcher reads code two bytes at a time (R7, R8). -/
def codeWord (a : PAddr) : PAddr := a &&& 0xFFFFFE

/-- The word of code at an even address is in the queue; one that is not there is read, and the 8 words read last stay
(R7, R8, R71; log 11). The byte used is `b` at `a`. -/
def State.wordQueued (s : State) (a : PAddr) (b : Byte) : State :=
  if s.queue.contains (codeWord a) then s
  else
    { s.traced (.memRead true ([codeWord a, codeWord a + 1].map fun x => (x, if x = a then b else s.mem.read x))) with
      queue := (codeWord a :: s.queue).take (Config.queueBytes / Config.fetchBytes) }

/-- Read the word of a byte of code into the queue. -/
def queueWord (a : PAddr) (b : Byte) : M Unit := fun s => .ok () (s.wordQueued a b)

/-- The byte at a physical address as the instruction fetch sees it. -/
def fetchPhysical (a : PAddr) : M Byte := do
  let s ← getState
  let b ← chooseStale (s.mem.read a) (s.staleBytes a)
  queueWord a b
  pure b

/-- The offset in CS of byte `k` after what has been read of the instruction; it is not wrapped (U29). -/
def Cpu.fetchOffset (c : Cpu) (k : Nat) : Nat := c.eip.toNat + c.cur.len + k

/-- The linear address of that byte. -/
def Cpu.fetchLinear (c : Cpu) (k : Nat) : Dword := c.segs.cs.base + BitVec.ofNat 32 (c.fetchOffset k)

/-- What the decoder answers for the bytes `bs` when the next byte is `b` and every later byte zero. The later bytes do not
matter to the length and the legality of the encoding once the byte after `bs` is known. -/
def decodeNext (c : Cpu) (bs : List Byte) (b : Nat) : DecodeResult :=
  decode c.ctx (bs ++ BitVec.ofNat 8 b :: List.replicate maxLength 0)

/-- The length a decoding shows: that of the instruction, or at least the bytes read and one more. -/
def lengthShown (n : Nat) : DecodeResult → Nat
  | .ok _ len => len
  | .more => n + 1
  | .undefinedOpcode => n + 1
  | .refused _ => n + 1

/-- The fewest bytes an instruction that begins with `bs` can have. -/
def fewestBytes (c : Cpu) (bs : List Byte) : Nat :=
  (List.range 256).foldl (fun n b => min n (lengthShown bs.length (decodeNext c bs b))) maxLength

/-- A page fault on a byte of the instruction gives way to exception 13 when the instruction, by the bytes `bs` read so far,
runs past the limit of CS: step 4 looks at the entire instruction before step 5 (R615; log 36). -/
def limitBeforePage {α : Type} (bs : List Byte) (m : M α) : M α := fun s =>
  match m s with
  | .error (.exc e) s' =>
    if s.cpu.fetchOffset (fewestBytes s.cpu bs - 1) ≤ s.cpu.segs.cs.limit.toNat then .error (.exc e) s'
    else .error (.exc (.gp 0)) s
  | r => r

/-- The physical address of a byte of code under a setting of CR0.PG. -/
def fetchAddress (pg : Bool) (la : Dword) (user : Bool) : M PAddr :=
  if pg then do
    let e ← tlbLookup la .read user
    pure (inFrame e.frame la)
  else pure (la.setWidth 24)

/-- The physical address the fetch takes a byte of code from. After a change of CR0.PG a byte may still be queued from where the old
setting had it, until the queue is emptied; a free choice says so (R71, R514, R726; log 52). A byte whose page the old setting
does not map was never queued. -/
def translateCode (la : Dword) : M PAddr := do
  let s ← getState
  let c := s.cpu
  let queued ← if s.queuedBeforeSwitch la then drawBit else pure false
  if queued then do
    let old ← attempt (fetchAddress (!c.cr0.pg) la c.user)
    match old with
    | .ok a => pure a
    | .error _ => fetchAddress c.cr0.pg la c.user
  else fetchAddress c.cr0.pg la c.user

/-- Fetch the byte after `bs`: exception 13 beyond the limit of CS, then exception 14 (R615 steps 4 and 5). -/
def fetchByte (bs : List Byte) : M Byte := do
  let c ← getCpu
  require (!c.prot || c.segs.cs.valid) (.gp 0)
  require (c.fetchOffset bs.length ≤ c.segs.cs.limit.toNat) (.gp 0)
  let a ← limitBeforePage bs (translateCode (c.fetchLinear bs.length))
  fetchPhysical a

/-- An encoding the decoder refuses: with LOCK it is no form of Table 3.2 and raises exception 6 (R142, U28), else it is
refused by name. -/
def refuseEncoding {α : Type} (r : DecodeRefusal) : M α := do
  let c ← getCpu
  require (!c.cur.pfx.lock) .ud
  match r with
  | .asciiBase => refuse .asciiBase
  | .specialMod => refuse .specialMod
  | .undocumented => refuse .undocumentedOpcode

/-- The encoding raises exception 6 by itself (R142, R240, R242). -/
def illegalEncoding (c : Cpu) : DecodeResult → Bool
  | .ok i _ => decodeFault i c
  | .more => false
  | .undefinedOpcode => true
  | .refused _ => c.cur.pfx.lock

/-- What an instruction that does not fit in 15 bytes raises: exception 6 when the bytes that fit show an illegal opcode or
LOCK misuse, whatever the next byte were, else exception 13 (R202, R245, D16). -/
def tooLong (bs : List Byte) : M (Instr × Nat) := do
  let c ← getCpu
  require (!(List.range 256).all fun b => illegalEncoding c (decodeNext c bs b)) .ud
  raiseExc (.gp 0)

/-- Fetch byte by byte until the bytes decode; at most the number of bytes given. -/
def fetchFrom (bs : List Byte) : Nat → M (Instr × Nat)
  | 0 => tooLong bs
  | n + 1 => do
    let c ← getCpu
    let b ← fetchByte bs
    match decode c.ctx (bs ++ [b]) with
    | .more => fetchFrom (bs ++ [b]) n
    | .ok i len => pure (i, len)
    | .undefinedOpcode => raiseExc .ud
    | .refused r => refuseEncoding r

/-- The next instruction or prefix; the decode register counts its bytes (R202). -/
def fetchInstr : M Instr := do
  let c ← getCpu
  let (i, len) ← fetchFrom [] (maxLength - c.cur.len)
  modifyCpu fun c => { c with cur := { c.cur with len := c.cur.len + len } }
  pure i

/-- The physical address the fetch reads byte `k` from, as far as the state shows. -/
def State.fetchPlace (s : State) (k : Nat) : PAddr :=
  match translate (s.cpu.fetchLinear k) 1 .verify false s with
  | .ok as _ => as.getD 0 0
  | .error _ _ => (s.cpu.fetchLinear k).setWidth 24

/-- Put bytes where the next instruction is fetched, from byte `k` on. -/
def State.placeCode (s : State) (k : Nat) : List Byte → State
  | [] => s
  | b :: rest => State.placeCode { s with mem := s.mem.write (s.fetchPlace k) b } (k + 1) rest

end Sys2Proof.Machine
end

