-- ==== Sys2Proof/Machine/Boundary.lean ====
section
/-! DEFINITION. The boundary between two instructions: RESET, shutdown, traps, NMI, INTR, halt and instruction breakpoints
(60_exceptions.md R607 to R617, R670 to R684; 70_reset_and_hazards.md R700 to R707). -/

namespace Sys2Proof.Machine

/-- RESET: the processor is reset, memory and the environment stay (R700, R702, R707). BUSY# active requests the self-test,
which passes (R704). -/
def resetStep (s : State) : State :=
  { s with
    cpu := { Cpu.reset (if s.env.busy then 0 else Config.resetEax) with nmiLevel := s.env.nmi }
    tlb := []
    queue := []
    prefetch := []
    pgSwitch := none }

/-- A rising edge of the NMI pin is remembered (R609). -/
def sampleNmi (s : State) : State :=
  { s with cpu := { s.cpu with
      nmiPending := s.cpu.nmiPending || (s.env.nmi && !s.cpu.nmiLevel), nmiLevel := s.env.nmi } }

/-- Some cause is pending. -/
def anyCause (d : DebugCauses) : Bool := d.b0 || d.b1 || d.b2 || d.b3 || d.bs || d.bt

/-- The DR6 bits of the causes (R67). -/
def causeBits (d : DebugCauses) : Dword :=
  0#16 ++ bit d.bt ++ bit d.bs ++ 0#10 ++ bit d.b3 ++ bit d.b2 ++ bit d.b1 ++ bit d.b0

/-- Exception 1 with its causes in DR6; `rf` is the RF of the saved image (R671, R673). -/
def deliverDebug (d : DebugCauses) (rf : Bool) (s : State) : Host.Outcome State Fault Refusal :=
  let c := s.cpu
  let s1 := { s with cpu := { c with trap := DebugCauses.none, dbg := { c.dbg with dr6 := c.dbg.dr6 ||| causeBits d } } }
  deliverAt { vector := 1, kind := .exception, code := none, rf := rf, ret := c.eip, start := c.eip,
              nmi := false } s1

/-- An NMI is recognised now (R609, R611). -/
def nmiReady (c : Cpu) : Bool := c.nmiPending && !c.nmiInService && c.inhibit != .ss

/-- A hardware interrupt with the next instruction as its return address (R607, R609). -/
def hardwareEvent (vector : Byte) (nmi : Bool) (c : Cpu) : Event :=
  { vector := vector, kind := .hardware, code := none, rf := c.repActive, ret := c.eip, start := c.eip,
    nmi := nmi }

/-- Deliver NMI (R609). -/
def deliverNmi (s : State) : Host.Outcome State Fault Refusal :=
  deliverAt (hardwareEvent 2 true s.cpu) { s with cpu := { s.cpu with nmiPending := false, nmiInService := true } }

/-- An INTR is recognised now (R607, R611). -/
def intrReady (s : State) : Bool := s.env.intr && s.cpu.flags.intf && s.cpu.inhibit == .none

/-- Acknowledge and deliver INTR (R607, R608). -/
def deliverIntr (s : State) : Host.Outcome State Fault Refusal :=
  match intAck s with
  | .ok v s' => deliverAt (hardwareEvent v false s'.cpu) s'
  | .error _ s' => .next s'

/-- NMI can end a Real Mode shutdown only with room in the vector table and on the stack (R684). -/
def canLeaveShutdown (c : Cpu) : Bool := c.cr0.pe || (0xF ≤ c.idtr.limit.toNat && 5 < c.sp.toNat)

/-- Instruction breakpoint `i` matches the next instruction (R672); only an enabled one does (R671; log 37). -/
def codeBreak (c : Cpu) (dr : Dword) (i : Nat) : Bool :=
  breakEnabled c.dbg.dr7 i && breakRw c.dbg.dr7 i == 0 && breakLen c.dbg.dr7 i == 0 &&
    dr == c.segs.cs.base + c.eip

/-- The instruction breakpoints that match the next instruction; none while RF is set (R672, R673) or a repeated string
instruction goes on. -/
def codeBreaks (c : Cpu) : DebugCauses :=
  if c.flags.rf || c.repActive then DebugCauses.none
  else { b0 := codeBreak c c.dbg.dr0 0, b1 := codeBreak c c.dbg.dr1 1, b2 := codeBreak c c.dbg.dr2 2,
         b3 := codeBreak c c.dbg.dr3 3, bs := false, bt := false }

/-- The checks at an instruction boundary in the order of Table 2.6 (R615 steps 1 to 3); `go` runs the next instruction. A
trap after a load of SS is dropped (R611; log 16). -/
def atBoundary (go : State → Host.Outcome State Fault Refusal) (s : State) : Host.Outcome State Fault Refusal :=
  let c := s.cpu
  if anyCause c.trap && c.inhibit != .ss then deliverDebug c.trap c.repActive s
  else
    let s := { s with cpu := { c with trap := DebugCauses.none } }
    if nmiReady s.cpu then deliverNmi s
    else if intrReady s then deliverIntr s
    else if s.cpu.run = .halted then .next s
    else if anyCause (codeBreaks s.cpu) then deliverDebug (codeBreaks s.cpu) false s
    else go s

/-- A step without RESET: shutdown, then an ESC that waits for BUSY#, then the boundary (R522, R612, R615, R684). An NMI does not
end a shutdown while NMI is in service (R609; log 44). -/
def stepRunning (go : State → Host.Outcome State Fault Refusal) (s : State) : Host.Outcome State Fault Refusal :=
  let s := sampleNmi s
  if s.cpu.run = .shutdown then
    if nmiReady s.cpu && canLeaveShutdown s.cpu then deliverNmi s else .next s
  else if s.cpu.escWaiting then (if s.env.busy then .next s else go s)
  else atBoundary go s

/-- The bus events between two states, the oldest first. -/
def eventsBetween (s t : State) : List BusEvent :=
  (t.env.trace.take (t.env.trace.length - s.env.trace.length)).reverse

/-- Memory after the writes among the events. -/
def Memory.replay (m : Memory) : List BusEvent → Memory
  | [] => m
  | .memWrite bytes :: rest => (m.writeAll (bytes.map (·.1)) (bytes.map (·.2))).replay rest
  | _ :: rest => m.replay rest

/-- The state `s` after the first `n` bus cycles of the step that leads from it to `t`, as RESET finds it: the memory those cycles
have written, the answers they have taken (R702; log 23). The registers do not matter. -/
def cutShort (n : Nat) (s t : State) : State :=
  let done := cutEvents n (eventsBetween s t)
  { s with
    mem := s.mem.replay done
    free := t.free
    env := { s.env with
      resetAfter := none
      trace := done.reverse ++ s.env.trace
      ioIn := s.env.ioIn.drop (done.countP BusEvent.isIoRead)
      intVectors := s.env.intVectors.drop (done.countP BusEvent.isIntAck)
      coRequests := if done.any BusEvent.isCoOpcode then [] else s.env.coRequests } }

/-- One step: RESET first, between two steps or in the middle of one, which abandons the instruction (R610, R702). -/
def stepWith (go : State → Host.Outcome State Fault Refusal) (s : State) : Host.Outcome State Fault Refusal :=
  if s.env.reset then .next (resetStep s)
  else
    match s.env.resetAfter with
    | none => stepRunning go s
    | some 0 => .next (resetStep { s with env := { s.env with resetAfter := none } })
    | some (n + 1) =>
      match stepRunning go s with
      | .next t =>
        let spent := countCycles (eventsBetween s t)
        if spent ≤ n + 1 then .next { t with env := { t.env with resetAfter := some (n + 1 - spent) } }
        else .next (resetStep (cutShort (n + 1) s t))
      | .fault f => .fault f
      | .refused r => .refused r

/-- Run the prefixes and the instruction at EIP with the meaning `ex` of each; `before` is the state at the boundary. The
number bounds the prefixes: 15 bytes hold no more (R202). -/
def runFrom (ex : Instr → State → Host.Outcome State Fault Refusal) (before : State) :
    Nat → State → Host.Outcome State Fault Refusal
  | 0, s => stopped before (.exc (.gp 0)) s
  | n + 1, s =>
    match fetchInstr s with
    | .ok i s' =>
      if isPrefix i then
        match ex i s' with
        | .next s'' => runFrom ex before n s''
        | .fault r => .fault r
        | .refused r => .refused r
      else ex i s'
    | .error stop s' => stopped before stop s'

/-- The next instruction with its prefixes. -/
def runNext (ex : Instr → State → Host.Outcome State Fault Refusal) (s : State) : Host.Outcome State Fault Refusal :=
  runFrom ex s (maxLength + 1) s

end Sys2Proof.Machine
end

