-- ==== Sys2Proof/Machine/ControlTransfer.lean ====
section
/-! DEFINITION. The control transfer instructions (47_control_transfer.md R440 to R462). -/

namespace Sys2Proof.Machine

/-- Count CX or ECX down, by the address size, and jump while it is not 0 and the condition holds (R451). -/
def loopWhile (cond : EFlags → Bool) (disp : Byte) : M Ending := do
  modifyCpu fun c => c.withIndex .ecx (c.index .ecx - 1)
  let c ← getCpu
  if c.index .ecx != 0 && cond c.flags then jumpRel (disp.signExtend 32) else pure .next

/-- CALL direct within segment (R442). -/
def execCallRel (disp : Imm) (st : State) : Host.Outcome State Fault Refusal :=
  run (.callRel disp) (s := st) do
    let c ← getCpu
    callTo (c.next + immDisp disp)

/-- CALL indirect within segment: the operand is read before the push (R443). -/
def execCallRm (target : RM) (st : State) : Host.Outcome State Fault Refusal :=
  run (.callRm target) (s := st) do
    let c ← getCpu
    let t ← readRM c.osz target
    callTo (t.setWidth 32)

/-- JMP short (R444). -/
def execJmpShort (disp : Byte) (st : State) : Host.Outcome State Fault Refusal :=
  run (.jmpShort disp) (s := st) do
    jumpRel (disp.signExtend 32)

/-- JMP direct within segment (R445). -/
def execJmpRel (disp : Imm) (st : State) : Host.Outcome State Fault Refusal :=
  run (.jmpRel disp) (s := st) do
    jumpRel (immDisp disp)

/-- JMP indirect within segment (R446). -/
def execJmpRm (target : RM) (st : State) : Host.Outcome State Fault Refusal :=
  run (.jmpRm target) (s := st) do
    let c ← getCpu
    let t ← readRM c.osz target
    jumpTo (t.setWidth 32)

/-- RET within segment (R447). -/
def execRetNear (st : State) : Host.Outcome State Fault Refusal :=
  run .retNear (s := st) do
    returnNear 0

/-- RET within segment adding immediate to SP (R448). -/
def execRetNearImm (bytes : Word) (st : State) : Host.Outcome State Fault Refusal :=
  run (.retNearImm bytes) (s := st) do
    returnNear (bytes.setWidth 32)

/-- Jcc, 8-bit displacement (R449). -/
def execJccShort (c : Cond) (disp : Byte) (st : State) : Host.Outcome State Fault Refusal :=
  run (.jccShort c disp) (s := st) do
    let f ← getFlags
    if f.holds c then jumpRel (disp.signExtend 32) else pure .next

/-- Jcc, full displacement (R449). -/
def execJccNear (c : Cond) (disp : Imm) (st : State) : Host.Outcome State Fault Refusal :=
  run (.jccNear c disp) (s := st) do
    let f ← getFlags
    if f.holds c then jumpRel (immDisp disp) else pure .next

/-- JCXZ, JECXZ (R450). -/
def execJcxz (disp : Byte) (st : State) : Host.Outcome State Fault Refusal :=
  run (.jcxz disp) (s := st) do
    let c ← getCpu
    if c.index .ecx = 0 then jumpRel (disp.signExtend 32) else pure .next

/-- LOOP (R451). -/
def execLoop (disp : Byte) (st : State) : Host.Outcome State Fault Refusal :=
  run (.loop disp) (s := st) do
    loopWhile (fun _ => true) disp

/-- LOOPZ, LOOPE (R451). -/
def execLoopz (disp : Byte) (st : State) : Host.Outcome State Fault Refusal :=
  run (.loopz disp) (s := st) do
    loopWhile (fun f => f.zf) disp

/-- LOOPNZ, LOOPNE (R451). -/
def execLoopnz (disp : Byte) (st : State) : Host.Outcome State Fault Refusal :=
  run (.loopnz disp) (s := st) do
    loopWhile (fun f => !f.zf) disp

/-- CALL direct intersegment (R452, R457). -/
def execCallFar (off : Imm) (sel : Word) (st : State) : Host.Outcome State Fault Refusal :=
  run (.callFar off sel) (s := st) do
    farCall (immOffset off) sel

/-- CALL indirect intersegment (R453). -/
def execCallFarMem (target : Mem) (st : State) : Host.Outcome State Fault Refusal :=
  run (.callFarMem target) (s := st) do
    let (off, sel) ← readFarPointer target
    farCall off sel

/-- JMP direct intersegment (R454, R457). -/
def execJmpFar (off : Imm) (sel : Word) (st : State) : Host.Outcome State Fault Refusal :=
  run (.jmpFar off sel) (s := st) do
    farJump (immOffset off) sel

/-- JMP indirect intersegment (R455). -/
def execJmpFarMem (target : Mem) (st : State) : Host.Outcome State Fault Refusal :=
  run (.jmpFarMem target) (s := st) do
    let (off, sel) ← readFarPointer target
    farJump off sel

/-- RET intersegment (R456, R460). -/
def execRetFar (st : State) : Host.Outcome State Fault Refusal :=
  run .retFar (s := st) do
    returnFar 0

/-- RET intersegment adding immediate to SP (R456, R460). -/
def execRetFarImm (bytes : Word) (st : State) : Host.Outcome State Fault Refusal :=
  run (.retFarImm bytes) (s := st) do
    returnFar (bytes.setWidth 32)

end Sys2Proof.Machine
end

