-- ==== Sys2Proof/Machine/DataTransfer.lean ====
section
/-! DEFINITION. The data transfer instructions (40_data_transfer.md R261 to R289). -/

namespace Sys2Proof.Machine

/-- Push each of the eight registers, ESP as it was before (R277). -/
def pushRegisters (sz : Sz) (g : Gpr) : M Unit := do
  push sz (g.read sz .eax)
  push sz (g.read sz .ecx)
  push sz (g.read sz .edx)
  push sz (g.read sz .ebx)
  push sz (g.read sz .esp)
  push sz (g.read sz .ebp)
  push sz (g.read sz .esi)
  push sz (g.read sz .edi)

/-- The stack pointers with which PUSHA shuts a Real Mode processor down (R270, R277; log 20). -/
def pushaShutsDown (c : Cpu) (sz : Sz) : Bool :=
  c.real && !c.segs.ss.big &&
    match sz with
    | .b => false
    | .w => c.sp == 1 || c.sp == 3 || c.sp == 5
    | .d => c.sp == 1 || c.sp == 2 || c.sp == 3

/-- Pop a register of the operand size. -/
def popInto (sz : Sz) (r : Reg) : M Unit := do
  let v ← pop sz
  writeReg sz r v

/-- PUSH of a segment register (R274, R275). -/
def pushSegment (r : SReg) : M Ending := do
  let c ← getCpu
  pushSelector c.osz (c.segs.get r).selector
  pure .next

/-- POP of a segment register: the load comes before the stack pointer moves (R280). -/
def popSegment (r : SReg) : M Ending := do
  let c ← getCpu
  let v ← stackItem c.osz 0
  loadSegment r (v.setWidth 16)
  modifyCpu fun c => c.withSp (c.spPlus (BitVec.ofNat 32 c.osz.bytes))
  pure (if r = .ss then .loadedSs else .next)

/-- IN (R285, R286). -/
def inPort (w : Bool) (port : Word) : M Ending := do
  let sz ← opSize w
  requireIo port sz.bytes
  let v ← ioRead port sz
  writeReg sz .eax v
  pure .next

/-- OUT (R287, R288). -/
def outPort (w : Bool) (port : Word) : M Ending := do
  let sz ← opSize w
  requireIo port sz.bytes
  let v ← readReg sz .eax
  ioWrite port sz v
  pure .next

/-- MOV r/m, reg (R261). -/
def execMovRmReg (w : Bool) (dst : RM) (src : Reg) (st : State) : Host.Outcome State Fault Refusal :=
  run (.movRmReg w dst src) (s := st) do
    let sz ← opSize w
    let v ← readReg sz src
    writeRM sz dst v
    pure .next

/-- MOV reg, r/m (R262). -/
def execMovRegRm (w : Bool) (dst : Reg) (src : RM) (st : State) : Host.Outcome State Fault Refusal :=
  run (.movRegRm w dst src) (s := st) do
    let sz ← opSize w
    let v ← readRM sz src
    writeReg sz dst v
    pure .next

/-- MOV r/m, immediate (R263). -/
def execMovRmImm (w : Bool) (dst : RM) (imm : Imm) (st : State) : Host.Outcome State Fault Refusal :=
  run (.movRmImm w dst imm) (s := st) do
    let sz ← opSize w
    writeRM sz dst (immValue sz imm)
    pure .next

/-- MOV reg, immediate (R264). -/
def execMovRegImm (w : Bool) (dst : Reg) (imm : Imm) (st : State) : Host.Outcome State Fault Refusal :=
  run (.movRegImm w dst imm) (s := st) do
    let sz ← opSize w
    writeReg sz dst (immValue sz imm)
    pure .next

/-- MOV accumulator, memory (R265). -/
def execMovAccMoffs (w : Bool) (off : Imm) (st : State) : Host.Outcome State Fault Refusal :=
  run (.movAccMoffs w off) (s := st) do
    let sz ← opSize w
    let c ← getCpu
    let v ← segRead c.stringSegment (immOffset off) sz
    writeReg sz .eax v
    pure .next

/-- MOV memory, accumulator (R266). -/
def execMovMoffsAcc (w : Bool) (off : Imm) (st : State) : Host.Outcome State Fault Refusal :=
  run (.movMoffsAcc w off) (s := st) do
    let sz ← opSize w
    let c ← getCpu
    let v ← readReg sz .eax
    segWrite c.stringSegment (immOffset off) sz v
    pure .next

/-- MOV sreg, r/m (R267); a load of SS inhibits interrupts (R611). -/
def execMovSregRm (dst : SReg) (src : RM) (st : State) : Host.Outcome State Fault Refusal :=
  run (.movSregRm dst src) (s := st) do
    let sel ← readRM .w src
    loadSegment dst sel
    pure (if dst = .ss then .loadedSs else .next)

/-- MOV r/m, sreg (R268). -/
def execMovRmSreg (dst : RM) (src : SReg) (st : State) : Host.Outcome State Fault Refusal :=
  run (.movRmSreg dst src) (s := st) do
    let c ← getCpu
    writeSelector dst (c.segs.get src).selector
    pure .next

/-- MOVSX reg, r/m (R269). -/
def execMovsx (w : Bool) (dst : Reg) (src : RM) (st : State) : Host.Outcome State Fault Refusal :=
  run (.movsx w dst src) (s := st) do
    let c ← getCpu
    let v ← readRM (if w then .w else .b) src
    writeReg c.osz dst (v.signExtend c.osz.bits)
    pure .next

/-- MOVZX reg, r/m (R271). -/
def execMovzx (w : Bool) (dst : Reg) (src : RM) (st : State) : Host.Outcome State Fault Refusal :=
  run (.movzx w dst src) (s := st) do
    let c ← getCpu
    let v ← readRM (if w then .w else .b) src
    writeReg c.osz dst (v.setWidth c.osz.bits)
    pure .next

/-- PUSH r/m (R272). -/
def execPushRm (src : RM) (st : State) : Host.Outcome State Fault Refusal :=
  run (.pushRm src) (s := st) do
    let c ← getCpu
    let v ← readRM c.osz src
    push c.osz v
    pure .next

/-- PUSH reg (R273). -/
def execPushReg (src : Reg) (st : State) : Host.Outcome State Fault Refusal :=
  run (.pushReg src) (s := st) do
    let c ← getCpu
    push c.osz (c.gpr.read c.osz src)
    pure .next

/-- PUSH ES, CS, SS, DS (R274). -/
def execPushSreg (src : SReg2) (st : State) : Host.Outcome State Fault Refusal :=
  run (.pushSreg src) (s := st) do
    pushSegment (sregOf src)

/-- PUSH FS (R275). -/
def execPushFs (st : State) : Host.Outcome State Fault Refusal :=
  run .pushFs (s := st) do
    pushSegment .fs

/-- PUSH GS (R275). -/
def execPushGs (st : State) : Host.Outcome State Fault Refusal :=
  run .pushGs (s := st) do
    pushSegment .gs

/-- PUSH immediate; a byte is sign-extended (R276). -/
def execPushImm (s : Bool) (imm : Imm) (st : State) : Host.Outcome State Fault Refusal :=
  run (.pushImm s imm) (s := st) do
    let c ← getCpu
    push c.osz (immValue c.osz imm)
    pure .next

/-- PUSHA, PUSHAD (R277). Where it shuts down, it has pushed nothing: log 20. -/
def execPusha (st : State) : Host.Outcome State Fault Refusal :=
  run .pusha (s := st) do
    let c ← getCpu
    if pushaShutsDown c c.osz then shutdown
    else do
      requireRoom 8 c.osz
      pushRegisters c.osz c.gpr
      pure .next

/-- POP r/m; an address that uses ESP is computed after the increment (R278). -/
def execPopRm (dst : RM) (st : State) : Host.Outcome State Fault Refusal :=
  run (.popRm dst) (s := st) do
    let c ← getCpu
    let v ← pop c.osz
    writeRM c.osz dst v
    pure .next

/-- POP reg (R279). -/
def execPopReg (dst : Reg) (st : State) : Host.Outcome State Fault Refusal :=
  run (.popReg dst) (s := st) do
    let c ← getCpu
    popInto c.osz dst
    pure .next

/-- POP ES (R280). -/
def execPopEs (st : State) : Host.Outcome State Fault Refusal :=
  run .popEs (s := st) do
    popSegment .es

/-- POP SS (R280). -/
def execPopSs (st : State) : Host.Outcome State Fault Refusal :=
  run .popSs (s := st) do
    popSegment .ss

/-- POP DS (R280). -/
def execPopDs (st : State) : Host.Outcome State Fault Refusal :=
  run .popDs (s := st) do
    popSegment .ds

/-- POP FS (R281). -/
def execPopFs (st : State) : Host.Outcome State Fault Refusal :=
  run .popFs (s := st) do
    popSegment .fs

/-- POP GS (R281). -/
def execPopGs (st : State) : Host.Outcome State Fault Refusal :=
  run .popGs (s := st) do
    popSegment .gs

/-- POPA, POPAD; the stack pointer image is skipped (R282). -/
def execPopa (st : State) : Host.Outcome State Fault Refusal :=
  run .popa (s := st) do
    let c ← getCpu
    let sz := c.osz
    popInto sz .edi
    popInto sz .esi
    popInto sz .ebp
    let _ ← pop sz
    popInto sz .ebx
    popInto sz .edx
    popInto sz .ecx
    popInto sz .eax
    pure .next

/-- XCHG r/m, reg (R283). -/
def execXchgRmReg (w : Bool) (rm : RM) (reg : Reg) (st : State) : Host.Outcome State Fault Refusal :=
  run (.xchgRmReg w rm reg) (s := st) do
    let sz ← opSize w
    let t ← readDest sz rm
    let v ← readReg sz reg
    writeRM sz rm v
    writeReg sz reg t
    pure .next

/-- XCHG reg, accumulator (R284). -/
def execXchgRegAcc (reg : Reg) (st : State) : Host.Outcome State Fault Refusal :=
  run (.xchgRegAcc reg) (s := st) do
    let c ← getCpu
    writeReg c.osz .eax (c.gpr.read c.osz reg)
    writeReg c.osz reg (c.gpr.read c.osz .eax)
    pure .next

/-- IN accumulator, fixed port (R285). -/
def execInImm (w : Bool) (port : Byte) (st : State) : Host.Outcome State Fault Refusal :=
  run (.inImm w port) (s := st) do
    inPort w (port.setWidth 16)

/-- IN accumulator, DX (R286). -/
def execInDx (w : Bool) (st : State) : Host.Outcome State Fault Refusal :=
  run (.inDx w) (s := st) do
    let c ← getCpu
    inPort w (c.gpr.edx.setWidth 16)

/-- OUT fixed port, accumulator (R287). -/
def execOutImm (w : Bool) (port : Byte) (st : State) : Host.Outcome State Fault Refusal :=
  run (.outImm w port) (s := st) do
    outPort w (port.setWidth 16)

/-- OUT DX, accumulator (R288). -/
def execOutDx (w : Bool) (st : State) : Host.Outcome State Fault Refusal :=
  run (.outDx w) (s := st) do
    let c ← getCpu
    outPort w (c.gpr.edx.setWidth 16)

/-- LEA reg, m (R289). -/
def execLea (dst : Reg) (src : Mem) (st : State) : Host.Outcome State Fault Refusal :=
  run (.lea dst src) (s := st) do
    let c ← getCpu
    writeReg c.osz dst ((memOffset c.gpr src).setWidth c.osz.bits)
    pure .next

end Sys2Proof.Machine
end

