-- ==== Sys2Proof/Machine/FlagControl.lean ====
section
/-! DEFINITION. The flag control instructions (42_flag_control.md R311 to R322). -/

namespace Sys2Proof.Machine

/-- CLI and STI need CPL <= IOPL, and IOPL = 3 in Virtual 8086 Mode (R244, R313). -/
def requireIopl : M Unit := do
  let c ← getCpu
  require (!(c.prot && c.flags.iopl < c.cpl)) (.gp 0)
  require (!(c.v86 && c.flags.iopl != 3)) (.gp 0)

/-- INT n, PUSHF, POPF and IRET need IOPL = 3 in Virtual 8086 Mode (R244). -/
def requireV86Iopl : M Unit := do
  let c ← getCpu
  require (!(c.v86 && c.flags.iopl != 3)) (.gp 0)

/-- Change the flags and go on. -/
def flagOp (f : EFlags → EFlags) : M Ending := do
  modifyFlags f
  pure .next

/-- CLC (R311). -/
def execClc (st : State) : Host.Outcome State Fault Refusal :=
  run .clc (s := st) do
    flagOp fun f => { f with cf := false }

/-- CLD (R312). -/
def execCld (st : State) : Host.Outcome State Fault Refusal :=
  run .cld (s := st) do
    flagOp fun f => { f with df := false }

/-- CLI (R313). -/
def execCli (st : State) : Host.Outcome State Fault Refusal :=
  run .cli (s := st) do
    requireIopl
    flagOp fun f => { f with intf := false }

/-- CLTS (R314). -/
def execClts (st : State) : Host.Outcome State Fault Refusal :=
  run .clts (s := st) do
    modifyCpu fun c => { c with cr0 := { c.cr0 with ts := false } }
    pure .next

/-- CMC (R315). -/
def execCmc (st : State) : Host.Outcome State Fault Refusal :=
  run .cmc (s := st) do
    flagOp fun f => { f with cf := !f.cf }

/-- LAHF (R316). -/
def execLahf (st : State) : Host.Outcome State Fault Refusal :=
  run .lahf (s := st) do
    let f ← getFlags
    writeAh (f.image16.setWidth 8)
    pure .next

/-- POPF, POPFD (R317). -/
def execPopf (st : State) : Host.Outcome State Fault Refusal :=
  run .popf (s := st) do
    requireV86Iopl
    let c ← getCpu
    let v ← pop c.osz
    modifyFlags fun f =>
      f.loadImage (v.setWidth 16) (c.real || c.cpl == 0) (c.real || c.cpl ≤ c.flags.iopl)
    pure .nextKeepRf

/-- PUSHF, PUSHFD: VM and RF are pushed as 0 (R318). -/
def execPushf (st : State) : Host.Outcome State Fault Refusal :=
  run .pushf (s := st) do
    requireV86Iopl
    let c ← getCpu
    push c.osz ({ c.flags with vm := false, rf := false }.image c.osz)
    pure .next

/-- SAHF (R319). -/
def execSahf (st : State) : Host.Outcome State Fault Refusal :=
  run .sahf (s := st) do
    let c ← getCpu
    flagOp fun f => f.loadStatus8 (c.gpr.read .b regAh)

/-- STI: inhibits INTR for one instruction when it changes IF (R320, D18). -/
def execSti (st : State) : Host.Outcome State Fault Refusal :=
  run .sti (s := st) do
    requireIopl
    let f ← getFlags
    modifyFlags fun f => { f with intf := true }
    pure (if f.intf then .next else .enabled)

/-- STC (R321). -/
def execStc (st : State) : Host.Outcome State Fault Refusal :=
  run .stc (s := st) do
    flagOp fun f => { f with cf := true }

/-- STD (R322). -/
def execStd (st : State) : Host.Outcome State Fault Refusal :=
  run .std (s := st) do
    flagOp fun f => { f with df := true }

end Sys2Proof.Machine
end

