-- ==== Sys2Proof/Machine/Interrupts.lean ====
section
/-! DEFINITION. The interrupt instructions (49_interrupt_instr.md R490 to R498). -/

namespace Sys2Proof.Machine

/-- INT n: IOPL-sensitive in Virtual 8086 Mode (R491). -/
def execInt (vector : Byte) (st : State) : Host.Outcome State Fault Refusal :=
  run (.int vector) (s := st) do
    requireV86Iopl
    softwareInterrupt vector

/-- INT 3 (R492). -/
def execInt3 (st : State) : Host.Outcome State Fault Refusal :=
  run .int3 (s := st) do
    softwareInterrupt 3

/-- INTO (R493). -/
def execInto (st : State) : Host.Outcome State Fault Refusal :=
  run .into (s := st) do
    let f ← getFlags
    if f.ovf then softwareInterrupt 4 else pure .next

/-- BOUND reg, m (R494). -/
def execBound (index : Reg) (bounds : Mem) (st : State) : Host.Outcome State Fault Refusal :=
  run (.bound index bounds) (s := st) do
    let c ← getCpu
    let lower ← readMem c.osz bounds 0
    let upper ← readMem c.osz bounds (BitVec.ofNat 32 c.osz.bytes)
    let i := c.gpr.read c.osz index
    require (!(i.slt lower || upper.slt i)) .br
    pure .next

/-- IRET, IRETD (R495 to R497). -/
def execIret (st : State) : Host.Outcome State Fault Refusal :=
  run .iret (s := st) do
    interruptReturn

end Sys2Proof.Machine
end

