-- ==== Sys2Proof/Machine/Logic.lean ====
section
/-! DEFINITION. The logic instructions: shifts, rotates, AND, TEST, OR, XOR, NOT (44_logic.md R380 to R395). -/

namespace Sys2Proof.Machine

/-- The operations of a shift or rotate (R219). -/
inductive Shift where
  | rol
  | ror
  | rcl
  | rcr
  | shl
  | shr
  | sar
  deriving DecidableEq, Repr

/-- `CF :: dest` as one value (R383). -/
def withCarry {n : Nat} (cf : Bool) (x : BitVec n) : BitVec (n + 1) := BitVec.cons cf x

/-- The result for a masked count (R381 to R387). -/
def Shift.result {n : Nat} (op : Shift) (cf : Bool) (x : BitVec n) (c : Nat) : BitVec n :=
  match op with
  | .rol => x.rotateLeft (c % n)
  | .ror => x.rotateRight (c % n)
  | .rcl => ((withCarry cf x).rotateLeft (c % (n + 1))).setWidth n
  | .rcr => ((withCarry cf x).rotateRight (c % (n + 1))).setWidth n
  | .shl => x <<< c
  | .shr => x >>> c
  | .sar => x.sshiftRight c

/-- CF for a masked count that is not 0; `j` is what an undefined CF takes (R381 to R387). -/
def Shift.carry {n : Nat} (op : Shift) (cf : Bool) (x : BitVec n) (c : Nat) (j : Bool) : Bool :=
  match op with
  | .rol => (x.rotateLeft (c % n)).getLsbD 0
  | .ror => (x.rotateRight (c % n)).msb
  | .rcl => ((withCarry cf x).rotateLeft (c % (n + 1))).msb
  | .rcr => ((withCarry cf x).rotateRight (c % (n + 1))).msb
  | .shl => if c ≤ n then x.getLsbD (n - c) else j
  | .shr => if c ≤ n then x.getLsbD (c - 1) else j
  | .sar => if c ≤ n then x.getLsbD (c - 1) else x.msb

/-- OF for a count of 1 with operand `x`, result `r` and new carry `cf` (R381 to R387). -/
def Shift.overflow {n : Nat} (op : Shift) (x r : BitVec n) (cf : Bool) : Bool :=
  match op with
  | .rol => r.msb ^^ cf
  | .ror => r.msb ^^ r.getLsbD (n - 2)
  | .rcl => r.msb ^^ cf
  | .rcr => r.msb ^^ r.getLsbD (n - 2)
  | .shl => r.msb ^^ cf
  | .shr => x.msb
  | .sar => false

/-- The shifts set SF, ZF and PF and leave AF undefined; the rotates leave the four alone (R380). -/
def Shift.isRotate : Shift → Bool
  | .rol => true
  | .ror => true
  | .rcl => true
  | .rcr => true
  | .shl => false
  | .shr => false
  | .sar => false

/-- RCL and RCR by a multiple of N + 1 change nothing (R383, R384). -/
def Shift.idle (op : Shift) (n c : Nat) : Bool :=
  match op with
  | .rcl => c % (n + 1) == 0
  | .rcr => c % (n + 1) == 0
  | .rol => false
  | .ror => false
  | .shl => false
  | .shr => false
  | .sar => false

/-- The flags after a shift or rotate by a masked count that is not 0 (R380 to R387). -/
def Shift.flags {n : Nat} (op : Shift) (f : EFlags) (x : BitVec n) (c : Nat) (j : Dword) : EFlags :=
  let r := op.result f.cf x c
  let cf := op.carry f.cf x c (j.getLsbD 0)
  let g := if op.isRotate then f else (f.setSzp r).freeAf j
  if op.idle n c then f
  else { g with cf := cf, ovf := if c = 1 then op.overflow x r cf else j.getLsbD 11 }

/-- Only the low five bits of a count are used (R380). -/
def maskCount (count : Byte) : Nat := (count &&& 0x1F).toNat

/-- A shift or rotate; a masked count of 0 changes nothing (R380). A memory operand is checked for writability before the count is
looked at, so also for a count of 0: log 54. -/
def shiftRm (op : Shift) (w : Bool) (rm : RM) (count : Byte) : M Ending := do
  let sz ← opSize w
  let x ← readDest sz rm
  let f ← getFlags
  let c := maskCount count
  if c = 0 then pure .next
  else do
    writeRM sz rm (op.result f.cf x c)
    let j ← draw
    modifyFlags fun f => op.flags f x c j
    pure .next

/-- The result of SHLD (`left`) or SHRD for a masked count up to N (R388, R389). -/
def doubleResult {n : Nat} (left : Bool) (x y : BitVec n) (c : Nat) : BitVec n :=
  if left then x <<< c ||| y >>> (n - c) else x >>> c ||| y <<< (n - c)

/-- The flags of SHLD or SHRD for a masked count from 1 to N (R388, R389). -/
def doubleFlags {n : Nat} (left : Bool) (f : EFlags) (x r : BitVec n) (c : Nat) (j : Dword) : EFlags :=
  { (f.setSzp r).freeAf j with
    cf := x.getLsbD (if left then n - c else c - 1)
    ovf := if c = 1 then r.msb ^^ x.msb else j.getLsbD 11 }

/-- SHLD and SHRD; a masked count above N leaves a free result and free flags (R388, R389, U16). A memory operand is checked for
writability for every count, 0 too: log 54. -/
def doubleShift (left : Bool) (rm : RM) (reg : Reg) (count : Byte) : M Ending := do
  let sz ← opSize true
  let x ← readDest sz rm
  let y ← readReg sz reg
  let c := maskCount count
  if c = 0 then pure .next
  else do
    let j ← draw
    if c ≤ sz.bits then do
      let r := doubleResult left x y c
      writeRM sz rm r
      modifyFlags fun f => doubleFlags left f x r c j
      pure .next
    else do
      let v ← draw
      writeRM sz rm (v.setWidth sz.bits)
      modifyFlags fun f => f.freeAll j
      pure .next

/-- The boolean operations that write their result (R390). -/
inductive Logic where
  | and
  | or
  | xor
  deriving DecidableEq, Repr

/-- The result of a boolean operation (R391, R393, R394). -/
def Logic.result {n : Nat} (op : Logic) (a b : BitVec n) : BitVec n :=
  match op with
  | .and => a &&& b
  | .or => a ||| b
  | .xor => a ^^^ b

/-- The flags of AND, OR, XOR and TEST: AF is free (R390). -/
def logicFlags {n : Nat} (r : BitVec n) : M Ending := do
  let j ← draw
  modifyFlags fun f => f.logic r j
  pure .next

/-- Register/memory with register (R390). -/
def logicRmReg (op : Logic) (d w : Bool) (rm : RM) (reg : Reg) : M Ending := do
  let sz ← opSize w
  if d then do
    let b ← readRM sz rm
    let a ← readReg sz reg
    writeReg sz reg (op.result a b)
    logicFlags (op.result a b)
  else do
    let a ← readDest sz rm
    let b ← readReg sz reg
    writeRM sz rm (op.result a b)
    logicFlags (op.result a b)

/-- Immediate to register/memory (R390). -/
def logicRmImm (op : Logic) (w : Bool) (rm : RM) (imm : Imm) : M Ending := do
  let sz ← opSize w
  let a ← readDest sz rm
  writeRM sz rm (op.result a (immValue sz imm))
  logicFlags (op.result a (immValue sz imm))

/-- ROL r/m, 1 (R381). -/
def execRolOne (w : Bool) (rm : RM) (st : State) : Host.Outcome State Fault Refusal :=
  run (.rolOne w rm) (s := st) do
    shiftRm .rol w rm 1

/-- ROL r/m, CL (R381). -/
def execRolCl (w : Bool) (rm : RM) (st : State) : Host.Outcome State Fault Refusal :=
  run (.rolCl w rm) (s := st) do
    let c ← getCpu
    shiftRm .rol w rm (c.gpr.read .b .ecx)

/-- ROL r/m, immediate count (R381). -/
def execRolImm (w : Bool) (rm : RM) (count : Byte) (st : State) : Host.Outcome State Fault Refusal :=
  run (.rolImm w rm count) (s := st) do
    shiftRm .rol w rm count

/-- ROR r/m, 1 (R382). -/
def execRorOne (w : Bool) (rm : RM) (st : State) : Host.Outcome State Fault Refusal :=
  run (.rorOne w rm) (s := st) do
    shiftRm .ror w rm 1

/-- ROR r/m, CL (R382). -/
def execRorCl (w : Bool) (rm : RM) (st : State) : Host.Outcome State Fault Refusal :=
  run (.rorCl w rm) (s := st) do
    let c ← getCpu
    shiftRm .ror w rm (c.gpr.read .b .ecx)

/-- ROR r/m, immediate count (R382). -/
def execRorImm (w : Bool) (rm : RM) (count : Byte) (st : State) : Host.Outcome State Fault Refusal :=
  run (.rorImm w rm count) (s := st) do
    shiftRm .ror w rm count

/-- RCL r/m, 1 (R383). -/
def execRclOne (w : Bool) (rm : RM) (st : State) : Host.Outcome State Fault Refusal :=
  run (.rclOne w rm) (s := st) do
    shiftRm .rcl w rm 1

/-- RCL r/m, CL (R383). -/
def execRclCl (w : Bool) (rm : RM) (st : State) : Host.Outcome State Fault Refusal :=
  run (.rclCl w rm) (s := st) do
    let c ← getCpu
    shiftRm .rcl w rm (c.gpr.read .b .ecx)

/-- RCL r/m, immediate count (R383). -/
def execRclImm (w : Bool) (rm : RM) (count : Byte) (st : State) : Host.Outcome State Fault Refusal :=
  run (.rclImm w rm count) (s := st) do
    shiftRm .rcl w rm count

/-- RCR r/m, 1 (R384). -/
def execRcrOne (w : Bool) (rm : RM) (st : State) : Host.Outcome State Fault Refusal :=
  run (.rcrOne w rm) (s := st) do
    shiftRm .rcr w rm 1

/-- RCR r/m, CL (R384). -/
def execRcrCl (w : Bool) (rm : RM) (st : State) : Host.Outcome State Fault Refusal :=
  run (.rcrCl w rm) (s := st) do
    let c ← getCpu
    shiftRm .rcr w rm (c.gpr.read .b .ecx)

/-- RCR r/m, immediate count (R384). -/
def execRcrImm (w : Bool) (rm : RM) (count : Byte) (st : State) : Host.Outcome State Fault Refusal :=
  run (.rcrImm w rm count) (s := st) do
    shiftRm .rcr w rm count

/-- SHL r/m, 1 (R385). -/
def execShlOne (w : Bool) (rm : RM) (st : State) : Host.Outcome State Fault Refusal :=
  run (.shlOne w rm) (s := st) do
    shiftRm .shl w rm 1

/-- SHL r/m, CL (R385). -/
def execShlCl (w : Bool) (rm : RM) (st : State) : Host.Outcome State Fault Refusal :=
  run (.shlCl w rm) (s := st) do
    let c ← getCpu
    shiftRm .shl w rm (c.gpr.read .b .ecx)

/-- SHL r/m, immediate count (R385). -/
def execShlImm (w : Bool) (rm : RM) (count : Byte) (st : State) : Host.Outcome State Fault Refusal :=
  run (.shlImm w rm count) (s := st) do
    shiftRm .shl w rm count

/-- SHR r/m, 1 (R386). -/
def execShrOne (w : Bool) (rm : RM) (st : State) : Host.Outcome State Fault Refusal :=
  run (.shrOne w rm) (s := st) do
    shiftRm .shr w rm 1

/-- SHR r/m, CL (R386). -/
def execShrCl (w : Bool) (rm : RM) (st : State) : Host.Outcome State Fault Refusal :=
  run (.shrCl w rm) (s := st) do
    let c ← getCpu
    shiftRm .shr w rm (c.gpr.read .b .ecx)

/-- SHR r/m, immediate count (R386). -/
def execShrImm (w : Bool) (rm : RM) (count : Byte) (st : State) : Host.Outcome State Fault Refusal :=
  run (.shrImm w rm count) (s := st) do
    shiftRm .shr w rm count

/-- SAR r/m, 1 (R387). -/
def execSarOne (w : Bool) (rm : RM) (st : State) : Host.Outcome State Fault Refusal :=
  run (.sarOne w rm) (s := st) do
    shiftRm .sar w rm 1

/-- SAR r/m, CL (R387). -/
def execSarCl (w : Bool) (rm : RM) (st : State) : Host.Outcome State Fault Refusal :=
  run (.sarCl w rm) (s := st) do
    let c ← getCpu
    shiftRm .sar w rm (c.gpr.read .b .ecx)

/-- SAR r/m, immediate count (R387). -/
def execSarImm (w : Bool) (rm : RM) (count : Byte) (st : State) : Host.Outcome State Fault Refusal :=
  run (.sarImm w rm count) (s := st) do
    shiftRm .sar w rm count

/-- SHLD r/m, reg, immediate count (R388). -/
def execShldImm (rm : RM) (reg : Reg) (count : Byte) (st : State) : Host.Outcome State Fault Refusal :=
  run (.shldImm rm reg count) (s := st) do
    doubleShift true rm reg count

/-- SHLD r/m, reg, CL (R388). -/
def execShldCl (rm : RM) (reg : Reg) (st : State) : Host.Outcome State Fault Refusal :=
  run (.shldCl rm reg) (s := st) do
    let c ← getCpu
    doubleShift true rm reg (c.gpr.read .b .ecx)

/-- SHRD r/m, reg, immediate count (R389). -/
def execShrdImm (rm : RM) (reg : Reg) (count : Byte) (st : State) : Host.Outcome State Fault Refusal :=
  run (.shrdImm rm reg count) (s := st) do
    doubleShift false rm reg count

/-- SHRD r/m, reg, CL (R389). -/
def execShrdCl (rm : RM) (reg : Reg) (st : State) : Host.Outcome State Fault Refusal :=
  run (.shrdCl rm reg) (s := st) do
    let c ← getCpu
    doubleShift false rm reg (c.gpr.read .b .ecx)

/-- AND r/m, reg and AND reg, r/m (R391). -/
def execAndRmReg (d w : Bool) (rm : RM) (reg : Reg) (st : State) : Host.Outcome State Fault Refusal :=
  run (.andRmReg d w rm reg) (s := st) do
    logicRmReg .and d w rm reg

/-- AND r/m, immediate (R391). -/
def execAndRmImm (w : Bool) (rm : RM) (imm : Imm) (st : State) : Host.Outcome State Fault Refusal :=
  run (.andRmImm w rm imm) (s := st) do
    logicRmImm .and w rm imm

/-- AND r/m, sign-extended byte: 83H (R391, R390). -/
def execAndRmImm8 (rm : RM) (imm : Byte) (st : State) : Host.Outcome State Fault Refusal :=
  run (.andRmImm8 rm imm) (s := st) do
    logicRmImm .and true rm (.i8 imm)

/-- AND accumulator, immediate (R391). -/
def execAndAccImm (w : Bool) (imm : Imm) (st : State) : Host.Outcome State Fault Refusal :=
  run (.andAccImm w imm) (s := st) do
    let sz ← opSize w
    let a ← readReg sz .eax
    let r := Logic.and.result a (immValue sz imm)
    writeReg sz .eax r
    logicFlags r

/-- OR r/m, reg and OR reg, r/m (R393). -/
def execOrRmReg (d w : Bool) (rm : RM) (reg : Reg) (st : State) : Host.Outcome State Fault Refusal :=
  run (.orRmReg d w rm reg) (s := st) do
    logicRmReg .or d w rm reg

/-- OR r/m, immediate (R393). -/
def execOrRmImm (w : Bool) (rm : RM) (imm : Imm) (st : State) : Host.Outcome State Fault Refusal :=
  run (.orRmImm w rm imm) (s := st) do
    logicRmImm .or w rm imm

/-- OR r/m, sign-extended byte: 83H (R393, R390). -/
def execOrRmImm8 (rm : RM) (imm : Byte) (st : State) : Host.Outcome State Fault Refusal :=
  run (.orRmImm8 rm imm) (s := st) do
    logicRmImm .or true rm (.i8 imm)

/-- OR accumulator, immediate (R393). -/
def execOrAccImm (w : Bool) (imm : Imm) (st : State) : Host.Outcome State Fault Refusal :=
  run (.orAccImm w imm) (s := st) do
    let sz ← opSize w
    let a ← readReg sz .eax
    let r := Logic.or.result a (immValue sz imm)
    writeReg sz .eax r
    logicFlags r

/-- XOR r/m, reg and XOR reg, r/m (R394). -/
def execXorRmReg (d w : Bool) (rm : RM) (reg : Reg) (st : State) : Host.Outcome State Fault Refusal :=
  run (.xorRmReg d w rm reg) (s := st) do
    logicRmReg .xor d w rm reg

/-- XOR r/m, immediate (R394). -/
def execXorRmImm (w : Bool) (rm : RM) (imm : Imm) (st : State) : Host.Outcome State Fault Refusal :=
  run (.xorRmImm w rm imm) (s := st) do
    logicRmImm .xor w rm imm

/-- XOR r/m, sign-extended byte: 83H (R394, R390). -/
def execXorRmImm8 (rm : RM) (imm : Byte) (st : State) : Host.Outcome State Fault Refusal :=
  run (.xorRmImm8 rm imm) (s := st) do
    logicRmImm .xor true rm (.i8 imm)

/-- XOR accumulator, immediate (R394). -/
def execXorAccImm (w : Bool) (imm : Imm) (st : State) : Host.Outcome State Fault Refusal :=
  run (.xorAccImm w imm) (s := st) do
    let sz ← opSize w
    let a ← readReg sz .eax
    let r := Logic.xor.result a (immValue sz imm)
    writeReg sz .eax r
    logicFlags r

/-- TEST r/m, reg: nothing is written (R392). -/
def execTestRmReg (w : Bool) (rm : RM) (reg : Reg) (st : State) : Host.Outcome State Fault Refusal :=
  run (.testRmReg w rm reg) (s := st) do
    let sz ← opSize w
    let a ← readRM sz rm
    let b ← readReg sz reg
    logicFlags (a &&& b)

/-- TEST r/m, immediate (R392). -/
def execTestRmImm (w : Bool) (rm : RM) (imm : Imm) (st : State) : Host.Outcome State Fault Refusal :=
  run (.testRmImm w rm imm) (s := st) do
    let sz ← opSize w
    let a ← readRM sz rm
    logicFlags (a &&& immValue sz imm)

/-- TEST accumulator, immediate (R392). -/
def execTestAccImm (w : Bool) (imm : Imm) (st : State) : Host.Outcome State Fault Refusal :=
  run (.testAccImm w imm) (s := st) do
    let sz ← opSize w
    let a ← readReg sz .eax
    logicFlags (a &&& immValue sz imm)

/-- NOT r/m: no flag changes (R395). -/
def execNotRm (w : Bool) (rm : RM) (st : State) : Host.Outcome State Fault Refusal :=
  run (.notRm w rm) (s := st) do
    let sz ← opSize w
    let a ← readDest sz rm
    writeRM sz rm (~~~a)
    pure .next

end Sys2Proof.Machine
end

