-- ==== Sys2Proof/Machine/Procedure.lean ====
section
/-! DEFINITION. SETcc, ENTER and LEAVE (48_setcc_enter_leave.md R480 to R482). -/

namespace Sys2Proof.Machine

/-- A stack offset wrapped to the width of the stack pointer (R128). -/
def Cpu.stackWrap (c : Cpu) (v : Dword) : Dword := if c.segs.ss.big then v else (v.setWidth 16).setWidth 32

/-- The frame pointer moved down by one item: EBP, or BP when the stack segment is 16-bit (R481). -/
def Cpu.frameDown (c : Cpu) (sz : Sz) : Cpu :=
  let v := c.gpr.ebp - BitVec.ofNat 32 sz.bytes
  { c with gpr := { c.gpr with
    ebp := if c.segs.ss.big then v else c.gpr.ebp.extractLsb' 16 16 ++ v.setWidth 16 } }

/-- Copy the frame pointers of `n` enclosing procedures, stepping the frame pointer down to each (R481). -/
def copyFrames (sz : Sz) : Nat → M Unit
  | 0 => pure ()
  | n + 1 => do
    modifyCpu fun c => c.frameDown sz
    let c ← getCpu
    let v ← segRead .ss (c.stackWrap c.gpr.ebp) sz
    push sz v
    copyFrames sz n

/-- Load the frame pointer: BP alone with a 16-bit operand or a 16-bit stack (R481; log 31). -/
def setFrame (sz : Sz) (frame : Dword) : M Unit :=
  modifyCpu fun c => { c with gpr := { c.gpr with
    ebp := if sz = .d && c.segs.ss.big then frame else c.gpr.ebp.extractLsb' 16 16 ++ frame.setWidth 16 } }

/-- Push the new frame pointer: with a 16-bit stack segment it is SP, and the upper half of a dword item is free (R481; log 55). -/
def pushFramePointer (sz : Sz) (frame : Dword) : M Unit := do
  let c ← getCpu
  if c.segs.ss.big then push sz (frame.setWidth sz.bits) else pushSelector sz (frame.setWidth 16)

/-- SETcc r/m8 (R480). -/
def execSetcc (c : Cond) (dst : RM) (st : State) : Host.Outcome State Fault Refusal :=
  run (.setcc c dst) (s := st) do
    let f ← getFlags
    writeRM .b dst (if f.holds c then 1 else 0)
    pure .next

/-- ENTER (R481). -/
def execEnter (size : Word) (level : Byte) (st : State) : Host.Outcome State Fault Refusal :=
  run (.enter size level) (s := st) do
    let c ← getCpu
    let sz := c.osz
    let depth := level.toNat % 32
    push sz (c.gpr.read sz .ebp)
    let pushed ← getCpu
    let frame := pushed.sp
    if depth != 0 then do
      copyFrames sz (depth - 1)
      pushFramePointer sz frame
    setFrame sz frame
    modifyCpu fun c => c.withSp (c.spPlus (-(size.setWidth 32)))
    pure .next

/-- LEAVE (R482). -/
def execLeave (st : State) : Host.Outcome State Fault Refusal :=
  run .leave (s := st) do
    modifyCpu fun c => c.withSp (c.stackWrap c.gpr.ebp)
    let sz ← opSize true
    let v ← pop sz
    writeReg sz .ebp v
    pure .next

end Sys2Proof.Machine
end

