-- ==== Sys2Proof/Machine/ProcessorControl.lean ====
section
/-! DEFINITION. Processor control: HLT, the special registers, NOP, WAIT, the coprocessor escape, the prefix bytes
(50_processor_control.md R510 to R526). -/

namespace Sys2Proof.Machine

/-! ## Special registers (R512 to R519) -/

/-- The flags after a MOV to or from a special register: all six free (R512; log 30). -/
def afterSpecialMove : M Ending := do
  let j ← draw
  modifyFlags fun f => f.freeAll j
  pure .next

/-- CR0 as it is read; bits 30:4 are an unspecified constant (R58, R515; log 5). -/
def CR0.image (r : CR0) : Dword := bit r.pg ++ Config.cr0Reserved ++ bit r.ts ++ bit r.em ++ bit r.mp ++ bit r.pe

/-- CR0 as it is written; bits 30:4 are ignored (R514, D3). -/
def CR0.ofImage (v : Dword) : CR0 :=
  ⟨v.getLsbD 0, v.getLsbD 1, v.getLsbD 2, v.getLsbD 3, v.getLsbD 31⟩

/-- Write CR0; a change of PE asks for a far JMP (R725; log 15). -/
def Cpu.withCr0 (c : Cpu) (r : CR0) : Cpu :=
  { c with cr0 := r, peSwitched := c.peSwitched || r.pe != c.cr0.pe }

/-- A control register as it is read (R515). -/
def Cpu.controlReg (c : Cpu) : CReg → Dword
  | .cr0 => c.cr0.image
  | .cr2 => c.cr2
  | .cr3 => c.cr3

/-- DR7.GD guards the debug registers: exception 1 as a fault, with DR6.BD set and GD cleared before it is delivered (R516,
R674). It is raised whatever RF is, against the words of R48 that any debug fault is ignored while RF is set: log 53. -/
def requireNoGd : M Unit := do
  let c ← getCpu
  require (!c.dbg.dr7.getLsbD 13) (.db 0x2000)

/-- A debug register; DR4 and DR5 were refused (R69). -/
def DebugRegs.get (d : DebugRegs) : DReg → Dword
  | .dr0 => d.dr0
  | .dr1 => d.dr1
  | .dr2 => d.dr2
  | .dr3 => d.dr3
  | .dr4 => d.dr6
  | .dr5 => d.dr7
  | .dr6 => d.dr6
  | .dr7 => d.dr7

/-- Write a debug register; DR4 and DR5 were refused (R69). -/
def DebugRegs.set (d : DebugRegs) (r : DReg) (v : Dword) : DebugRegs :=
  match r with
  | .dr0 => { d with dr0 := v }
  | .dr1 => { d with dr1 := v }
  | .dr2 => { d with dr2 := v }
  | .dr3 => { d with dr3 := v }
  | .dr4 => { d with dr6 := v }
  | .dr5 => { d with dr7 := v }
  | .dr6 => { d with dr6 := v }
  | .dr7 => { d with dr7 := v }

/-- Some breakpoint of DR7 has the undefined code RW = 10 or LEN = 10 (R68, U15; log 21). -/
def undefinedBreakpoint (dr7 : Dword) : Bool :=
  (List.range 4).any fun i => breakRw dr7 i == 2 || breakLen dr7 i == 2

/-- Write a debug register (R516). -/
def setDebugReg (r : DReg) (v : Dword) : M Unit :=
  if r = .dr7 && undefinedBreakpoint v then refuse .undefinedBreakpointCode
  else modifyCpu fun c => { c with dbg := c.dbg.set r v }

/-- A test register (R519). -/
def TestRegs.get (t : TestRegs) : TReg → Dword
  | .tr6 => t.tr6
  | .tr7 => t.tr7

/-- Write a test register (R518). -/
def TestRegs.set (t : TestRegs) (r : TReg) (v : Dword) : TestRegs :=
  match r with
  | .tr6 => { t with tr6 := v }
  | .tr7 => { t with tr7 := v }

/-! ## The coprocessor escape (R522, R524; log 22) -/

/-- FNINIT, FNCLEX, FNSTSW AX, and with a memory operand FNSTSW, FNSTCW, FNSTENV, FNSAVE: they ignore BUSY# and ERROR#. -/
def escExempt (ttt lll : BitVec 3) : RM → Bool
  | .reg r => (ttt == 3 && lll == 4 && (r == .ebx || r == .edx)) || (ttt == 7 && lll == 4 && r == .eax)
  | .mem _ => (ttt == 5 && lll == 7) || (ttt == 1 && lll == 7) || (ttt == 1 && lll == 6) || (ttt == 5 && lll == 6)

/-- The first requested transfer stores to memory. -/
def storesFirst : List CoRequest → Bool
  | .toMemory _ :: _ => true
  | .fromMemory :: _ => false
  | [] => false

/-- The first word of the operand is checked before the opcode is sent (R522 step 10, note q): for a write when the first transfer
requested stores, else for a read, also when none is requested. The check sets no bit of a page entry and fills no TLB entry
(log 46). -/
def checkCoOperand (rm : RM) (reqs : List CoRequest) : M Unit :=
  match rm with
  | .reg _ => pure ()
  | .mem m => do
    let c ← getCpu
    let acc : Access := if storesFirst reqs then .verify else .peek
    let la ← segCheck (memSegment c m) (memOffset c.gpr m) 2 acc
    let _ ← translate la 2 acc c.user

/-- One requested word, `k` bytes above the effective address, through the operand port (R524). -/
def moveWord (m : Mem) (k : Dword) : CoRequest → M Unit
  | .toMemory v => do
    emit (.coRead (coOperandPort k) v)
    writeMem .w m k v
  | .fromMemory => do
    let v ← readMem .w m k
    emit (.coWrite (coOperandPort k) v)

/-- The linear page of the word `k` bytes above the effective address. -/
def coPage (c : Cpu) (m : Mem) (k : Dword) : BitVec 20 :=
  ((c.segs.get (memSegment c m)).base + memWrap m (memOffset c.gpr m + k)).extractLsb' 12 20

/-- The operand of `n` words wraps and the page fault lies in a page of neither its first nor its last word (R616 case 2). -/
def middlePageFault (c : Cpu) (m : Mem) (n : Nat) (e : Exc) : Bool :=
  let last := BitVec.ofNat 32 (2 * (n - 1))
  match e.cr2 with
  | some la =>
    memWrap m (memOffset c.gpr m + last) < memOffset c.gpr m && la.extractLsb' 12 20 != coPage c m 0 &&
      la.extractLsb' 12 20 != coPage c m last
  | none => false

/-- The words after the first of `n`: a fault here is exception 9 (R631), but for R616 case 2 (U13); also where the rights of the
segment or of a present page forbid the access, which R631 does not name: log 56. It saves the instruction after the ESC: log
50. -/
def moveRest (m : Mem) (n : Nat) : Dword → List CoRequest → M Unit
  | _, [] => pure ()
  | k, r :: rest => do
    let done ← attempt (moveWord m k r)
    match done with
    | .ok _ => moveRest m n (k + 2) rest
    | .error e => do
      let c ← getCpu
      if middlePageFault c m n e then refuse .wrappedCoprocessorOperand
      else do
        modifyCpu fun c => { c with eip := c.next }
        raiseCommitted .co

/-- Move the operand words the coprocessor asks for. -/
def moveOperand (m : Mem) (reqs : List CoRequest) : M Unit :=
  match reqs with
  | [] => pure ()
  | r :: rest => do
    moveWord m 0 r
    moveRest m (rest.length + 1) 2 rest

/-- FNSTSW AX stores the status word the coprocessor answers; without an answer nothing is written (R522, R525). The word comes
through the operand port 8000FCH: log 22. -/
def storeStatusWord (ttt lll : BitVec 3) (r : Reg) : List CoRequest → M Unit
  | .toMemory v :: _ =>
    if ttt == 7 && lll == 4 && r == .eax then do
      emit (.coRead (coOperandPort 0) v)
      writeReg .w .eax v
    else pure ()
  | .fromMemory :: _ => pure ()
  | [] => pure ()

/-- HLT (R511). -/
def execHlt (st : State) : Host.Outcome State Fault Refusal :=
  run .hlt (s := st) do
    modifyCpu fun c => { c with run := .halted }
    emit .halt
    pure .next

/-- MOV CRn, reg (R514). -/
def execMovCrReg (dst : CReg) (src : Reg) (st : State) : Host.Outcome State Fault Refusal :=
  run (.movCrReg dst src) (s := st) do
    let v ← readReg .d src
    match dst with
    | .cr0 => do
      require (!(v.getLsbD 31 && !v.getLsbD 0)) (.gp 0)
      notePaging (v.getLsbD 31)
      modifyCpu fun c => c.withCr0 (CR0.ofImage v)
    | .cr2 => modifyCpu fun c => { c with cr2 := v }
    | .cr3 => do
      modifyCpu fun c => { c with cr3 := v &&& 0xFFFFF000 }
      flushTlb
    afterSpecialMove

/-- MOV reg, CRn (R515). -/
def execMovRegCr (dst : Reg) (src : CReg) (st : State) : Host.Outcome State Fault Refusal :=
  run (.movRegCr dst src) (s := st) do
    let c ← getCpu
    writeReg .d dst (c.controlReg src)
    afterSpecialMove

/-- MOV DRn, reg (R516). -/
def execMovDrReg (dst : DReg) (src : Reg) (st : State) : Host.Outcome State Fault Refusal :=
  runDebug (.movDrReg dst src) dst (s := st) do
    requireNoGd
    let v ← readReg .d src
    setDebugReg dst v
    afterSpecialMove

/-- MOV reg, DRn (R517). -/
def execMovRegDr (dst : Reg) (src : DReg) (st : State) : Host.Outcome State Fault Refusal :=
  runDebug (.movRegDr dst src) src (s := st) do
    requireNoGd
    let c ← getCpu
    writeReg .d dst (c.dbg.get src)
    afterSpecialMove

/-- MOV TRn, reg: the value is stored, the TLB is left alone (R518, D7). -/
def execMovTrReg (dst : TReg) (src : Reg) (st : State) : Host.Outcome State Fault Refusal :=
  run (.movTrReg dst src) (s := st) do
    let v ← readReg .d src
    modifyCpu fun c => { c with test := c.test.set dst v }
    afterSpecialMove

/-- MOV reg, TRn (R519). -/
def execMovRegTr (dst : Reg) (src : TReg) (st : State) : Host.Outcome State Fault Refusal :=
  run (.movRegTr dst src) (s := st) do
    let c ← getCpu
    writeReg .d dst (c.test.get src)
    afterSpecialMove

/-- NOP (R520). -/
def execNop (st : State) : Host.Outcome State Fault Refusal :=
  run .nop (s := st) do
    pure .next

/-- WAIT (R521). -/
def execWait (st : State) : Host.Outcome State Fault Refusal :=
  run .wait (s := st) do
    let s ← getState
    require (!(s.cpu.cr0.ts && s.cpu.cr0.mp)) .nm
    if s.env.busy then pure .waiting
    else do
      require (!s.env.error) .mf
      pure .next

/-- Steps 8 to 10 of ESC: the coprocessor is available, it reports no error, its operand can be accessed (R522, R615). -/
def escChecks (exempt : Bool) (rm : RM) : M Unit := do
  let s ← getState
  require (!(s.cpu.cr0.em || s.cpu.cr0.ts)) .nm
  require (exempt || !s.env.error) .mf
  checkCoOperand rm s.env.coRequests

/-- ESC (R522). The checks are made once; while BUSY# is active it stalls, and no interrupt is taken (R612). -/
def execEsc (ttt lll : BitVec 3) (rm : RM) (st : State) : Host.Outcome State Fault Refusal :=
  run (.esc ttt lll rm) (s := st) do
    let s ← getState
    let exempt := escExempt ttt lll rm
    if s.cpu.escWaiting then pure () else escChecks exempt rm
    if s.env.busy && !exempt then pure .stalled
    else do
      emit (.coOpcode ttt lll rm)
      modifyEnv fun e => { e with coRequests := [] }
      match rm with
      | .reg r => storeStatusWord ttt lll r s.env.coRequests
      | .mem m => moveOperand m s.env.coRequests
      pure .next

/-- The prefix 67H (R203). -/
def execAddressSizePrefix (st : State) : Host.Outcome State Fault Refusal :=
  .next { st with cpu := { st.cpu with cur := { st.cpu.cur with pfx := { st.cpu.cur.pfx with addrsize := true } } } }

/-- The prefix F0H (R142, R203). -/
def execLockPrefix (st : State) : Host.Outcome State Fault Refusal :=
  .next { st with cpu := { st.cpu with cur := { st.cpu.cur with pfx := { st.cpu.cur.pfx with lock := true } } } }

/-- The prefix 66H (R203). -/
def execOperandSizePrefix (st : State) : Host.Outcome State Fault Refusal :=
  .next { st with cpu := { st.cpu with cur := { st.cpu.cur with pfx := { st.cpu.cur.pfx with opsize := true } } } }

/-- The prefix 2EH (R203, R204). -/
def execCsPrefix (st : State) : Host.Outcome State Fault Refusal :=
  .next { st with cpu := { st.cpu with cur := { st.cpu.cur with pfx := { st.cpu.cur.pfx with seg := some .cs } } } }

/-- The prefix 3EH (R203, R204). -/
def execDsPrefix (st : State) : Host.Outcome State Fault Refusal :=
  .next { st with cpu := { st.cpu with cur := { st.cpu.cur with pfx := { st.cpu.cur.pfx with seg := some .ds } } } }

/-- The prefix 26H (R203, R204). -/
def execEsPrefix (st : State) : Host.Outcome State Fault Refusal :=
  .next { st with cpu := { st.cpu with cur := { st.cpu.cur with pfx := { st.cpu.cur.pfx with seg := some .es } } } }

/-- The prefix 64H (R203, R204). -/
def execFsPrefix (st : State) : Host.Outcome State Fault Refusal :=
  .next { st with cpu := { st.cpu with cur := { st.cpu.cur with pfx := { st.cpu.cur.pfx with seg := some .fs } } } }

/-- The prefix 65H (R203, R204). -/
def execGsPrefix (st : State) : Host.Outcome State Fault Refusal :=
  .next { st with cpu := { st.cpu with cur := { st.cpu.cur with pfx := { st.cpu.cur.pfx with seg := some .gs } } } }

/-- The prefix 36H (R203, R204). -/
def execSsPrefix (st : State) : Host.Outcome State Fault Refusal :=
  .next { st with cpu := { st.cpu with cur := { st.cpu.cur with pfx := { st.cpu.cur.pfx with seg := some .ss } } } }

end Sys2Proof.Machine
end

