-- ==== Sys2Proof/Machine/ProtectionControl.lean ====
section
/-! DEFINITION. The protection control instructions (51_protection_control.md R540 to R557). -/

namespace Sys2Proof.Machine

/-- TestSelector: the descriptor, or none for a selector that fails; nothing is written (R541, D19). -/
def testSelector (sel : Word) : M (Option Desc) := do
  let c ← getCpu
  if isNull sel then pure none
  else
    match descriptorAddr c sel with
    | none => pure none
    | some la => do
      let d ← readDescriptorAt la
      pure (some d)

/-- Visible: the privilege rule of note p (R541). -/
def visible (cpl : BitVec 2) (d : Desc) (sel : Word) : Bool := d.isConforming || (cpl ≤ d.dpl && rpl sel ≤ d.dpl)

/-- LAR accepts the descriptor (R543). -/
def larAccepts (d : Desc) : Bool :=
  d.s || d.type == 1 || d.type == 2 || d.type == 3 || d.type == 4 || d.type == 5 || d.type == 9 || d.type == 0xB ||
    d.type == 0xC

/-- LSL accepts the descriptor (R548). -/
def lslAccepts (d : Desc) : Bool :=
  d.s || d.type == 1 || d.type == 2 || d.type == 3 || d.type == 9 || d.type == 0xB

/-- VERR accepts the descriptor: readable code or data (R555). -/
def verrAccepts (d : Desc) : Bool := d.s && !(d.exec && !d.rw)

/-- VERW accepts the descriptor: writable data (R556). -/
def verwAccepts (d : Desc) : Bool := d.s && !d.exec && d.rw

/-- The descriptor a selector operand names when it passes the test and is visible (R541, note p). -/
def testedDescriptor (accepts : Desc → Bool) (sel : Word) : M (Option Desc) := do
  let c ← getCpu
  let d ← testSelector sel
  pure (d.filter fun d => accepts d && visible c.cpl d sel)

/-- Set ZF and go on. -/
def finishZf (z : Bool) : M Ending := do
  modifyFlags fun f => { f with zf := z }
  pure .next

/-- The descriptor of a table segment in the GDT (R546, R549). -/
def gdtDescriptor (sel : Word) : M Desc := do
  require (!sel.getLsbD 2) (.gp (selCode sel))
  readDescriptor sel (.gp (selCode sel))

/-- The 6 bytes of a table register: limit, then base (R544). -/
def readTable (m : Mem) : M TableReg := do
  let c ← getCpu
  let limit ← readMem .w m 0
  let base ← readMem .d m 2
  pure ⟨if c.os32 then base else (base.setWidth 24).setWidth 32, limit⟩

/-- Store a table register; the sixth byte is free with a 16-bit operand (R550, U11). -/
def storeTable (m : Mem) (t : TableReg) : M Unit := do
  let c ← getCpu
  segVerify (memSegment c m) (memOffset c.gpr m) 2
  segVerify (memSegment c m) (memWrap m (memOffset c.gpr m + 2)) 4
  let junk ← if c.os32 then pure t.base else draw
  writeMem .w m 0 t.limit
  writeMem .d m 2 (junk.extractLsb' 24 8 ++ t.base.setWidth 24)

/-- ARPL (R542). -/
def execArpl (dst : RM) (src : Reg) (st : State) : Host.Outcome State Fault Refusal :=
  run (.arpl dst src) (s := st) do
    let d ← readDest .w dst
    let s ← readReg .w src
    if rpl d < rpl s then do
      writeRM .w dst (withRpl d (rpl s))
      finishZf true
    else finishZf false

/-- LAR (R543). -/
def execLar (dst : Reg) (src : RM) (st : State) : Host.Outcome State Fault Refusal :=
  run (.lar dst src) (s := st) do
    let sel ← readRM .w src
    let d ← testedDescriptor larAccepts sel
    match d with
    | none => finishZf false
    | some d => do
      let sz ← opSize true
      writeReg sz dst ((d.hi &&& 0x00F0FF00).setWidth sz.bits)
      finishZf true

/-- LGDT (R544). -/
def execLgdt (src : Mem) (st : State) : Host.Outcome State Fault Refusal :=
  run (.lgdt src) (s := st) do
    let t ← readTable src
    modifyCpu fun c => { c with gdtr := t }
    pure .next

/-- LIDT (R545). -/
def execLidt (src : Mem) (st : State) : Host.Outcome State Fault Refusal :=
  run (.lidt src) (s := st) do
    let t ← readTable src
    modifyCpu fun c => { c with idtr := t }
    pure .next

/-- LLDT (R546). -/
def execLldt (src : RM) (st : State) : Host.Outcome State Fault Refusal :=
  run (.lldt src) (s := st) do
    let sel ← readRM .w src
    if isNull sel then do
      modifyCpu fun c => { c with ldtr := { c.ldtr with selector := sel, valid := false } }
      pure .next
    else do
      let d ← gdtDescriptor sel
      require (!d.s && d.type == 2) (.gp (selCode sel))
      require d.present (.np (selCode sel))
      modifyCpu fun c => { c with ldtr := ⟨sel, d.base, d.limit, true⟩ }
      pure .next

/-- LMSW: PE cannot be reset (R547). -/
def execLmsw (src : RM) (st : State) : Host.Outcome State Fault Refusal :=
  run (.lmsw src) (s := st) do
    let v ← readRM .w src
    modifyCpu fun c => c.withCr0
      { c.cr0 with pe := c.cr0.pe || BitVec.getLsbD v 0, mp := BitVec.getLsbD v 1, em := BitVec.getLsbD v 2, ts := BitVec.getLsbD v 3 }
    pure .next

/-- LSL (R548). -/
def execLsl (dst : Reg) (src : RM) (st : State) : Host.Outcome State Fault Refusal :=
  run (.lsl dst src) (s := st) do
    let sel ← readRM .w src
    let d ← testedDescriptor lslAccepts sel
    match d with
    | none => finishZf false
    | some d => do
      let sz ← opSize true
      writeReg sz dst (d.limit.setWidth sz.bits)
      finishZf true

/-- LTR (R549). -/
def execLtr (src : RM) (st : State) : Host.Outcome State Fault Refusal :=
  run (.ltr src) (s := st) do
    let sel ← readRM .w src
    require (!isNull sel) (.gp 0)
    let d ← gdtDescriptor sel
    require d.isAvailableTss (.gp (selCode sel))
    require d.present (.np (selCode sel))
    setRights sel d (· ||| 2)
    modifyCpu fun c => { c with tr := ⟨sel, d.base, d.limit, d.type == 9⟩ }
    pure .next

/-- SGDT (R550). -/
def execSgdt (dst : Mem) (st : State) : Host.Outcome State Fault Refusal :=
  run (.sgdt dst) (s := st) do
    let c ← getCpu
    storeTable dst c.gdtr
    pure .next

/-- SIDT (R551). -/
def execSidt (dst : Mem) (st : State) : Host.Outcome State Fault Refusal :=
  run (.sidt dst) (s := st) do
    let c ← getCpu
    storeTable dst c.idtr
    pure .next

/-- SLDT (R552). -/
def execSldt (dst : RM) (st : State) : Host.Outcome State Fault Refusal :=
  run (.sldt dst) (s := st) do
    let c ← getCpu
    writeSelector dst c.ldtr.selector
    pure .next

/-- SMSW (R553). -/
def execSmsw (dst : RM) (st : State) : Host.Outcome State Fault Refusal :=
  run (.smsw dst) (s := st) do
    let c ← getCpu
    writeSelector dst (c.cr0.image.setWidth 16)
    pure .next

/-- STR (R554). -/
def execStr (dst : RM) (st : State) : Host.Outcome State Fault Refusal :=
  run (.str dst) (s := st) do
    let c ← getCpu
    writeSelector dst c.tr.selector
    pure .next

/-- VERR (R555). -/
def execVerr (src : RM) (st : State) : Host.Outcome State Fault Refusal :=
  run (.verr src) (s := st) do
    let sel ← readRM .w src
    let d ← testedDescriptor verrAccepts sel
    finishZf d.isSome

/-- VERW (R556). -/
def execVerw (src : RM) (st : State) : Host.Outcome State Fault Refusal :=
  run (.verw src) (s := st) do
    let sel ← readRM .w src
    let d ← testedDescriptor verwAccepts sel
    finishZf d.isSome

end Sys2Proof.Machine
end

