-- ==== Sys2Proof/Machine/SegmentControl.lean ====
section
/-! DEFINITION. The segment control instructions (41_segment_control.md R300 to R305). -/

namespace Sys2Proof.Machine

/-- Load a full pointer: the general register only after the segment load succeeded (R300). -/
def loadPointer (r : SReg) (dst : Reg) (src : Mem) : M Ending := do
  let c ← getCpu
  let off ← readMem c.osz src 0
  let sel ← readMem .w src (BitVec.ofNat 32 c.osz.bytes)
  loadSegment r sel
  writeReg c.osz dst off
  pure .next

/-- LDS reg, m (R301). -/
def execLds (dst : Reg) (src : Mem) (st : State) : Host.Outcome State Fault Refusal :=
  run (.lds dst src) (s := st) do
    loadPointer .ds dst src

/-- LES reg, m (R302). -/
def execLes (dst : Reg) (src : Mem) (st : State) : Host.Outcome State Fault Refusal :=
  run (.les dst src) (s := st) do
    loadPointer .es dst src

/-- LFS reg, m (R303). -/
def execLfs (dst : Reg) (src : Mem) (st : State) : Host.Outcome State Fault Refusal :=
  run (.lfs dst src) (s := st) do
    loadPointer .fs dst src

/-- LGS reg, m (R304). -/
def execLgs (dst : Reg) (src : Mem) (st : State) : Host.Outcome State Fault Refusal :=
  run (.lgs dst src) (s := st) do
    loadPointer .gs dst src

/-- LSS reg, m; no interrupt inhibit (R305, D17). -/
def execLss (dst : Reg) (src : Mem) (st : State) : Host.Outcome State Fault Refusal :=
  run (.lss dst src) (s := st) do
    loadPointer .ss dst src

end Sys2Proof.Machine
end

