-- ==== Sys2Proof/Machine/StringOps.lean ====
section
/-! DEFINITION. The string instructions and the repeat prefixes (45_string.md R410 to R423). -/

namespace Sys2Proof.Machine

/-- The repetition ends early: REPE with ZF = 0, REPNE with ZF = 1 (R420). -/
def endsRepeat (p : Rep) (zf : Bool) : Bool :=
  match p with
  | .rep => !zf
  | .repne => zf

/-- A string instruction: one element without a prefix, else one element of the repetition (R420, R421). -/
def repeated (comparing : Bool) (element : M Unit) : M Ending := do
  let c ← getCpu
  match c.cur.pfx.rep with
  | none => do
    element
    pure .next
  | some p =>
    if c.index .ecx = 0 then pure .next
    else do
      element
      modifyCpu fun c => c.withIndex .ecx (c.index .ecx - 1)
      let c ← getCpu
      pure (if c.index .ecx == 0 || (comparing && endsRepeat p c.flags.zf) then .next else .again)

/-- One element of CMPS (R411). -/
def cmpsElement (sz : Sz) : M Unit := do
  let c ← getCpu
  let a ← segRead c.stringSegment (c.index .esi) sz
  let b ← segRead .es (c.index .edi) sz
  modifyFlags fun f => f.sub a b false
  stepIndex .esi sz
  stepIndex .edi sz

/-- One element of INS: the destination is checked before the port is read (R412); the check sets the Accessed and Dirty bits of
the page entries as the write does: log 45. -/
def insElement (sz : Sz) : M Unit := do
  let c ← getCpu
  let port : Word := c.gpr.edx.setWidth 16
  requireIo port sz.bytes
  let la ← segCheck .es (c.index .edi) sz.bytes .write
  noteData la sz.bytes true
  let as ← translate la sz.bytes .write c.user
  let v ← ioRead port sz
  writeAll as (toBytes sz v)
  stepIndex .edi sz

/-- One element of LODS (R413). -/
def lodsElement (sz : Sz) : M Unit := do
  let c ← getCpu
  let v ← segRead c.stringSegment (c.index .esi) sz
  writeReg sz .eax v
  stepIndex .esi sz

/-- One element of MOVS (R414). -/
def movsElement (sz : Sz) : M Unit := do
  let c ← getCpu
  let v ← segRead c.stringSegment (c.index .esi) sz
  segWrite .es (c.index .edi) sz v
  stepIndex .esi sz
  stepIndex .edi sz

/-- One element of OUTS (R415). -/
def outsElement (sz : Sz) : M Unit := do
  let c ← getCpu
  let port : Word := c.gpr.edx.setWidth 16
  requireIo port sz.bytes
  let v ← segRead c.stringSegment (c.index .esi) sz
  ioWrite port sz v
  stepIndex .esi sz

/-- One element of SCAS (R416). -/
def scasElement (sz : Sz) : M Unit := do
  let c ← getCpu
  let b ← segRead .es (c.index .edi) sz
  modifyFlags fun f => f.sub (c.gpr.read sz .eax) b false
  stepIndex .edi sz

/-- One element of STOS (R417). -/
def stosElement (sz : Sz) : M Unit := do
  let c ← getCpu
  segWrite .es (c.index .edi) sz (c.gpr.read sz .eax)
  stepIndex .edi sz

/-- CMPS (R411). -/
def execCmps (w : Bool) (st : State) : Host.Outcome State Fault Refusal :=
  run (.cmps w) (s := st) do
    let sz ← opSize w
    repeated true (cmpsElement sz)

/-- INS (R412). -/
def execIns (w : Bool) (st : State) : Host.Outcome State Fault Refusal :=
  run (.ins w) (s := st) do
    let sz ← opSize w
    repeated false (insElement sz)

/-- LODS (R413). -/
def execLods (w : Bool) (st : State) : Host.Outcome State Fault Refusal :=
  run (.lods w) (s := st) do
    let sz ← opSize w
    repeated false (lodsElement sz)

/-- MOVS (R414). -/
def execMovs (w : Bool) (st : State) : Host.Outcome State Fault Refusal :=
  run (.movs w) (s := st) do
    let sz ← opSize w
    repeated false (movsElement sz)

/-- OUTS (R415). -/
def execOuts (w : Bool) (st : State) : Host.Outcome State Fault Refusal :=
  run (.outs w) (s := st) do
    let sz ← opSize w
    repeated false (outsElement sz)

/-- SCAS (R416). -/
def execScas (w : Bool) (st : State) : Host.Outcome State Fault Refusal :=
  run (.scas w) (s := st) do
    let sz ← opSize w
    repeated true (scasElement sz)

/-- STOS (R417). -/
def execStos (w : Bool) (st : State) : Host.Outcome State Fault Refusal :=
  run (.stos w) (s := st) do
    let sz ← opSize w
    repeated false (stosElement sz)

/-- XLAT (R418). -/
def execXlat (st : State) : Host.Outcome State Fault Refusal :=
  run .xlat (s := st) do
    let c ← getCpu
    let ea := c.gpr.ebx + (c.gpr.read .b .eax).setWidth 32
    let v ← segRead c.stringSegment (if c.as32 then ea else (ea.setWidth 16).setWidth 32) .b
    writeReg .b .eax v
    pure .next

/-- The prefix F3H (R203, R420). -/
def execRepPrefix (st : State) : Host.Outcome State Fault Refusal :=
  .next { st with cpu := { st.cpu with cur := { st.cpu.cur with pfx := { st.cpu.cur.pfx with rep := some .rep } } } }

/-- The prefix F2H (R203, R420). -/
def execRepnePrefix (st : State) : Host.Outcome State Fault Refusal :=
  .next { st with cpu := { st.cpu with cur := { st.cpu.cur with pfx := { st.cpu.cur.pfx with rep := some .repne } } } }

end Sys2Proof.Machine
end

