-- ==== Sys2Proof/Machine/Dispatch.lean ====
section
/-! DEFINITION. The meaning of every instruction: one arm for each constructor of Instr, a direct call of its meaning. -/

namespace Sys2Proof.Machine

/-- The meaning of an instruction. -/
def exec (i : Instr) (s : State) : Host.Outcome State Fault Refusal :=
  match i with
  | .movRmReg w dst src => Sys2Proof.Machine.execMovRmReg w dst src s
  | .movRegRm w dst src => Sys2Proof.Machine.execMovRegRm w dst src s
  | .movRmImm w dst imm => Sys2Proof.Machine.execMovRmImm w dst imm s
  | .movRegImm w dst imm => Sys2Proof.Machine.execMovRegImm w dst imm s
  | .movAccMoffs w off => Sys2Proof.Machine.execMovAccMoffs w off s
  | .movMoffsAcc w off => Sys2Proof.Machine.execMovMoffsAcc w off s
  | .movSregRm dst src => Sys2Proof.Machine.execMovSregRm dst src s
  | .movRmSreg dst src => Sys2Proof.Machine.execMovRmSreg dst src s
  | .movsx w dst src => Sys2Proof.Machine.execMovsx w dst src s
  | .movzx w dst src => Sys2Proof.Machine.execMovzx w dst src s
  | .pushRm src => Sys2Proof.Machine.execPushRm src s
  | .pushReg src => Sys2Proof.Machine.execPushReg src s
  | .pushSreg src => Sys2Proof.Machine.execPushSreg src s
  | .pushFs => Sys2Proof.Machine.execPushFs s
  | .pushGs => Sys2Proof.Machine.execPushGs s
  | .pushImm sx imm => Sys2Proof.Machine.execPushImm sx imm s
  | .pusha => Sys2Proof.Machine.execPusha s
  | .popRm dst => Sys2Proof.Machine.execPopRm dst s
  | .popReg dst => Sys2Proof.Machine.execPopReg dst s
  | .popEs => Sys2Proof.Machine.execPopEs s
  | .popSs => Sys2Proof.Machine.execPopSs s
  | .popDs => Sys2Proof.Machine.execPopDs s
  | .popFs => Sys2Proof.Machine.execPopFs s
  | .popGs => Sys2Proof.Machine.execPopGs s
  | .popa => Sys2Proof.Machine.execPopa s
  | .xchgRmReg w rm reg => Sys2Proof.Machine.execXchgRmReg w rm reg s
  | .xchgRegAcc reg => Sys2Proof.Machine.execXchgRegAcc reg s
  | .inImm w port => Sys2Proof.Machine.execInImm w port s
  | .inDx w => Sys2Proof.Machine.execInDx w s
  | .outImm w port => Sys2Proof.Machine.execOutImm w port s
  | .outDx w => Sys2Proof.Machine.execOutDx w s
  | .lea dst src => Sys2Proof.Machine.execLea dst src s
  | .lds dst src => Sys2Proof.Machine.execLds dst src s
  | .les dst src => Sys2Proof.Machine.execLes dst src s
  | .lfs dst src => Sys2Proof.Machine.execLfs dst src s
  | .lgs dst src => Sys2Proof.Machine.execLgs dst src s
  | .lss dst src => Sys2Proof.Machine.execLss dst src s
  | .clc => Sys2Proof.Machine.execClc s
  | .cld => Sys2Proof.Machine.execCld s
  | .cli => Sys2Proof.Machine.execCli s
  | .clts => Sys2Proof.Machine.execClts s
  | .cmc => Sys2Proof.Machine.execCmc s
  | .lahf => Sys2Proof.Machine.execLahf s
  | .popf => Sys2Proof.Machine.execPopf s
  | .pushf => Sys2Proof.Machine.execPushf s
  | .sahf => Sys2Proof.Machine.execSahf s
  | .sti => Sys2Proof.Machine.execSti s
  | .stc => Sys2Proof.Machine.execStc s
  | .std => Sys2Proof.Machine.execStd s
  | .addRmReg d w rm reg => Sys2Proof.Machine.execAddRmReg d w rm reg s
  | .addRmImm sx w rm imm => Sys2Proof.Machine.execAddRmImm sx w rm imm s
  | .addAccImm w imm => Sys2Proof.Machine.execAddAccImm w imm s
  | .adcRmReg d w rm reg => Sys2Proof.Machine.execAdcRmReg d w rm reg s
  | .adcRmImm sx w rm imm => Sys2Proof.Machine.execAdcRmImm sx w rm imm s
  | .adcAccImm w imm => Sys2Proof.Machine.execAdcAccImm w imm s
  | .subRmReg d w rm reg => Sys2Proof.Machine.execSubRmReg d w rm reg s
  | .subRmImm sx w rm imm => Sys2Proof.Machine.execSubRmImm sx w rm imm s
  | .subAccImm w imm => Sys2Proof.Machine.execSubAccImm w imm s
  | .sbbRmReg d w rm reg => Sys2Proof.Machine.execSbbRmReg d w rm reg s
  | .sbbRmImm sx w rm imm => Sys2Proof.Machine.execSbbRmImm sx w rm imm s
  | .sbbAccImm w imm => Sys2Proof.Machine.execSbbAccImm w imm s
  | .cmpRmReg d w rm reg => Sys2Proof.Machine.execCmpRmReg d w rm reg s
  | .cmpRmImm sx w rm imm => Sys2Proof.Machine.execCmpRmImm sx w rm imm s
  | .cmpAccImm w imm => Sys2Proof.Machine.execCmpAccImm w imm s
  | .incRm w rm => Sys2Proof.Machine.execIncRm w rm s
  | .incReg reg => Sys2Proof.Machine.execIncReg reg s
  | .decRm w rm => Sys2Proof.Machine.execDecRm w rm s
  | .decReg reg => Sys2Proof.Machine.execDecReg reg s
  | .negRm w rm => Sys2Proof.Machine.execNegRm w rm s
  | .aaa => Sys2Proof.Machine.execAaa s
  | .aas => Sys2Proof.Machine.execAas s
  | .daa => Sys2Proof.Machine.execDaa s
  | .das => Sys2Proof.Machine.execDas s
  | .mulAcc w src => Sys2Proof.Machine.execMulAcc w src s
  | .imulAcc w src => Sys2Proof.Machine.execImulAcc w src s
  | .imulRegRm dst src => Sys2Proof.Machine.execImulRegRm dst src s
  | .imulRegRmImm sx dst src imm => Sys2Proof.Machine.execImulRegRmImm sx dst src imm s
  | .divAcc w src => Sys2Proof.Machine.execDivAcc w src s
  | .idivAcc w src => Sys2Proof.Machine.execIdivAcc w src s
  | .aad => Sys2Proof.Machine.execAad s
  | .aam => Sys2Proof.Machine.execAam s
  | .cbw => Sys2Proof.Machine.execCbw s
  | .cwd => Sys2Proof.Machine.execCwd s
  | .rolOne w rm => Sys2Proof.Machine.execRolOne w rm s
  | .rolCl w rm => Sys2Proof.Machine.execRolCl w rm s
  | .rolImm w rm count => Sys2Proof.Machine.execRolImm w rm count s
  | .rorOne w rm => Sys2Proof.Machine.execRorOne w rm s
  | .rorCl w rm => Sys2Proof.Machine.execRorCl w rm s
  | .rorImm w rm count => Sys2Proof.Machine.execRorImm w rm count s
  | .rclOne w rm => Sys2Proof.Machine.execRclOne w rm s
  | .rclCl w rm => Sys2Proof.Machine.execRclCl w rm s
  | .rclImm w rm count => Sys2Proof.Machine.execRclImm w rm count s
  | .rcrOne w rm => Sys2Proof.Machine.execRcrOne w rm s
  | .rcrCl w rm => Sys2Proof.Machine.execRcrCl w rm s
  | .rcrImm w rm count => Sys2Proof.Machine.execRcrImm w rm count s
  | .shlOne w rm => Sys2Proof.Machine.execShlOne w rm s
  | .shlCl w rm => Sys2Proof.Machine.execShlCl w rm s
  | .shlImm w rm count => Sys2Proof.Machine.execShlImm w rm count s
  | .shrOne w rm => Sys2Proof.Machine.execShrOne w rm s
  | .shrCl w rm => Sys2Proof.Machine.execShrCl w rm s
  | .shrImm w rm count => Sys2Proof.Machine.execShrImm w rm count s
  | .sarOne w rm => Sys2Proof.Machine.execSarOne w rm s
  | .sarCl w rm => Sys2Proof.Machine.execSarCl w rm s
  | .sarImm w rm count => Sys2Proof.Machine.execSarImm w rm count s
  | .shldImm rm reg count => Sys2Proof.Machine.execShldImm rm reg count s
  | .shldCl rm reg => Sys2Proof.Machine.execShldCl rm reg s
  | .shrdImm rm reg count => Sys2Proof.Machine.execShrdImm rm reg count s
  | .shrdCl rm reg => Sys2Proof.Machine.execShrdCl rm reg s
  | .andRmReg d w rm reg => Sys2Proof.Machine.execAndRmReg d w rm reg s
  | .andRmImm w rm imm => Sys2Proof.Machine.execAndRmImm w rm imm s
  | .andRmImm8 rm imm => Sys2Proof.Machine.execAndRmImm8 rm imm s
  | .andAccImm w imm => Sys2Proof.Machine.execAndAccImm w imm s
  | .orRmReg d w rm reg => Sys2Proof.Machine.execOrRmReg d w rm reg s
  | .orRmImm w rm imm => Sys2Proof.Machine.execOrRmImm w rm imm s
  | .orRmImm8 rm imm => Sys2Proof.Machine.execOrRmImm8 rm imm s
  | .orAccImm w imm => Sys2Proof.Machine.execOrAccImm w imm s
  | .xorRmReg d w rm reg => Sys2Proof.Machine.execXorRmReg d w rm reg s
  | .xorRmImm w rm imm => Sys2Proof.Machine.execXorRmImm w rm imm s
  | .xorRmImm8 rm imm => Sys2Proof.Machine.execXorRmImm8 rm imm s
  | .xorAccImm w imm => Sys2Proof.Machine.execXorAccImm w imm s
  | .testRmReg w rm reg => Sys2Proof.Machine.execTestRmReg w rm reg s
  | .testRmImm w rm imm => Sys2Proof.Machine.execTestRmImm w rm imm s
  | .testAccImm w imm => Sys2Proof.Machine.execTestAccImm w imm s
  | .notRm w rm => Sys2Proof.Machine.execNotRm w rm s
  | .cmps w => Sys2Proof.Machine.execCmps w s
  | .ins w => Sys2Proof.Machine.execIns w s
  | .lods w => Sys2Proof.Machine.execLods w s
  | .movs w => Sys2Proof.Machine.execMovs w s
  | .outs w => Sys2Proof.Machine.execOuts w s
  | .scas w => Sys2Proof.Machine.execScas w s
  | .stos w => Sys2Proof.Machine.execStos w s
  | .xlat => Sys2Proof.Machine.execXlat s
  | .repPrefix => Sys2Proof.Machine.execRepPrefix s
  | .repnePrefix => Sys2Proof.Machine.execRepnePrefix s
  | .bsf dst src => Sys2Proof.Machine.execBsf dst src s
  | .bsr dst src => Sys2Proof.Machine.execBsr dst src s
  | .btImm rm off => Sys2Proof.Machine.execBtImm rm off s
  | .btReg rm reg => Sys2Proof.Machine.execBtReg rm reg s
  | .btcImm rm off => Sys2Proof.Machine.execBtcImm rm off s
  | .btcReg rm reg => Sys2Proof.Machine.execBtcReg rm reg s
  | .btrImm rm off => Sys2Proof.Machine.execBtrImm rm off s
  | .btrReg rm reg => Sys2Proof.Machine.execBtrReg rm reg s
  | .btsImm rm off => Sys2Proof.Machine.execBtsImm rm off s
  | .btsReg rm reg => Sys2Proof.Machine.execBtsReg rm reg s
  | .callRel disp => Sys2Proof.Machine.execCallRel disp s
  | .callRm target => Sys2Proof.Machine.execCallRm target s
  | .jmpShort disp => Sys2Proof.Machine.execJmpShort disp s
  | .jmpRel disp => Sys2Proof.Machine.execJmpRel disp s
  | .jmpRm target => Sys2Proof.Machine.execJmpRm target s
  | .retNear => Sys2Proof.Machine.execRetNear s
  | .retNearImm bytes => Sys2Proof.Machine.execRetNearImm bytes s
  | .jccShort c disp => Sys2Proof.Machine.execJccShort c disp s
  | .jccNear c disp => Sys2Proof.Machine.execJccNear c disp s
  | .jcxz disp => Sys2Proof.Machine.execJcxz disp s
  | .loop disp => Sys2Proof.Machine.execLoop disp s
  | .loopz disp => Sys2Proof.Machine.execLoopz disp s
  | .loopnz disp => Sys2Proof.Machine.execLoopnz disp s
  | .callFar off sel => Sys2Proof.Machine.execCallFar off sel s
  | .callFarMem target => Sys2Proof.Machine.execCallFarMem target s
  | .jmpFar off sel => Sys2Proof.Machine.execJmpFar off sel s
  | .jmpFarMem target => Sys2Proof.Machine.execJmpFarMem target s
  | .retFar => Sys2Proof.Machine.execRetFar s
  | .retFarImm bytes => Sys2Proof.Machine.execRetFarImm bytes s
  | .setcc c dst => Sys2Proof.Machine.execSetcc c dst s
  | .enter size level => Sys2Proof.Machine.execEnter size level s
  | .leave => Sys2Proof.Machine.execLeave s
  | .int vector => Sys2Proof.Machine.execInt vector s
  | .int3 => Sys2Proof.Machine.execInt3 s
  | .into => Sys2Proof.Machine.execInto s
  | .bound index bounds => Sys2Proof.Machine.execBound index bounds s
  | .iret => Sys2Proof.Machine.execIret s
  | .hlt => Sys2Proof.Machine.execHlt s
  | .movCrReg dst src => Sys2Proof.Machine.execMovCrReg dst src s
  | .movRegCr dst src => Sys2Proof.Machine.execMovRegCr dst src s
  | .movDrReg dst src => Sys2Proof.Machine.execMovDrReg dst src s
  | .movRegDr dst src => Sys2Proof.Machine.execMovRegDr dst src s
  | .movTrReg dst src => Sys2Proof.Machine.execMovTrReg dst src s
  | .movRegTr dst src => Sys2Proof.Machine.execMovRegTr dst src s
  | .nop => Sys2Proof.Machine.execNop s
  | .wait => Sys2Proof.Machine.execWait s
  | .esc ttt lll rm => Sys2Proof.Machine.execEsc ttt lll rm s
  | .addressSizePrefix => Sys2Proof.Machine.execAddressSizePrefix s
  | .lockPrefix => Sys2Proof.Machine.execLockPrefix s
  | .operandSizePrefix => Sys2Proof.Machine.execOperandSizePrefix s
  | .csPrefix => Sys2Proof.Machine.execCsPrefix s
  | .dsPrefix => Sys2Proof.Machine.execDsPrefix s
  | .esPrefix => Sys2Proof.Machine.execEsPrefix s
  | .fsPrefix => Sys2Proof.Machine.execFsPrefix s
  | .gsPrefix => Sys2Proof.Machine.execGsPrefix s
  | .ssPrefix => Sys2Proof.Machine.execSsPrefix s
  | .arpl dst src => Sys2Proof.Machine.execArpl dst src s
  | .lar dst src => Sys2Proof.Machine.execLar dst src s
  | .lgdt src => Sys2Proof.Machine.execLgdt src s
  | .lidt src => Sys2Proof.Machine.execLidt src s
  | .lldt src => Sys2Proof.Machine.execLldt src s
  | .lmsw src => Sys2Proof.Machine.execLmsw src s
  | .lsl dst src => Sys2Proof.Machine.execLsl dst src s
  | .ltr src => Sys2Proof.Machine.execLtr src s
  | .sgdt dst => Sys2Proof.Machine.execSgdt dst s
  | .sidt dst => Sys2Proof.Machine.execSidt dst s
  | .sldt dst => Sys2Proof.Machine.execSldt dst s
  | .smsw dst => Sys2Proof.Machine.execSmsw dst s
  | .str dst => Sys2Proof.Machine.execStr dst s
  | .verr src => Sys2Proof.Machine.execVerr src s
  | .verw src => Sys2Proof.Machine.execVerw src s

end Sys2Proof.Machine
end

