-- ==== Sys2Proof/Machine/Step.lean ====
section
/-! DEFINITION. One step of the machine (60_exceptions.md R615), and the placing of a table row's word where the next step
fetches. -/

namespace Sys2Proof.Machine

/-- One step: the events at the boundary, or the next instruction with its prefixes. -/
def step (s : State) : Host.Outcome State Fault Refusal :=
  stepWith (runNext exec) s

/-- The state with the instruction of a table row, followed by zeros, where the next step fetches (log 6, 7). -/
def State.withFetchWord (s : State) (nbits w : Nat) : State :=
  State.placeCode { s with queue := [], prefetch := [], pgSwitch := none } 0 (tableWordBytes nbits w)

end Sys2Proof.Machine
end

