-- ==== Sys2Proof/Safety.lean ====
section
/-! DEFINITION. The terms the statements use: well-formed states, runs, and what an access reads and leaves with paging
off. -/

namespace Sys2Proof.Machine

/-! ## Well-formed states -/

/-- Memory is canonical, the TLB holds at most 32 entries (R134), the prefetch queue at most 16 bytes in words (R7, R71), the low
bits of CR3 are zero (R61). -/
def State.wf (s : State) : Bool :=
  s.mem.wf && decide (s.tlb.length ≤ Config.tlbSize) && decide (s.queue.length * Config.fetchBytes ≤ Config.queueBytes) &&
    s.cpu.cr3.extractLsb' 0 12 == 0

/-- The mode bits are legal: paging and Virtual 8086 Mode need Protected Mode (R49, R58), Virtual 8086 Mode runs at CPL 3, Real
Mode at CPL 0 (R49, R56). -/
def Cpu.legalMode (c : Cpu) : Bool :=
  (!c.cr0.pg || c.cr0.pe) && (!c.flags.vm || (c.cr0.pe && c.cpl == 3)) && (c.cr0.pe || c.cpl == 0)

/-- No instruction is half decoded: what every step leaves behind (log 8). -/
def State.atRest (s : State) : Bool := s.cpu.cur == Current.none

/-- What every step keeps. -/
def State.Inv (s : State) : Prop := s.wf = true ∧ s.cpu.legalMode = true ∧ s.atRest = true

/-- The state after `n` steps, while each answers a next state. -/
def runSteps : Nat → State → Option State
  | 0, s => some s
  | n + 1, s =>
    match step s with
    | .next s' => runSteps n s'
    | .fault _ => none
    | .refused _ => none

/-! ## When an instruction executes -/

/-- The decode checks let the instruction run: no exception 6, no privilege violation (R241 to R245). -/
def State.mayRun (i : Instr) (s : State) : Bool :=
  !decodeFault i s.cpu && !((modeRule i).privileged? && s.cpu.cpl != 0)

/-- The instruction may run and the next sequential offset needs no carry (R35, U29). -/
def State.ready (i : Instr) (s : State) : Bool := s.mayRun i && !s.cpu.wraps

/-! ## Registers and flags of a state -/

/-- A general register of a size. -/
def State.reg (s : State) (sz : Sz) (r : Reg) : BitVec sz.bits := s.cpu.gpr.read sz r

/-- The state with a general register written. -/
def State.withReg (s : State) (sz : Sz) (r : Reg) (v : BitVec sz.bits) : State :=
  { s with cpu := { s.cpu with gpr := s.cpu.gpr.write sz r v } }

/-- The state with the flags replaced. -/
def State.withFlags (s : State) (f : EFlags) : State := { s with cpu := { s.cpu with flags := f } }

/-- The state with the processor changed. -/
def State.mapCpu (s : State) (f : Cpu → Cpu) : State := { s with cpu := f s.cpu }

/-- The free value the next draw takes (log 4). -/
def State.freeVal (s : State) : Dword := Config.freeValue s.free

/-- The state after a draw. -/
def State.drawn (s : State) : State := { s with free := s.free + 1 }

/-! ## Memory accesses with paging off (R112, R115, R116) -/

/-- The segment allows the access. -/
def Cpu.allows (c : Cpu) (r : SReg) (off : Dword) (n : Nat) (acc : Access) : Bool :=
  if c.prot then
    (c.segs.get r).valid && rightsOk (c.segs.get r) acc && inLimit (c.segs.get r) off n
  else decide (off.toNat + n - 1 ≤ (c.segs.get r).limit.toNat)

/-- The linear address of an offset in a segment. -/
def Cpu.linear (c : Cpu) (r : SReg) (off : Dword) : Dword := (c.segs.get r).base + off

/-- Paging is off and the segment allows the access. -/
def State.canAccess (s : State) (r : SReg) (off : Dword) (n : Nat) (acc : Access) : Bool :=
  !s.cpu.cr0.pg && s.cpu.allows r off n acc

/-- The physical bytes of an operand with paging off. -/
def physBytes (la : Dword) (n : Nat) : List PAddr := (addrsFrom la n).map (BitVec.setWidth 24)

/-- The value at a linear address. -/
def State.loadAt (s : State) (la : Dword) (sz : Sz) : BitVec sz.bits :=
  ofBytes sz ((physBytes la sz.bytes).map s.mem.read)

/-- The data breakpoints an access matches are noted (R672). -/
def State.hit (s : State) (la : Dword) (n : Nat) (write : Bool) : State :=
  { s with cpu := { s.cpu with cur := { s.cpu.cur with
      hits := joinCauses s.cpu.cur.hits (dataBreaks s.cpu.dbg la n write) } } }

/-- The state after the processor reads `n` bytes on its own account: a data read on the bus (R742), no breakpoint. -/
def State.sysLoaded (s : State) (la : Dword) (n : Nat) : State := s.traced (.memRead false (s.mem.cellsAt (physBytes la n)))

/-- The state after the program reads `n` bytes at a linear address: the breakpoints it matches (R672), its data read on the
bus (R742). -/
def State.noted (s : State) (la : Dword) (n : Nat) : State := (s.hit la n false).sysLoaded la n

/-- The state after the processor stores on its own account: no breakpoint record changes. -/
def State.sysStored (s : State) (la : Dword) (sz : Sz) (v : BitVec sz.bits) : State :=
  (s.storeAll (physBytes la sz.bytes) (toBytes sz v)).traced (.memWrite ((physBytes la sz.bytes).zip (toBytes sz v)))

/-- The state after a store of the program at a linear address. -/
def State.storedAt (s : State) (la : Dword) (sz : Sz) (v : BitVec sz.bits) : State :=
  (s.hit la sz.bytes true).sysStored la sz v

/-! ## Memory operands -/

/-- The offset `k` bytes above the effective address. -/
def State.memOff (s : State) (m : Mem) (k : Dword) : Dword := memWrap m (memOffset s.cpu.gpr m + k)

/-- The linear address `k` bytes above the effective address. -/
def State.memLinear (s : State) (m : Mem) (k : Dword) : Dword :=
  s.cpu.linear (memSegment s.cpu m) (s.memOff m k)

/-- The memory operand can be accessed. -/
def State.memCan (s : State) (m : Mem) (k : Dword) (n : Nat) (acc : Access) : Bool :=
  s.canAccess (memSegment s.cpu m) (s.memOff m k) n acc

/-- The r/m operand can be read. -/
def State.canRead (s : State) (sz : Sz) : RM → Bool
  | .reg _ => true
  | .mem m => s.memCan m 0 sz.bytes .read

/-- The r/m operand can be read and written. -/
def State.canWrite (s : State) (sz : Sz) : RM → Bool
  | .reg _ => true
  | .mem m => s.memCan m 0 sz.bytes .write

/-- The value of the r/m operand. -/
def State.rmValue (s : State) (sz : Sz) : RM → BitVec sz.bits
  | .reg r => s.reg sz r
  | .mem m => s.loadAt (s.memLinear m 0) sz

/-- The state after the r/m operand is read. -/
def State.rmRead (s : State) (sz : Sz) : RM → State
  | .reg _ => s
  | .mem m => s.noted (s.memLinear m 0) sz.bytes

/-- The bus after the r/m operand is read: what stays of the read when the instruction raises an exception (R603). -/
def State.rmLoaded (s : State) (sz : Sz) : RM → State
  | .reg _ => s
  | .mem m => s.sysLoaded (s.memLinear m 0) sz.bytes

/-- The state after the r/m operand is written. -/
def State.rmWritten (s : State) (sz : Sz) (rm : RM) (v : BitVec sz.bits) : State :=
  match rm with
  | .reg r => s.withReg sz r v
  | .mem m => s.storedAt (s.memLinear m 0) sz v

/-- The physical bytes a store to the r/m operand writes: none for a register. -/
def State.rmStores (s : State) (sz : Sz) : RM → List PAddr
  | .reg _ => []
  | .mem m => physBytes (s.memLinear m 0) sz.bytes

/-! ## The stack -/

/-- The linear address of the stack pointer plus `k`. -/
def State.stackLinear (s : State) (k : Dword) : Dword := s.cpu.linear .ss (s.cpu.spPlus k)

/-- An item can be pushed: it does not straddle the Real Mode wrap and the stack segment allows it. -/
def State.canPush (s : State) (sz : Sz) : Bool :=
  !s.cpu.pushShutsDown sz.bytes && s.canAccess .ss (s.cpu.spPlus (- BitVec.ofNat 32 sz.bytes)) sz.bytes .write

/-- The state after a push (R270). -/
def State.pushed (s : State) (sz : Sz) (v : BitVec sz.bits) : State :=
  (s.storedAt (s.stackLinear (- BitVec.ofNat 32 sz.bytes)) sz v).mapCpu fun c =>
    c.withSp (s.cpu.spPlus (- BitVec.ofNat 32 sz.bytes))

/-- The item `k` bytes above the stack pointer can be read. -/
def State.canPeek (s : State) (sz : Sz) (k : Dword) : Bool := s.canAccess .ss (s.cpu.spPlus k) sz.bytes .read

/-- The item `k` bytes above the stack pointer. -/
def State.peek (s : State) (sz : Sz) (k : Dword) : BitVec sz.bits := s.loadAt (s.stackLinear k) sz

/-- The state after a pop (R270). -/
def State.popped (s : State) (sz : Sz) : State :=
  (s.noted (s.stackLinear 0) sz.bytes).mapCpu fun c => c.withSp (s.cpu.spPlus (BitVec.ofNat 32 sz.bytes))

/-- The state after a list of pushes, the first of the list pushed first. -/
def State.pushedAll (s : State) (sz : Sz) : List (BitVec sz.bits) → State
  | [] => s
  | v :: rest => (s.pushed sz v).pushedAll sz rest

/-- A list of items can be pushed. -/
def State.canPushAll (s : State) (sz : Sz) : List (BitVec sz.bits) → Bool
  | [] => true
  | v :: rest => s.canPush sz && (s.pushed sz v).canPushAll sz rest

/-- The state after items are popped into registers; `none` discards one. -/
def State.poppedInto (s : State) (sz : Sz) : List (Option Reg) → State
  | [] => s
  | none :: rest => (s.popped sz).poppedInto sz rest
  | some r :: rest => ((s.popped sz).withReg sz r (s.peek sz 0)).poppedInto sz rest

/-- Items can be popped into registers. -/
def State.canPopInto (s : State) (sz : Sz) : List (Option Reg) → Bool
  | [] => true
  | none :: rest => s.canPeek sz 0 && (s.popped sz).canPopInto sz rest
  | some r :: rest => s.canPeek sz 0 && ((s.popped sz).withReg sz r (s.peek sz 0)).canPopInto sz rest

/-- A selector as an item of a size: the upper half of a dword is the next free value (R274, U5). -/
def State.selectorAs (s : State) (sz : Sz) (sel : Word) : BitVec sz.bits :=
  ((if sz = .d then s.freeVal.extractLsb' 16 16 else 0) ++ sel).setWidth sz.bits

/-- The state after a selector was made an item: a dword has drawn a free value. -/
def State.selectorDrawn (s : State) (sz : Sz) : State := if sz = .d then s.drawn else s

/-- The state after a selector is pushed (R274). -/
def State.pushedSelector (s : State) (sz : Sz) (sel : Word) : State :=
  (s.selectorDrawn sz).pushed sz (s.selectorAs sz sel)

/-! ## Segment registers, tables and I/O -/

/-- The state with a segment register replaced. -/
def State.withSeg (s : State) (r : SReg) (g : SegReg) : State :=
  s.mapCpu fun c => { c with segs := c.segs.set r g }

/-- What an 8086-style load puts into a segment register (R55). -/
def State.seg8086 (s : State) (r : SReg) (sel : Word) : SegReg :=
  if s.cpu.real then (s.cpu.segs.get r).realLoad sel else v86Segment r sel

/-- The descriptor at a linear address with paging off (R120). -/
def State.descAt (s : State) (la : Dword) : Desc := ⟨s.loadAt la .d, s.loadAt (la + 4) .d⟩

/-- The state after a descriptor is read. -/
def State.descLoaded (s : State) (la : Dword) : State := (s.sysLoaded la 4).sysLoaded (la + 4) 4

/-- The state after the descriptor of a selector is looked up: a null selector, and one outside its table, read nothing (R120,
R541). -/
def State.descSeen (s : State) (sel : Word) : State :=
  if isNull sel then s
  else
    match descriptorAddr s.cpu sel with
    | none => s
    | some la => s.descLoaded la

/-- The state after the Accessed bit of a descriptor is set, where it was clear (R122). -/
def State.marked (s : State) (la : Dword) (d : Desc) : State :=
  if d.accessed then s else s.sysStored (la + 5) .b (d.hi.extractLsb' 8 8 ||| 1)

/-- The descriptor a selector names; none for a null selector or one outside its table (R120, R541). -/
def State.descOf (s : State) (sel : Word) : Option Desc :=
  if isNull sel then none else (descriptorAddr s.cpu sel).map s.descAt

/-- The ports may be accessed without the permission map (R138). -/
def Cpu.ioFree (c : Cpu) : Bool := c.real || (c.prot && decide (c.cpl ≤ c.flags.iopl))

/-- The offset in the current TSS of the byte that holds the permission bit of a port (R138). -/
def State.ioMapOffset (s : State) (port : Nat) : Nat := (s.loadAt (s.cpu.tr.base + 0x66) .w).toNat + port / 8

/-- The linear address of that byte. -/
def State.ioMapLinear (s : State) (port : Nat) : Dword := s.cpu.tr.base + BitVec.ofNat 32 (s.ioMapOffset port)

/-- The map spans the port and its bit is 0 (R138). -/
def State.ioPortClear (s : State) (port : Nat) : Bool :=
  decide (s.ioMapOffset port ≤ s.cpu.tr.limit.toNat) && !(s.loadAt (s.ioMapLinear port) .b).getLsbD (port % 8)

/-- The state after the permission bits of `n` ports are read, up to the first that denies (R138). -/
def State.ioBitsRead (s : State) (port : Nat) : Nat → State
  | 0 => s
  | n + 1 =>
    if s.ioMapOffset port ≤ s.cpu.tr.limit.toNat then
      if s.ioPortClear port then (s.sysLoaded (s.ioMapLinear port) 1).ioBitsRead (port + 1) n
      else s.sysLoaded (s.ioMapLinear port) 1
    else s

/-- The `n` ports from `port` on may be accessed: without the map, or by the map of an 80386SX TSS (R138). -/
def State.ioPermits (s : State) (port : Word) (n : Nat) : Bool :=
  s.cpu.ioFree || (s.cpu.tr.is386 && (List.range n).all fun i => s.ioPortClear (port.toNat + i))

/-- The state after the processor has looked whether the ports may be accessed, with paging off (R138). -/
def State.ioChecked (s : State) (port : Word) (n : Nat) : State :=
  if s.cpu.ioFree || !s.cpu.tr.is386 then s
  else (s.sysLoaded (s.cpu.tr.base + 0x66) 2).ioBitsRead port.toNat n

/-- The value the next I/O read answers; free where the environment scripts none (D9; log 11). -/
def State.ioAnswer (s : State) : Dword :=
  match s.env.ioIn with
  | v :: _ => v
  | [] => s.freeVal

/-- The state after an I/O read (R136). -/
def State.afterIoRead (s : State) (port : Word) (sz : Sz) : State :=
  let t := match s.env.ioIn with
    | _ :: rest => { s with env := { s.env with ioIn := rest } }
    | [] => s.drawn
  t.traced (.ioRead port sz.bytes ((s.ioAnswer.setWidth sz.bits).setWidth 32))

/-- The state after an I/O write (R136). -/
def State.afterIoWrite (s : State) (port : Word) (sz : Sz) (v : BitVec sz.bits) : State :=
  s.traced (.ioWrite port sz.bytes (v.setWidth 32))

/-! ## String operands and stored selectors -/

/-- The state with an index register of the address size stepped by the operand size, up or down by DF (R410). -/
def State.stepped (s : State) (r : Reg) (sz : Sz) : State :=
  s.mapCpu fun c => c.withIndex r (c.index r + c.delta sz)

/-- The state after a selector is stored: 2 bytes of memory, or a register whose upper half is free (R552, U5). -/
def State.selectorStored (s : State) (rm : RM) (v : Word) : State :=
  match rm with
  | .reg r => (s.selectorDrawn s.cpu.osz).withReg s.cpu.osz r (s.selectorAs s.cpu.osz v)
  | .mem m => s.storedAt (s.memLinear m 0) .w v

/-! ## Transfers of control -/

/-- An 8086-style load of CS and EIP: a far transfer in Real and Virtual 8086 Mode (R55, R462). -/
def State.enteredCode8086 (s : State) (sel : Word) (off : Dword) : State :=
  { s.withSeg .cs (s.seg8086 .cs sel) with
    cpu := { (s.withSeg .cs (s.seg8086 .cs sel)).cpu with eip := off }, queue := [], prefetch := [], pgSwitch := none }

/-- CS loaded from a checked code segment at a privilege level, and EIP (R457, R639). -/
def State.enteredCode (s : State) (sel : Word) (la : Dword) (d : Desc) (level : BitVec 2) (off : Dword) : State :=
  { (s.marked la d).mapCpu (fun c => { c with
      segs := c.segs.set .cs (d.cache (withRpl sel level)), cpl := level, eip := off }) with queue := [], prefetch := [], pgSwitch := none }

/-- The state after CS and a return offset are pushed (R452). -/
def State.returnPushed (s : State) (sz : Sz) (ret : Dword) : State :=
  (s.pushedSelector sz s.cpu.segs.cs.selector).pushed sz (ret.setWidth sz.bits)

/-- CS and a return offset can be pushed. -/
def State.canPushReturn (s : State) (sz : Sz) : Bool :=
  s.canPush sz && (s.pushedSelector sz s.cpu.segs.cs.selector).canPush sz

/-- The linear address of the gate of a vector (R633). -/
def State.gateAddr (s : State) (vector : Byte) : Dword := s.cpu.idtr.base + (vector.setWidth 32 <<< 3)

/-- The state after EFLAGS with the RF given, CS, the return offset and the error code are pushed as dwords (R635). -/
def State.framePushed (s : State) (rf : Bool) (ret : Dword) (code : Option Word) : State :=
  let t := (s.pushed .d ({ s.cpu.flags with rf := rf }.image .d)).returnPushed .d ret
  match code with
  | some v => t.pushedSelector .d v
  | none => t

/-- The frame can be pushed. -/
def State.canPushFrame (s : State) (rf : Bool) (ret : Dword) (code : Option Word) : Bool :=
  let t := s.pushed .d ({ s.cpu.flags with rf := rf }.image .d)
  s.canPush .d && t.canPushReturn .d && (code.isNone || (t.returnPushed .d ret).canPush .d)

/-- The state after entry through an 80386SX gate `g` to the code segment `d` at `cla`, of the same level: the gate and the
descriptor are read, the frame is pushed, CS:EIP comes from the gate; TF, NT, VM and RF are cleared, IF through an interrupt
gate alone (R632 to R635, D20). -/
def State.gateEntered (s : State) (vector : Byte) (rf : Bool) (ret : Dword) (code : Option Word) (cla : Dword) : State :=
  let g := s.descAt (s.gateAddr vector)
  ((((s.descLoaded (s.gateAddr vector)).descLoaded cla).framePushed rf ret code).enteredCode g.gateSelector cla
    (s.descAt cla) s.cpu.cpl g.gateOffset).mapCpu fun c => { c with
      flags := { c.flags with
        tf := false, nt := false, vm := false, rf := false, intf := c.flags.intf && g.type == 0xF }
      run := .running }

/-- With paging off, the gate of a vector is present, of 80386SX format, and leads to a present code segment of the same level
at `cla`, whose limit and whose stack hold what is needed (R633 to R635). -/
def State.canEnterGate (s : State) (vector : Byte) (rf : Bool) (ret : Dword) (code : Option Word) (cla : Dword) : Bool :=
  let g := s.descAt (s.gateAddr vector)
  let d := s.descAt cla
  s.cpu.prot && !s.cpu.cr0.pg && !s.cpu.peSwitched &&
    decide ((vector.setWidth 32 <<< 3 : Dword).toNat + 7 ≤ s.cpu.idtr.limit.toNat) &&
    !g.s && (g.type == 0xE || g.type == 0xF) && g.present && !isNull g.gateSelector &&
    descriptorAddr s.cpu g.gateSelector == some cla && d.isCode && d.present && decide (d.dpl ≤ s.cpu.cpl) &&
    (d.ec || d.dpl == s.cpu.cpl) && decide (g.gateOffset ≤ d.limit) &&
    stackRoom true s.cpu.segs.ss s.cpu.sp (if code.isSome then 4 else 3) 4 &&
    ((s.descLoaded (s.gateAddr vector)).descLoaded cla).canPushFrame rf ret code

/-- The state after the processor reads the four bytes of a Real Mode vector: its offset, then its segment (R621). -/
def State.vectorLoaded (s : State) (vector : Byte) : State :=
  let la := s.cpu.idtr.base + (vector.setWidth 32 <<< 2)
  (s.sysLoaded la 2).sysLoaded (la + 2) 2

/-- Real Mode entry through a vector: FLAGS, CS and IP are pushed, IF, TF and NT cleared, CS:IP loaded from the vector table (R47,
R621, R622). -/
def State.realEntered (s : State) (vector : Byte) (ret : Dword) : State :=
  let la := s.cpu.idtr.base + (vector.setWidth 32 <<< 2)
  let t := (s.vectorLoaded vector).pushedAll .w [s.cpu.flags.image16, s.cpu.segs.cs.selector, ret.setWidth 16]
  { t with
    cpu := { t.cpu with
      flags := { s.cpu.flags with intf := false, tf := false, nt := false }
      segs := t.cpu.segs.set .cs (s.cpu.segs.cs.realLoad (s.loadAt (la + 2) .w))
      eip := (s.loadAt la .w).setWidth 32
      run := .running }
    queue := []
    prefetch := []
    pgSwitch := none }

/-- Real Mode entry through a vector finds its table entry and room on the stack. -/
def State.canEnterReal (s : State) (vector : Byte) (ret : Dword) : Bool :=
  s.cpu.real && !s.cpu.cr0.pg && !s.cpu.peSwitched &&
    decide ((vector.setWidth 32 <<< 2 : Dword).toNat + 3 ≤ s.cpu.idtr.limit.toNat) &&
    (s.vectorLoaded vector).canPushAll .w [s.cpu.flags.image16, s.cpu.segs.cs.selector, ret.setWidth 16]

/-- The state with CR2, DR6 and DR7 as an exception leaves them before its delivery: one that sets DR6.BD, bit 13, clears DR7.GD,
bit 13 (R135, R516, R671). -/
def State.withExc (s : State) (e : Exc) : State :=
  s.mapCpu fun c => { c with
    cr2 := e.cr2.getD c.cr2
    dbg := { c.dbg with
      dr6 := c.dbg.dr6 ||| e.dr6
      dr7 := if e.dr6.getLsbD 13 then c.dbg.dr7 &&& 0xFFFFDFFF else c.dbg.dr7 } }

/-- Exception 1 clears DR7.GD (R674). -/
def State.withoutGd (s : State) (vector : Byte) : State :=
  s.mapCpu fun c => { c with
    dbg := if vector = 1 then { c.dbg with dr7 := c.dbg.dr7 &&& 0xFFFFDFFF } else c.dbg }

/-! ## Task switches -/

/-- The state after a row of stores of the processor. -/
def State.sysStoredAll (s : State) (sz : Sz) : List (Dword × BitVec sz.bits) → State
  | [] => s
  | (la, v) :: rest => (s.sysStored la sz v).sysStoredAll sz rest

/-- The state after the running task is saved in its 80386SX TSS, to go on at the next instruction (R126, R650 step 3). -/
def State.taskSaved (s : State) : State :=
  let b := s.cpu.tr.base
  let g := s.cpu.gpr
  let r := s.cpu.segs
  (s.sysStoredAll .d [(b + 0x20, s.cpu.next), (b + 0x24, s.cpu.flags.image32), (b + 0x28, g.eax), (b + 0x2C, g.ecx),
    (b + 0x30, g.edx), (b + 0x34, g.ebx), (b + 0x38, g.esp), (b + 0x3C, g.ebp), (b + 0x40, g.esi),
    (b + 0x44, g.edi)]).sysStoredAll .w [(b + 0x48, r.es.selector), (b + 0x4C, r.cs.selector), (b + 0x50, r.ss.selector),
      (b + 0x54, r.ds.selector), (b + 0x58, r.fs.selector), (b + 0x5C, r.gs.selector)]

/-- The state after the access rights byte of a descriptor is read and changed (R650 steps 4 and 6). -/
def State.rightsChanged (s : State) (la : Dword) (f : Byte → Byte) : State :=
  (s.sysLoaded (la + 5) 1).sysStored (la + 5) .b (f (s.loadAt (la + 5) .b))

/-- The state after JMP or CALL has left a task for the one with its TSS at `base` and its descriptor at `la`: the old task is
saved, JMP makes its descriptor at `old` not busy, CALL links the new task to it, and the new one is busy (R650 steps 3 to 6). -/
def State.taskLeft (s : State) (call : Bool) (base la old : Dword) : State :=
  (if call then s.taskSaved.sysStored base .w s.cpu.tr.selector
    else s.taskSaved.rightsChanged old (· &&& 0xFD)).rightsChanged la (· ||| 2)

/-! ## Frames of ENTER -/

/-- The linear address the frame pointer points at (R481). -/
def State.frameLinear (s : State) : Dword := s.cpu.linear .ss (s.cpu.stackWrap s.cpu.gpr.ebp)

/-- The state after one frame pointer is copied: the frame pointer goes down an item, and what it points at is pushed (R481). -/
def State.frameCopied (s : State) (sz : Sz) : State :=
  let t := s.mapCpu fun c => c.frameDown sz
  (t.noted t.frameLinear sz.bytes).pushed sz (t.loadAt t.frameLinear sz)

/-- The state after the frame pointers of `n` enclosing procedures are copied (R481). -/
def State.framesCopied (s : State) (sz : Sz) : Nat → State
  | 0 => s
  | n + 1 => (s.frameCopied sz).framesCopied sz n

/-- The state after ENTER pushes the new frame pointer: SP of a 16-bit stack segment leaves the upper half of a dword free
(R481; log 55). -/
def State.framePointerPushed (s : State) (sz : Sz) (frame : Dword) : State :=
  if s.cpu.segs.ss.big then s.pushed sz (frame.setWidth sz.bits) else s.pushedSelector sz (frame.setWidth 16)

/-- One frame pointer can be copied. -/
def State.canCopyFrame (s : State) (sz : Sz) : Bool :=
  let t := s.mapCpu fun c => c.frameDown sz
  t.canAccess .ss (t.cpu.stackWrap t.cpu.gpr.ebp) sz.bytes .read && (t.noted t.frameLinear sz.bytes).canPush sz

/-- The frame pointers of `n` enclosing procedures can be copied. -/
def State.canCopyFrames (s : State) (sz : Sz) : Nat → Bool
  | 0 => true
  | n + 1 => s.canCopyFrame sz && (s.frameCopied sz).canCopyFrames sz n

/-! ## Coprocessor operands -/

/-- The state after a word of the coprocessor operand is moved, `k` bytes above the effective address (R522, R524). -/
def State.coMoved (s : State) (m : Mem) (k : Dword) : CoRequest → State
  | .toMemory v => (s.traced (.coRead (coOperandPort k) v)).storedAt (s.memLinear m k) .w v
  | .fromMemory =>
    (s.noted (s.memLinear m k) 2).traced (.coWrite (coOperandPort k) (s.loadAt (s.memLinear m k) .w))

/-- The word can be moved. -/
def State.canCoMove (s : State) (m : Mem) (k : Dword) : CoRequest → Bool
  | .toMemory _ => s.memCan m k 2 .write
  | .fromMemory => s.memCan m k 2 .read

/-- The state after the words of the coprocessor operand are moved. -/
def State.coMovedAll (s : State) (m : Mem) : Dword → List CoRequest → State
  | _, [] => s
  | k, r :: rest => (s.coMoved m k r).coMovedAll m (k + 2) rest

/-- The words can be moved. -/
def State.canCoMoveAll (s : State) (m : Mem) : Dword → List CoRequest → Bool
  | _, [] => true
  | k, r :: rest => s.canCoMove m k r && (s.coMoved m k r).canCoMoveAll m (k + 2) rest

/-- The state after the opcode is sent to the coprocessor (R522, R524). -/
def State.coSent (s : State) (ttt lll : BitVec 3) (rm : RM) : State :=
  { s with env := { s.env with trace := .coOpcode ttt lll rm :: s.env.trace, coRequests := [] } }

/-! ## What an instruction leaves alone -/

/-- Every byte outside the stored ones, every general register outside the written ones, and everything else but flags, EIP,
the free values, the record of bus events and the bookkeeping of the boundary are as before. -/
def State.sameBut (s t : State) (stores : List PAddr) (regs : List Reg) : Prop :=
  (∀ a, a ∉ stores → t.mem.read a = s.mem.read a) ∧ (∀ r, r ∉ regs → t.cpu.gpr.get r = s.cpu.gpr.get r) ∧
    t.cpu.segs = s.cpu.segs ∧ t.cpu.cpl = s.cpu.cpl ∧ t.cpu.cr0 = s.cpu.cr0 ∧ t.cpu.cr2 = s.cpu.cr2 ∧
    t.cpu.cr3 = s.cpu.cr3 ∧ t.cpu.gdtr = s.cpu.gdtr ∧ t.cpu.idtr = s.cpu.idtr ∧ t.cpu.ldtr = s.cpu.ldtr ∧
    t.cpu.tr = s.cpu.tr ∧ t.cpu.dbg = s.cpu.dbg ∧ t.cpu.test = s.cpu.test ∧ t.cpu.run = s.cpu.run ∧
    t.cpu.nmiInService = s.cpu.nmiInService ∧ t.cpu.nmiPending = s.cpu.nmiPending ∧ t.cpu.nmiLevel = s.cpu.nmiLevel ∧
    t.cpu.peSwitched = s.cpu.peSwitched ∧ t.tlb = s.tlb ∧
    { t.env with trace := [] } = { s.env with trace := [] }

/-- The control flags are as before and RF is clear (R48). -/
def EFlags.controlSame (f g : EFlags) : Prop :=
  g.tf = f.tf ∧ g.intf = f.intf ∧ g.df = f.df ∧ g.iopl = f.iopl ∧ g.nt = f.nt ∧ g.vm = f.vm ∧ g.rf = false

/-- The registers a write of a size and number touches (R32, R212). -/
def writtenReg (sz : Sz) (r : Reg) : Reg := if sz = .b then byteHome r else r

/-- The registers a write to an r/m operand touches. -/
def rmWrites (sz : Sz) : RM → List Reg
  | .reg r => [writtenReg sz r]
  | .mem _ => []

/-- Which of the six status flags an instruction may change. -/
inductive StatusChange where
  | none
  | cfOnly
  | cfOf
  | butCf
  | butOf
  | all
  deriving DecidableEq, Repr

/-- The status flags that may not change do not. -/
def StatusChange.respects (k : StatusChange) (f g : EFlags) : Prop :=
  match k with
  | .none => g.cf = f.cf ∧ g.pf = f.pf ∧ g.af = f.af ∧ g.zf = f.zf ∧ g.sf = f.sf ∧ g.ovf = f.ovf
  | .cfOnly => g.pf = f.pf ∧ g.af = f.af ∧ g.zf = f.zf ∧ g.sf = f.sf ∧ g.ovf = f.ovf
  | .cfOf => g.pf = f.pf ∧ g.af = f.af ∧ g.zf = f.zf ∧ g.sf = f.sf
  | .butCf => g.cf = f.cf
  | .butOf => g.ovf = f.ovf
  | .all => True

/-- What an instruction may touch: whether its accesses are allowed, the bytes it stores to, the registers and the status flags
it may change. -/
structure Footprint where
  allowed : Bool
  stores : List PAddr
  regs : List Reg
  status : StatusChange
  deriving DecidableEq, Repr

/-- The footprint of an instruction that reads and writes its r/m operand. -/
def ofWrite (s : State) (sz : Sz) (rm : RM) (k : StatusChange) : Option Footprint :=
  some ⟨s.canWrite sz rm, s.rmStores sz rm, rmWrites sz rm, k⟩

/-- The footprint of an instruction that reads its r/m operand and writes registers. -/
def ofRead (s : State) (sz : Sz) (rm : RM) (regs : List Reg) (k : StatusChange) : Option Footprint :=
  some ⟨s.canRead sz rm, [], regs, k⟩

/-- The footprint of an instruction whose direction bit picks its destination. -/
def ofPair (s : State) (d : Bool) (sz : Sz) (rm : RM) (reg : Reg) (k : StatusChange) : Option Footprint :=
  if d then ofRead s sz rm [writtenReg sz reg] k else ofWrite s sz rm k

/-- The footprint of an instruction that pushes an item of the operand size. -/
def ofPush (s : State) (allowed : Bool) : Option Footprint :=
  some ⟨allowed && s.canPush s.cpu.osz,
    physBytes (s.stackLinear (- BitVec.ofNat 32 s.cpu.osz.bytes)) s.cpu.osz.bytes, [.esp], .none⟩

/-- The footprint of the data transfer, arithmetic, logic, string and bit instructions that transfer no control and write no
segment, control or system register, from the rules of each; none for the others and for BT with a register offset. -/
def footprint (i : Instr) (s : State) : Option Footprint :=
  match i with
  | .movRmReg w rm _ => ofWrite s (s.cpu.size w) rm .none
  | .movRegRm w reg rm => ofRead s (s.cpu.size w) rm [writtenReg (s.cpu.size w) reg] .none
  | .movRmImm w rm _ => ofWrite s (s.cpu.size w) rm .none
  | .movRegImm w reg _ => some ⟨true, [], [writtenReg (s.cpu.size w) reg], .none⟩
  | .movAccMoffs w off =>
    some ⟨s.canAccess s.cpu.stringSegment (immOffset off) (s.cpu.size w).bytes .read, [], [.eax], .none⟩
  | .movMoffsAcc w off =>
    some ⟨s.canAccess s.cpu.stringSegment (immOffset off) (s.cpu.size w).bytes .write,
      physBytes (s.cpu.linear s.cpu.stringSegment (immOffset off)) (s.cpu.size w).bytes, [], .none⟩
  | .movsx w reg rm => ofRead s (if w then .w else .b) rm [reg] .none
  | .movzx w reg rm => ofRead s (if w then .w else .b) rm [reg] .none
  | .xchgRmReg w rm reg =>
    some ⟨s.canWrite (s.cpu.size w) rm, s.rmStores (s.cpu.size w) rm,
      rmWrites (s.cpu.size w) rm ++ [writtenReg (s.cpu.size w) reg], .none⟩
  | .xchgRegAcc reg => some ⟨true, [], [.eax, reg], .none⟩
  | .lea reg _ => some ⟨true, [], [reg], .none⟩
  | .pushReg _ => ofPush s true
  | .pushRm rm => ofPush s (s.canRead s.cpu.osz rm)
  | .pushImm _ _ => ofPush s true
  | .pushSreg _ => ofPush s true
  | .pushFs => ofPush s true
  | .pushGs => ofPush s true
  | .pushf => ofPush s (!(s.cpu.v86 && s.cpu.flags.iopl != 3))
  | .popReg reg => some ⟨s.canPeek s.cpu.osz 0, [], [.esp, reg], .none⟩
  | .popRm rm =>
    some ⟨s.canPeek s.cpu.osz 0 && (s.popped s.cpu.osz).canWrite s.cpu.osz rm,
      (s.popped s.cpu.osz).rmStores s.cpu.osz rm, .esp :: rmWrites s.cpu.osz rm, .none⟩
  | .addRmReg d w rm reg => ofPair s d (s.cpu.size w) rm reg .all
  | .addRmImm _ w rm _ => ofWrite s (s.cpu.size w) rm .all
  | .addAccImm _ _ => some ⟨true, [], [.eax], .all⟩
  | .adcRmReg d w rm reg => ofPair s d (s.cpu.size w) rm reg .all
  | .adcRmImm _ w rm _ => ofWrite s (s.cpu.size w) rm .all
  | .adcAccImm _ _ => some ⟨true, [], [.eax], .all⟩
  | .subRmReg d w rm reg => ofPair s d (s.cpu.size w) rm reg .all
  | .subRmImm _ w rm _ => ofWrite s (s.cpu.size w) rm .all
  | .subAccImm _ _ => some ⟨true, [], [.eax], .all⟩
  | .sbbRmReg d w rm reg => ofPair s d (s.cpu.size w) rm reg .all
  | .sbbRmImm _ w rm _ => ofWrite s (s.cpu.size w) rm .all
  | .sbbAccImm _ _ => some ⟨true, [], [.eax], .all⟩
  | .cmpRmReg _ w rm _ => ofRead s (s.cpu.size w) rm [] .all
  | .cmpRmImm _ w rm _ => ofRead s (s.cpu.size w) rm [] .all
  | .cmpAccImm _ _ => some ⟨true, [], [], .all⟩
  | .incRm w rm => ofWrite s (s.cpu.size w) rm .butCf
  | .decRm w rm => ofWrite s (s.cpu.size w) rm .butCf
  | .incReg reg => some ⟨true, [], [reg], .butCf⟩
  | .decReg reg => some ⟨true, [], [reg], .butCf⟩
  | .negRm w rm => ofWrite s (s.cpu.size w) rm .all
  | .notRm w rm => ofWrite s (s.cpu.size w) rm .none
  | .aaa => some ⟨true, [], [.eax], .all⟩
  | .aas => some ⟨true, [], [.eax], .all⟩
  | .daa => some ⟨true, [], [.eax], .all⟩
  | .das => some ⟨true, [], [.eax], .all⟩
  | .aad => some ⟨true, [], [.eax], .all⟩
  | .aam => some ⟨true, [], [.eax], .all⟩
  | .cbw => some ⟨true, [], [.eax], .none⟩
  | .cwd => some ⟨true, [], [.edx], .none⟩
  | .mulAcc w rm => ofRead s (s.cpu.size w) rm [.eax, writtenReg (s.cpu.size w) (highReg (s.cpu.size w))] .all
  | .imulAcc w rm => ofRead s (s.cpu.size w) rm [.eax, writtenReg (s.cpu.size w) (highReg (s.cpu.size w))] .all
  | .imulRegRm reg rm => ofRead s s.cpu.osz rm [reg] .all
  | .imulRegRmImm _ reg rm _ => ofRead s s.cpu.osz rm [reg] .all
  | .rolOne w rm => ofWrite s (s.cpu.size w) rm .cfOf
  | .rolCl w rm => ofWrite s (s.cpu.size w) rm .cfOf
  | .rolImm w rm _ => ofWrite s (s.cpu.size w) rm .cfOf
  | .rorOne w rm => ofWrite s (s.cpu.size w) rm .cfOf
  | .rorCl w rm => ofWrite s (s.cpu.size w) rm .cfOf
  | .rorImm w rm _ => ofWrite s (s.cpu.size w) rm .cfOf
  | .rclOne w rm => ofWrite s (s.cpu.size w) rm .cfOf
  | .rclCl w rm => ofWrite s (s.cpu.size w) rm .cfOf
  | .rclImm w rm _ => ofWrite s (s.cpu.size w) rm .cfOf
  | .rcrOne w rm => ofWrite s (s.cpu.size w) rm .cfOf
  | .rcrCl w rm => ofWrite s (s.cpu.size w) rm .cfOf
  | .rcrImm w rm _ => ofWrite s (s.cpu.size w) rm .cfOf
  | .shlOne w rm => ofWrite s (s.cpu.size w) rm .all
  | .shlCl w rm => ofWrite s (s.cpu.size w) rm .all
  | .shlImm w rm _ => ofWrite s (s.cpu.size w) rm .all
  | .shrOne w rm => ofWrite s (s.cpu.size w) rm .all
  | .shrCl w rm => ofWrite s (s.cpu.size w) rm .all
  | .shrImm w rm _ => ofWrite s (s.cpu.size w) rm .all
  | .sarOne w rm => ofWrite s (s.cpu.size w) rm .all
  | .sarCl w rm => ofWrite s (s.cpu.size w) rm .all
  | .sarImm w rm _ => ofWrite s (s.cpu.size w) rm .all
  | .shldImm rm _ _ => ofWrite s s.cpu.osz rm .all
  | .shldCl rm _ => ofWrite s s.cpu.osz rm .all
  | .shrdImm rm _ _ => ofWrite s s.cpu.osz rm .all
  | .shrdCl rm _ => ofWrite s s.cpu.osz rm .all
  | .andRmReg d w rm reg => ofPair s d (s.cpu.size w) rm reg .all
  | .andRmImm w rm _ => ofWrite s (s.cpu.size w) rm .all
  | .andRmImm8 rm _ => ofWrite s s.cpu.osz rm .all
  | .andAccImm _ _ => some ⟨true, [], [.eax], .all⟩
  | .orRmReg d w rm reg => ofPair s d (s.cpu.size w) rm reg .all
  | .orRmImm w rm _ => ofWrite s (s.cpu.size w) rm .all
  | .orRmImm8 rm _ => ofWrite s s.cpu.osz rm .all
  | .orAccImm _ _ => some ⟨true, [], [.eax], .all⟩
  | .xorRmReg d w rm reg => ofPair s d (s.cpu.size w) rm reg .all
  | .xorRmImm w rm _ => ofWrite s (s.cpu.size w) rm .all
  | .xorRmImm8 rm _ => ofWrite s s.cpu.osz rm .all
  | .xorAccImm _ _ => some ⟨true, [], [.eax], .all⟩
  | .testRmReg w rm _ => ofRead s (s.cpu.size w) rm [] .all
  | .testRmImm w rm _ => ofRead s (s.cpu.size w) rm [] .all
  | .testAccImm _ _ => some ⟨true, [], [], .all⟩
  | .cmps w =>
    some ⟨s.cpu.cur.pfx.rep.isNone && s.canAccess s.cpu.stringSegment (s.cpu.index .esi) (s.cpu.size w).bytes .read &&
      s.canAccess .es (s.cpu.index .edi) (s.cpu.size w).bytes .read, [], [.esi, .edi], .all⟩
  | .lods w =>
    some ⟨s.cpu.cur.pfx.rep.isNone && s.canAccess s.cpu.stringSegment (s.cpu.index .esi) (s.cpu.size w).bytes .read,
      [], [.eax, .esi], .none⟩
  | .movs w =>
    some ⟨s.cpu.cur.pfx.rep.isNone && s.canAccess s.cpu.stringSegment (s.cpu.index .esi) (s.cpu.size w).bytes .read &&
      s.canAccess .es (s.cpu.index .edi) (s.cpu.size w).bytes .write,
      physBytes (s.cpu.linear .es (s.cpu.index .edi)) (s.cpu.size w).bytes, [.esi, .edi], .none⟩
  | .scas w =>
    some ⟨s.cpu.cur.pfx.rep.isNone && s.canAccess .es (s.cpu.index .edi) (s.cpu.size w).bytes .read, [], [.edi], .all⟩
  | .stos w =>
    some ⟨s.cpu.cur.pfx.rep.isNone && s.canAccess .es (s.cpu.index .edi) (s.cpu.size w).bytes .write,
      physBytes (s.cpu.linear .es (s.cpu.index .edi)) (s.cpu.size w).bytes, [.edi], .none⟩
  | .bsf reg rm => ofRead s s.cpu.osz rm [reg] .all
  | .bsr reg rm => ofRead s s.cpu.osz rm [reg] .all
  | .btImm rm _ => ofRead s s.cpu.osz rm [] .all
  | .btcImm rm _ => ofWrite s s.cpu.osz rm .all
  | .btrImm rm _ => ofWrite s s.cpu.osz rm .all
  | .btsImm rm _ => ofWrite s s.cpu.osz rm .all
  | .setcc _ rm => ofWrite s .b rm .none
  | .lahf => some ⟨true, [], [.eax], .none⟩
  | .sahf => some ⟨true, [], [], .butOf⟩
  | .clc => some ⟨true, [], [], .cfOnly⟩
  | .stc => some ⟨true, [], [], .cfOnly⟩
  | .cmc => some ⟨true, [], [], .cfOnly⟩
  | .nop => some ⟨true, [], [], .none⟩
  | .movSregRm _ _ => none
  | .movRmSreg _ _ => none
  | .pusha => none
  | .popEs => none
  | .popSs => none
  | .popDs => none
  | .popFs => none
  | .popGs => none
  | .popa => none
  | .inImm _ _ => none
  | .inDx _ => none
  | .outImm _ _ => none
  | .outDx _ => none
  | .lds _ _ => none
  | .les _ _ => none
  | .lfs _ _ => none
  | .lgs _ _ => none
  | .lss _ _ => none
  | .cld => none
  | .cli => none
  | .clts => none
  | .popf => none
  | .sti => none
  | .std => none
  | .divAcc _ _ => none
  | .idivAcc _ _ => none
  | .ins _ => none
  | .outs _ => none
  | .xlat => none
  | .repPrefix => none
  | .repnePrefix => none
  | .btReg _ _ => none
  | .btcReg _ _ => none
  | .btrReg _ _ => none
  | .btsReg _ _ => none
  | .callRel _ => none
  | .callRm _ => none
  | .jmpShort _ => none
  | .jmpRel _ => none
  | .jmpRm _ => none
  | .retNear => none
  | .retNearImm _ => none
  | .jccShort _ _ => none
  | .jccNear _ _ => none
  | .jcxz _ => none
  | .loop _ => none
  | .loopz _ => none
  | .loopnz _ => none
  | .callFar _ _ => none
  | .callFarMem _ => none
  | .jmpFar _ _ => none
  | .jmpFarMem _ => none
  | .retFar => none
  | .retFarImm _ => none
  | .enter _ _ => none
  | .leave => none
  | .int _ => none
  | .int3 => none
  | .into => none
  | .bound _ _ => none
  | .iret => none
  | .hlt => none
  | .movCrReg _ _ => none
  | .movRegCr _ _ => none
  | .movDrReg _ _ => none
  | .movRegDr _ _ => none
  | .movTrReg _ _ => none
  | .movRegTr _ _ => none
  | .wait => none
  | .esc _ _ _ => none
  | .addressSizePrefix => none
  | .lockPrefix => none
  | .operandSizePrefix => none
  | .csPrefix => none
  | .dsPrefix => none
  | .esPrefix => none
  | .fsPrefix => none
  | .gsPrefix => none
  | .ssPrefix => none
  | .arpl _ _ => none
  | .lar _ _ => none
  | .lgdt _ => none
  | .lidt _ => none
  | .lldt _ => none
  | .lmsw _ => none
  | .lsl _ _ => none
  | .ltr _ => none
  | .sgdt _ => none
  | .sidt _ => none
  | .sldt _ => none
  | .smsw _ => none
  | .str _ => none
  | .verr _ => none
  | .verw _ => none

/-! ## The boundary -/

/-- Nothing happens at the boundary but the next instruction: the processor runs and waits for nothing, no RESET, trap, NMI, INTR
or instruction breakpoint is due (R615). -/
def State.quiet (s : State) : Bool :=
  !s.env.reset && s.env.resetAfter.isNone && !s.cpu.escWaiting && s.cpu.run == .running && !anyCause s.cpu.trap && !nmiReady (sampleNmi s).cpu && !intrReady (sampleNmi s) &&
    !anyCause (codeBreaks s.cpu)

/-- The physical address of byte `k` at CS:EIP with paging off. -/
def State.codeAddr (s : State) (k : Nat) : PAddr :=
  (s.cpu.segs.cs.base + BitVec.ofNat 32 (s.cpu.eip.toNat + k)).setWidth 24

/-- The first `n` bytes at CS:EIP with paging off. -/
def State.codeBytes (s : State) (n : Nat) : List Byte := (List.range n).map fun k => s.mem.read (s.codeAddr k)

/-- The state after the first `n` bytes at CS:EIP are fetched: each aligned word of them that is not queued is read on the bus,
two bytes at once, and queued; the queue keeps 8 words (R7, R8, R71, R742; log 11). -/
def State.codeFetched (s : State) : Nat → State
  | 0 => s
  | n + 1 =>
    let t := s.codeFetched n
    let w := s.codeAddr n &&& 0xFFFFFE
    if t.queue.contains w then t
    else { t.traced (.memRead true (s.mem.cellsAt [w, w + 1])) with queue := (w :: t.queue).take 8 }

/-! ## Outcomes -/

/-- The instruction completes sequentially and leaves `s'` but for what the boundary adds (R34, R48, R670). -/
def completes (s s' : State) : Host.Outcome State Fault Refusal := .next (State.settle s .next s')

/-- A taken transfer completes: EIP is `t` and the prefetch queue is empty (R440). -/
def transfers (s s' : State) (t : Dword) : Host.Outcome State Fault Refusal :=
  .next (State.settle s .jumped { s' with cpu := { s'.cpu with eip := t }, queue := [], prefetch := [], pgSwitch := none })

end Sys2Proof.Machine
end

