-- ==== Sys2Proof/Laws/Effect.lean ====
section
/-! SUPPORT. How the effect type runs: one equation for each primitive applied to a state. -/

namespace Sys2Proof.Machine

/-- Two meanings in sequence. -/
theorem bind_run {α β : Type} (m : M α) (f : α → M β) (s : State) :
    (m >>= f) s = match m s with
      | .ok a s' => f a s'
      | .error e s' => .error e s' := by
  simp only [bind, EStateM.bind]
  cases m s <;> rfl

/-- A meaning whose answer is changed. -/
theorem map_run {α β : Type} (f : α → β) (m : M α) (s : State) :
    (f <$> m) s = match m s with
      | .ok a s' => .ok (f a) s'
      | .error e s' => .error e s' := by
  simp only [Functor.map, EStateM.map]
  cases m s <;> rfl

/-- The second meaning of a sequence runs when the first answers. -/
theorem bind_ok {α β : Type} {m : M α} {f : α → M β} {s s' : State} {a : α} (h : m s = .ok a s') :
    (m >>= f) s = f a s' := by
  rw [bind_run, h]

/-- A sequence stops where its first meaning stops. -/
theorem bind_error {α β : Type} {m : M α} {f : α → M β} {s s' : State} {e : Stop} (h : m s = .error e s') :
    (m >>= f) s = .error e s' := by
  rw [bind_run, h]

/-- A sequence that answers: both halves answered. -/
theorem bind_eq_ok {α β : Type} {m : M α} {f : α → M β} {s t : State} {b : β} :
    (m >>= f) s = .ok b t ↔ ∃ a s', m s = .ok a s' ∧ f a s' = .ok b t := by
  rw [bind_run]
  cases m s with
  | ok a s' => exact ⟨fun h => ⟨a, s', rfl, h⟩, fun ⟨_, _, h, h'⟩ => by cases h; exact h'⟩
  | error e s' => simp

@[simp] theorem pure_run {α : Type} (a : α) (s : State) : (pure a : M α) s = .ok a s := rfl

@[simp] theorem getCpu_run (s : State) : getCpu s = .ok s.cpu s := rfl

@[simp] theorem getState_run (s : State) : getState s = .ok s s := rfl

@[simp] theorem modifyCpu_run (f : Cpu → Cpu) (s : State) : modifyCpu f s = .ok () (s.mapCpu f) := rfl

@[simp] theorem modifyEnv_run (f : Env → Env) (s : State) : modifyEnv f s = .ok () { s with env := f s.env } := rfl

@[simp] theorem raiseExc_run {α : Type} (e : Exc) (s : State) : (raiseExc e : M α) s = .error (.exc e) s := rfl

@[simp] theorem raiseCommitted_run {α : Type} (e : Exc) (s : State) :
    (raiseCommitted e : M α) s = .error (.committed e) s := rfl

@[simp] theorem refuse_run {α : Type} (r : Refusal) (s : State) : (refuse r : M α) s = .error (.refuse r) s := rfl

@[simp] theorem shutdown_run {α : Type} (s : State) : (shutdown : M α) s = .error .shutdown s := rfl

@[simp] theorem draw_run (s : State) : draw s = .ok s.freeVal s.drawn := rfl

@[simp] theorem drawBit_run (s : State) : drawBit s = .ok (s.freeVal.getLsbD 0) s.drawn := rfl

@[simp] theorem require_true (e : Exc) : require true e = pure () := rfl

@[simp] theorem require_false (e : Exc) : require false e = raiseExc e := rfl

/-- A requirement applied to a state. -/
theorem require_run (c : Bool) (e : Exc) (s : State) :
    require c e s = if c then .ok () s else .error (.exc e) s := by
  cases c <;> rfl

@[simp] theorem opSize_run (w : Bool) (s : State) : opSize w s = .ok (s.cpu.size w) s := rfl

@[simp] theorem readReg_run (sz : Sz) (r : Reg) (s : State) : readReg sz r s = .ok (s.reg sz r) s := rfl

@[simp] theorem writeReg_run (sz : Sz) (r : Reg) (v : BitVec sz.bits) (s : State) :
    writeReg sz r v s = .ok () (s.withReg sz r v) := rfl

@[simp] theorem writeAh_run (v : Byte) (s : State) : writeAh v s = .ok () (s.withReg .b regAh v) := rfl

@[simp] theorem setSeg_run (r : SReg) (g : SegReg) (s : State) :
    setSeg r g s = .ok () (s.mapCpu fun c => { c with segs := c.segs.set r g }) := rfl

@[simp] theorem getFlags_run (s : State) : getFlags s = .ok s.cpu.flags s := rfl

@[simp] theorem modifyFlags_run (f : EFlags → EFlags) (s : State) :
    modifyFlags f s = .ok () (s.withFlags (f s.cpu.flags)) := rfl

@[simp] theorem noteData_run (la : Dword) (n : Nat) (w : Bool) (s : State) :
    noteData la n w s = .ok () (s.hit la n w) := rfl

@[simp] theorem flushPrefetch_run (s : State) : flushPrefetch s = .ok () { s with queue := [], prefetch := [], pgSwitch := none } := rfl

@[simp] theorem flushTlb_run (s : State) : flushTlb s = .ok () { s with tlb := [] } := rfl

@[simp] theorem readAll_run (as : List PAddr) (s : State) : readAll as s =
    .ok (as.map s.mem.read) (s.traced (.memRead false (s.mem.cellsAt as))) := rfl

@[simp] theorem writeAll_run (as : List PAddr) (bs : List Byte) (s : State) :
    writeAll as bs s = .ok () ((s.storeAll as bs).traced (.memWrite (as.zip bs))) := rfl

@[simp] theorem emit_run (e : BusEvent) (s : State) :
    emit e s = .ok () (s.traced e) := rfl

/-- A meaning whose exceptions are kept as values. -/
theorem attempt_ok {α : Type} {m : M α} {s s' : State} {a : α} (h : m s = .ok a s') :
    attempt m s = .ok (.ok a) s' := by
  simp [attempt, h]

/-- A meaning past the point of no return that answers. -/
theorem commit_ok {α : Type} {m : M α} {s s' : State} {a : α} (h : m s = .ok a s') : commit m s = .ok a s' := by
  simp [commit, h]

end Sys2Proof.Machine
end

