-- ==== Sys2Proof/Laws/State.lean ====
section
/-! SUPPORT. What each named update of the state, the processor, the registers and the flags leaves in each field; true by
unfolding, so that no later proof opens a record update. -/

namespace Sys2Proof.Machine

@[simp] theorem State.withReg_eip (s : State) (sz : Sz) (r : Reg) (v : BitVec sz.bits) : (s.withReg sz r v).cpu.eip = s.cpu.eip := rfl
@[simp] theorem State.withReg_flags (s : State) (sz : Sz) (r : Reg) (v : BitVec sz.bits) : (s.withReg sz r v).cpu.flags = s.cpu.flags := rfl
@[simp] theorem State.withReg_segs (s : State) (sz : Sz) (r : Reg) (v : BitVec sz.bits) : (s.withReg sz r v).cpu.segs = s.cpu.segs := rfl
@[simp] theorem State.withReg_cpl (s : State) (sz : Sz) (r : Reg) (v : BitVec sz.bits) : (s.withReg sz r v).cpu.cpl = s.cpu.cpl := rfl
@[simp] theorem State.withReg_cr0 (s : State) (sz : Sz) (r : Reg) (v : BitVec sz.bits) : (s.withReg sz r v).cpu.cr0 = s.cpu.cr0 := rfl
@[simp] theorem State.withReg_cr2 (s : State) (sz : Sz) (r : Reg) (v : BitVec sz.bits) : (s.withReg sz r v).cpu.cr2 = s.cpu.cr2 := rfl
@[simp] theorem State.withReg_cr3 (s : State) (sz : Sz) (r : Reg) (v : BitVec sz.bits) : (s.withReg sz r v).cpu.cr3 = s.cpu.cr3 := rfl
@[simp] theorem State.withReg_gdtr (s : State) (sz : Sz) (r : Reg) (v : BitVec sz.bits) : (s.withReg sz r v).cpu.gdtr = s.cpu.gdtr := rfl
@[simp] theorem State.withReg_idtr (s : State) (sz : Sz) (r : Reg) (v : BitVec sz.bits) : (s.withReg sz r v).cpu.idtr = s.cpu.idtr := rfl
@[simp] theorem State.withReg_ldtr (s : State) (sz : Sz) (r : Reg) (v : BitVec sz.bits) : (s.withReg sz r v).cpu.ldtr = s.cpu.ldtr := rfl
@[simp] theorem State.withReg_tr (s : State) (sz : Sz) (r : Reg) (v : BitVec sz.bits) : (s.withReg sz r v).cpu.tr = s.cpu.tr := rfl
@[simp] theorem State.withReg_dbg (s : State) (sz : Sz) (r : Reg) (v : BitVec sz.bits) : (s.withReg sz r v).cpu.dbg = s.cpu.dbg := rfl
@[simp] theorem State.withReg_test (s : State) (sz : Sz) (r : Reg) (v : BitVec sz.bits) : (s.withReg sz r v).cpu.test = s.cpu.test := rfl
@[simp] theorem State.withReg_run (s : State) (sz : Sz) (r : Reg) (v : BitVec sz.bits) : (s.withReg sz r v).cpu.run = s.cpu.run := rfl
@[simp] theorem State.withReg_nmiInService (s : State) (sz : Sz) (r : Reg) (v : BitVec sz.bits) : (s.withReg sz r v).cpu.nmiInService = s.cpu.nmiInService := rfl
@[simp] theorem State.withReg_nmiPending (s : State) (sz : Sz) (r : Reg) (v : BitVec sz.bits) : (s.withReg sz r v).cpu.nmiPending = s.cpu.nmiPending := rfl
@[simp] theorem State.withReg_nmiLevel (s : State) (sz : Sz) (r : Reg) (v : BitVec sz.bits) : (s.withReg sz r v).cpu.nmiLevel = s.cpu.nmiLevel := rfl
@[simp] theorem State.withReg_inhibit (s : State) (sz : Sz) (r : Reg) (v : BitVec sz.bits) : (s.withReg sz r v).cpu.inhibit = s.cpu.inhibit := rfl
@[simp] theorem State.withReg_trap (s : State) (sz : Sz) (r : Reg) (v : BitVec sz.bits) : (s.withReg sz r v).cpu.trap = s.cpu.trap := rfl
@[simp] theorem State.withReg_repActive (s : State) (sz : Sz) (r : Reg) (v : BitVec sz.bits) : (s.withReg sz r v).cpu.repActive = s.cpu.repActive := rfl
@[simp] theorem State.withReg_escWaiting (s : State) (sz : Sz) (r : Reg) (v : BitVec sz.bits) : (s.withReg sz r v).cpu.escWaiting = s.cpu.escWaiting := rfl
@[simp] theorem State.withReg_peSwitched (s : State) (sz : Sz) (r : Reg) (v : BitVec sz.bits) : (s.withReg sz r v).cpu.peSwitched = s.cpu.peSwitched := rfl
@[simp] theorem State.withReg_cur (s : State) (sz : Sz) (r : Reg) (v : BitVec sz.bits) : (s.withReg sz r v).cpu.cur = s.cpu.cur := rfl
@[simp] theorem State.withReg_mem (s : State) (sz : Sz) (r : Reg) (v : BitVec sz.bits) : (s.withReg sz r v).mem = s.mem := rfl
@[simp] theorem State.withReg_tlb (s : State) (sz : Sz) (r : Reg) (v : BitVec sz.bits) : (s.withReg sz r v).tlb = s.tlb := rfl
@[simp] theorem State.withReg_prefetch (s : State) (sz : Sz) (r : Reg) (v : BitVec sz.bits) : (s.withReg sz r v).prefetch = s.prefetch := rfl
@[simp] theorem State.withReg_pgSwitch (s : State) (sz : Sz) (r : Reg) (v : BitVec sz.bits) : (s.withReg sz r v).pgSwitch = s.pgSwitch := rfl
@[simp] theorem State.withReg_queue (s : State) (sz : Sz) (r : Reg) (v : BitVec sz.bits) : (s.withReg sz r v).queue = s.queue := rfl
@[simp] theorem State.withReg_env (s : State) (sz : Sz) (r : Reg) (v : BitVec sz.bits) : (s.withReg sz r v).env = s.env := rfl
@[simp] theorem State.withReg_free (s : State) (sz : Sz) (r : Reg) (v : BitVec sz.bits) : (s.withReg sz r v).free = s.free := rfl

@[simp] theorem State.withReg_gpr (s : State) (sz : Sz) (r : Reg) (v : BitVec sz.bits) : (s.withReg sz r v).cpu.gpr = s.cpu.gpr.write sz r v := rfl
@[simp] theorem State.withFlags_gpr (s : State) (f : EFlags) : (s.withFlags f).cpu.gpr = s.cpu.gpr := rfl
@[simp] theorem State.withFlags_eip (s : State) (f : EFlags) : (s.withFlags f).cpu.eip = s.cpu.eip := rfl
@[simp] theorem State.withFlags_segs (s : State) (f : EFlags) : (s.withFlags f).cpu.segs = s.cpu.segs := rfl
@[simp] theorem State.withFlags_cpl (s : State) (f : EFlags) : (s.withFlags f).cpu.cpl = s.cpu.cpl := rfl
@[simp] theorem State.withFlags_cr0 (s : State) (f : EFlags) : (s.withFlags f).cpu.cr0 = s.cpu.cr0 := rfl
@[simp] theorem State.withFlags_cr2 (s : State) (f : EFlags) : (s.withFlags f).cpu.cr2 = s.cpu.cr2 := rfl
@[simp] theorem State.withFlags_cr3 (s : State) (f : EFlags) : (s.withFlags f).cpu.cr3 = s.cpu.cr3 := rfl
@[simp] theorem State.withFlags_gdtr (s : State) (f : EFlags) : (s.withFlags f).cpu.gdtr = s.cpu.gdtr := rfl
@[simp] theorem State.withFlags_idtr (s : State) (f : EFlags) : (s.withFlags f).cpu.idtr = s.cpu.idtr := rfl
@[simp] theorem State.withFlags_ldtr (s : State) (f : EFlags) : (s.withFlags f).cpu.ldtr = s.cpu.ldtr := rfl
@[simp] theorem State.withFlags_tr (s : State) (f : EFlags) : (s.withFlags f).cpu.tr = s.cpu.tr := rfl
@[simp] theorem State.withFlags_dbg (s : State) (f : EFlags) : (s.withFlags f).cpu.dbg = s.cpu.dbg := rfl
@[simp] theorem State.withFlags_test (s : State) (f : EFlags) : (s.withFlags f).cpu.test = s.cpu.test := rfl
@[simp] theorem State.withFlags_run (s : State) (f : EFlags) : (s.withFlags f).cpu.run = s.cpu.run := rfl
@[simp] theorem State.withFlags_nmiInService (s : State) (f : EFlags) : (s.withFlags f).cpu.nmiInService = s.cpu.nmiInService := rfl
@[simp] theorem State.withFlags_nmiPending (s : State) (f : EFlags) : (s.withFlags f).cpu.nmiPending = s.cpu.nmiPending := rfl
@[simp] theorem State.withFlags_nmiLevel (s : State) (f : EFlags) : (s.withFlags f).cpu.nmiLevel = s.cpu.nmiLevel := rfl
@[simp] theorem State.withFlags_inhibit (s : State) (f : EFlags) : (s.withFlags f).cpu.inhibit = s.cpu.inhibit := rfl
@[simp] theorem State.withFlags_trap (s : State) (f : EFlags) : (s.withFlags f).cpu.trap = s.cpu.trap := rfl
@[simp] theorem State.withFlags_repActive (s : State) (f : EFlags) : (s.withFlags f).cpu.repActive = s.cpu.repActive := rfl
@[simp] theorem State.withFlags_escWaiting (s : State) (f : EFlags) : (s.withFlags f).cpu.escWaiting = s.cpu.escWaiting := rfl
@[simp] theorem State.withFlags_peSwitched (s : State) (f : EFlags) : (s.withFlags f).cpu.peSwitched = s.cpu.peSwitched := rfl
@[simp] theorem State.withFlags_cur (s : State) (f : EFlags) : (s.withFlags f).cpu.cur = s.cpu.cur := rfl
@[simp] theorem State.withFlags_mem (s : State) (f : EFlags) : (s.withFlags f).mem = s.mem := rfl
@[simp] theorem State.withFlags_tlb (s : State) (f : EFlags) : (s.withFlags f).tlb = s.tlb := rfl
@[simp] theorem State.withFlags_prefetch (s : State) (f : EFlags) : (s.withFlags f).prefetch = s.prefetch := rfl
@[simp] theorem State.withFlags_pgSwitch (s : State) (f : EFlags) : (s.withFlags f).pgSwitch = s.pgSwitch := rfl
@[simp] theorem State.withFlags_queue (s : State) (f : EFlags) : (s.withFlags f).queue = s.queue := rfl
@[simp] theorem State.withFlags_env (s : State) (f : EFlags) : (s.withFlags f).env = s.env := rfl
@[simp] theorem State.withFlags_free (s : State) (f : EFlags) : (s.withFlags f).free = s.free := rfl

@[simp] theorem State.withFlags_flags (s : State) (f : EFlags) : (s.withFlags f).cpu.flags = f := rfl
@[simp] theorem State.mapCpu_mem (s : State) (f : Cpu → Cpu) : (s.mapCpu f).mem = s.mem := rfl
@[simp] theorem State.mapCpu_tlb (s : State) (f : Cpu → Cpu) : (s.mapCpu f).tlb = s.tlb := rfl
@[simp] theorem State.mapCpu_prefetch (s : State) (f : Cpu → Cpu) : (s.mapCpu f).prefetch = s.prefetch := rfl
@[simp] theorem State.mapCpu_pgSwitch (s : State) (f : Cpu → Cpu) : (s.mapCpu f).pgSwitch = s.pgSwitch := rfl
@[simp] theorem State.mapCpu_queue (s : State) (f : Cpu → Cpu) : (s.mapCpu f).queue = s.queue := rfl
@[simp] theorem State.mapCpu_env (s : State) (f : Cpu → Cpu) : (s.mapCpu f).env = s.env := rfl
@[simp] theorem State.mapCpu_free (s : State) (f : Cpu → Cpu) : (s.mapCpu f).free = s.free := rfl
@[simp] theorem State.mapCpu_cpu (s : State) (f : Cpu → Cpu) : (s.mapCpu f).cpu = f s.cpu := rfl

@[simp] theorem State.drawn_mem (s : State) : s.drawn.mem = s.mem := rfl
@[simp] theorem State.drawn_tlb (s : State) : s.drawn.tlb = s.tlb := rfl
@[simp] theorem State.drawn_prefetch (s : State) : s.drawn.prefetch = s.prefetch := rfl
@[simp] theorem State.drawn_pgSwitch (s : State) : s.drawn.pgSwitch = s.pgSwitch := rfl
@[simp] theorem State.drawn_queue (s : State) : s.drawn.queue = s.queue := rfl
@[simp] theorem State.drawn_env (s : State) : s.drawn.env = s.env := rfl
@[simp] theorem State.drawn_cpu (s : State) : s.drawn.cpu = s.cpu := rfl
@[simp] theorem State.drawn_free (s : State) : s.drawn.free = s.free + 1 := rfl

@[simp] theorem State.traced_cpu (s : State) (e : BusEvent) : (s.traced e).cpu = s.cpu := rfl
@[simp] theorem State.traced_mem (s : State) (e : BusEvent) : (s.traced e).mem = s.mem := rfl
@[simp] theorem State.traced_tlb (s : State) (e : BusEvent) : (s.traced e).tlb = s.tlb := rfl
@[simp] theorem State.traced_prefetch (s : State) (e : BusEvent) : (s.traced e).prefetch = s.prefetch := rfl
@[simp] theorem State.traced_pgSwitch (s : State) (e : BusEvent) : (s.traced e).pgSwitch = s.pgSwitch := rfl
@[simp] theorem State.traced_queue (s : State) (e : BusEvent) : (s.traced e).queue = s.queue := rfl
@[simp] theorem State.traced_free (s : State) (e : BusEvent) : (s.traced e).free = s.free := rfl
@[simp] theorem State.traced_env (s : State) (e : BusEvent) :
    (s.traced e).env = { s.env with trace := e :: s.env.trace } := rfl

@[simp] theorem State.hit_gpr (s : State) (la : Dword) (n : Nat) (w : Bool) : (s.hit la n w).cpu.gpr = s.cpu.gpr := rfl
@[simp] theorem State.hit_eip (s : State) (la : Dword) (n : Nat) (w : Bool) : (s.hit la n w).cpu.eip = s.cpu.eip := rfl
@[simp] theorem State.hit_flags (s : State) (la : Dword) (n : Nat) (w : Bool) : (s.hit la n w).cpu.flags = s.cpu.flags := rfl
@[simp] theorem State.hit_segs (s : State) (la : Dword) (n : Nat) (w : Bool) : (s.hit la n w).cpu.segs = s.cpu.segs := rfl
@[simp] theorem State.hit_cpl (s : State) (la : Dword) (n : Nat) (w : Bool) : (s.hit la n w).cpu.cpl = s.cpu.cpl := rfl
@[simp] theorem State.hit_cr0 (s : State) (la : Dword) (n : Nat) (w : Bool) : (s.hit la n w).cpu.cr0 = s.cpu.cr0 := rfl
@[simp] theorem State.hit_cr2 (s : State) (la : Dword) (n : Nat) (w : Bool) : (s.hit la n w).cpu.cr2 = s.cpu.cr2 := rfl
@[simp] theorem State.hit_cr3 (s : State) (la : Dword) (n : Nat) (w : Bool) : (s.hit la n w).cpu.cr3 = s.cpu.cr3 := rfl
@[simp] theorem State.hit_gdtr (s : State) (la : Dword) (n : Nat) (w : Bool) : (s.hit la n w).cpu.gdtr = s.cpu.gdtr := rfl
@[simp] theorem State.hit_idtr (s : State) (la : Dword) (n : Nat) (w : Bool) : (s.hit la n w).cpu.idtr = s.cpu.idtr := rfl
@[simp] theorem State.hit_ldtr (s : State) (la : Dword) (n : Nat) (w : Bool) : (s.hit la n w).cpu.ldtr = s.cpu.ldtr := rfl
@[simp] theorem State.hit_tr (s : State) (la : Dword) (n : Nat) (w : Bool) : (s.hit la n w).cpu.tr = s.cpu.tr := rfl
@[simp] theorem State.hit_dbg (s : State) (la : Dword) (n : Nat) (w : Bool) : (s.hit la n w).cpu.dbg = s.cpu.dbg := rfl
@[simp] theorem State.hit_test (s : State) (la : Dword) (n : Nat) (w : Bool) : (s.hit la n w).cpu.test = s.cpu.test := rfl
@[simp] theorem State.hit_run (s : State) (la : Dword) (n : Nat) (w : Bool) : (s.hit la n w).cpu.run = s.cpu.run := rfl
@[simp] theorem State.hit_nmiInService (s : State) (la : Dword) (n : Nat) (w : Bool) : (s.hit la n w).cpu.nmiInService = s.cpu.nmiInService := rfl
@[simp] theorem State.hit_nmiPending (s : State) (la : Dword) (n : Nat) (w : Bool) : (s.hit la n w).cpu.nmiPending = s.cpu.nmiPending := rfl
@[simp] theorem State.hit_nmiLevel (s : State) (la : Dword) (n : Nat) (w : Bool) : (s.hit la n w).cpu.nmiLevel = s.cpu.nmiLevel := rfl
@[simp] theorem State.hit_inhibit (s : State) (la : Dword) (n : Nat) (w : Bool) : (s.hit la n w).cpu.inhibit = s.cpu.inhibit := rfl
@[simp] theorem State.hit_trap (s : State) (la : Dword) (n : Nat) (w : Bool) : (s.hit la n w).cpu.trap = s.cpu.trap := rfl
@[simp] theorem State.hit_repActive (s : State) (la : Dword) (n : Nat) (w : Bool) : (s.hit la n w).cpu.repActive = s.cpu.repActive := rfl
@[simp] theorem State.hit_escWaiting (s : State) (la : Dword) (n : Nat) (w : Bool) : (s.hit la n w).cpu.escWaiting = s.cpu.escWaiting := rfl
@[simp] theorem State.hit_peSwitched (s : State) (la : Dword) (n : Nat) (w : Bool) : (s.hit la n w).cpu.peSwitched = s.cpu.peSwitched := rfl
@[simp] theorem State.hit_pfx (s : State) (la : Dword) (n : Nat) (w : Bool) : (s.hit la n w).cpu.cur.pfx = s.cpu.cur.pfx := rfl
@[simp] theorem State.hit_len (s : State) (la : Dword) (n : Nat) (w : Bool) : (s.hit la n w).cpu.cur.len = s.cpu.cur.len := rfl
@[simp] theorem State.hit_mem (s : State) (la : Dword) (n : Nat) (w : Bool) : (s.hit la n w).mem = s.mem := rfl
@[simp] theorem State.hit_tlb (s : State) (la : Dword) (n : Nat) (w : Bool) : (s.hit la n w).tlb = s.tlb := rfl
@[simp] theorem State.hit_prefetch (s : State) (la : Dword) (n : Nat) (w : Bool) : (s.hit la n w).prefetch = s.prefetch := rfl
@[simp] theorem State.hit_pgSwitch (s : State) (la : Dword) (n : Nat) (w : Bool) : (s.hit la n w).pgSwitch = s.pgSwitch := rfl
@[simp] theorem State.hit_queue (s : State) (la : Dword) (n : Nat) (w : Bool) : (s.hit la n w).queue = s.queue := rfl
@[simp] theorem State.hit_free (s : State) (la : Dword) (n : Nat) (w : Bool) : (s.hit la n w).free = s.free := rfl
@[simp] theorem State.hit_env (s : State) (la : Dword) (n : Nat) (w : Bool) : (s.hit la n w).env = s.env := rfl

@[simp] theorem State.sysLoaded_cpu (s : State) (la : Dword) (n : Nat) : (s.sysLoaded la n).cpu = s.cpu := rfl
@[simp] theorem State.sysLoaded_mem (s : State) (la : Dword) (n : Nat) : (s.sysLoaded la n).mem = s.mem := rfl
@[simp] theorem State.sysLoaded_tlb (s : State) (la : Dword) (n : Nat) : (s.sysLoaded la n).tlb = s.tlb := rfl
@[simp] theorem State.sysLoaded_prefetch (s : State) (la : Dword) (n : Nat) : (s.sysLoaded la n).prefetch = s.prefetch := rfl
@[simp] theorem State.sysLoaded_pgSwitch (s : State) (la : Dword) (n : Nat) : (s.sysLoaded la n).pgSwitch = s.pgSwitch := rfl
@[simp] theorem State.sysLoaded_queue (s : State) (la : Dword) (n : Nat) : (s.sysLoaded la n).queue = s.queue := rfl
@[simp] theorem State.sysLoaded_free (s : State) (la : Dword) (n : Nat) : (s.sysLoaded la n).free = s.free := rfl

@[simp] theorem State.noted_gpr (s : State) (la : Dword) (n : Nat) : (s.noted la n).cpu.gpr = s.cpu.gpr := rfl
@[simp] theorem State.noted_eip (s : State) (la : Dword) (n : Nat) : (s.noted la n).cpu.eip = s.cpu.eip := rfl
@[simp] theorem State.noted_flags (s : State) (la : Dword) (n : Nat) : (s.noted la n).cpu.flags = s.cpu.flags := rfl
@[simp] theorem State.noted_segs (s : State) (la : Dword) (n : Nat) : (s.noted la n).cpu.segs = s.cpu.segs := rfl
@[simp] theorem State.noted_cpl (s : State) (la : Dword) (n : Nat) : (s.noted la n).cpu.cpl = s.cpu.cpl := rfl
@[simp] theorem State.noted_cr0 (s : State) (la : Dword) (n : Nat) : (s.noted la n).cpu.cr0 = s.cpu.cr0 := rfl
@[simp] theorem State.noted_cr2 (s : State) (la : Dword) (n : Nat) : (s.noted la n).cpu.cr2 = s.cpu.cr2 := rfl
@[simp] theorem State.noted_cr3 (s : State) (la : Dword) (n : Nat) : (s.noted la n).cpu.cr3 = s.cpu.cr3 := rfl
@[simp] theorem State.noted_gdtr (s : State) (la : Dword) (n : Nat) : (s.noted la n).cpu.gdtr = s.cpu.gdtr := rfl
@[simp] theorem State.noted_idtr (s : State) (la : Dword) (n : Nat) : (s.noted la n).cpu.idtr = s.cpu.idtr := rfl
@[simp] theorem State.noted_ldtr (s : State) (la : Dword) (n : Nat) : (s.noted la n).cpu.ldtr = s.cpu.ldtr := rfl
@[simp] theorem State.noted_tr (s : State) (la : Dword) (n : Nat) : (s.noted la n).cpu.tr = s.cpu.tr := rfl
@[simp] theorem State.noted_dbg (s : State) (la : Dword) (n : Nat) : (s.noted la n).cpu.dbg = s.cpu.dbg := rfl
@[simp] theorem State.noted_test (s : State) (la : Dword) (n : Nat) : (s.noted la n).cpu.test = s.cpu.test := rfl
@[simp] theorem State.noted_run (s : State) (la : Dword) (n : Nat) : (s.noted la n).cpu.run = s.cpu.run := rfl
@[simp] theorem State.noted_nmiInService (s : State) (la : Dword) (n : Nat) : (s.noted la n).cpu.nmiInService = s.cpu.nmiInService := rfl
@[simp] theorem State.noted_nmiPending (s : State) (la : Dword) (n : Nat) : (s.noted la n).cpu.nmiPending = s.cpu.nmiPending := rfl
@[simp] theorem State.noted_nmiLevel (s : State) (la : Dword) (n : Nat) : (s.noted la n).cpu.nmiLevel = s.cpu.nmiLevel := rfl
@[simp] theorem State.noted_inhibit (s : State) (la : Dword) (n : Nat) : (s.noted la n).cpu.inhibit = s.cpu.inhibit := rfl
@[simp] theorem State.noted_trap (s : State) (la : Dword) (n : Nat) : (s.noted la n).cpu.trap = s.cpu.trap := rfl
@[simp] theorem State.noted_repActive (s : State) (la : Dword) (n : Nat) : (s.noted la n).cpu.repActive = s.cpu.repActive := rfl
@[simp] theorem State.noted_escWaiting (s : State) (la : Dword) (n : Nat) : (s.noted la n).cpu.escWaiting = s.cpu.escWaiting := rfl
@[simp] theorem State.noted_peSwitched (s : State) (la : Dword) (n : Nat) : (s.noted la n).cpu.peSwitched = s.cpu.peSwitched := rfl
@[simp] theorem State.noted_mem (s : State) (la : Dword) (n : Nat) : (s.noted la n).mem = s.mem := rfl
@[simp] theorem State.noted_tlb (s : State) (la : Dword) (n : Nat) : (s.noted la n).tlb = s.tlb := rfl
@[simp] theorem State.noted_prefetch (s : State) (la : Dword) (n : Nat) : (s.noted la n).prefetch = s.prefetch := rfl
@[simp] theorem State.noted_pgSwitch (s : State) (la : Dword) (n : Nat) : (s.noted la n).pgSwitch = s.pgSwitch := rfl
@[simp] theorem State.noted_queue (s : State) (la : Dword) (n : Nat) : (s.noted la n).queue = s.queue := rfl
@[simp] theorem State.noted_free (s : State) (la : Dword) (n : Nat) : (s.noted la n).free = s.free := rfl

@[simp] theorem State.noted_pfx (s : State) (la : Dword) (n : Nat) : (s.noted la n).cpu.cur.pfx = s.cpu.cur.pfx := rfl
@[simp] theorem State.noted_len (s : State) (la : Dword) (n : Nat) : (s.noted la n).cpu.cur.len = s.cpu.cur.len := rfl

@[simp] theorem State.store_cpu (s : State) (a : PAddr) (v : Byte) : (s.store a v).cpu = s.cpu := rfl
@[simp] theorem State.store_tlb (s : State) (a : PAddr) (v : Byte) : (s.store a v).tlb = s.tlb := rfl
@[simp] theorem State.store_queue (s : State) (a : PAddr) (v : Byte) : (s.store a v).queue = s.queue := rfl
@[simp] theorem State.store_pgSwitch (s : State) (a : PAddr) (v : Byte) : (s.store a v).pgSwitch = s.pgSwitch := rfl
@[simp] theorem State.store_env (s : State) (a : PAddr) (v : Byte) : (s.store a v).env = s.env := rfl
@[simp] theorem State.store_free (s : State) (a : PAddr) (v : Byte) : (s.store a v).free = s.free := rfl
@[simp] theorem State.store_mem (s : State) (a : PAddr) (v : Byte) : (s.store a v).mem = s.mem.write a v := rfl

theorem State.storeAll_keeps {β : Type} (g : State → β) (h : ∀ (s : State) (a : PAddr) (v : Byte), g (s.store a v) = g s)
    (as : List PAddr) : ∀ (bs : List Byte) (s : State), g (s.storeAll as bs) = g s := by
  induction as with
  | nil => intro bs s; cases bs <;> rfl
  | cons a as ih =>
    intro bs s
    cases bs with
    | nil => rfl
    | cons b bs => exact (ih bs (s.store a b)).trans (h s a b)

@[simp] theorem State.storeAll_cpu (s : State) (as : List PAddr) (bs : List Byte) : (s.storeAll as bs).cpu = s.cpu := 
  State.storeAll_keeps (·.cpu) (fun _ _ _ => rfl) as bs s
@[simp] theorem State.storeAll_tlb (s : State) (as : List PAddr) (bs : List Byte) : (s.storeAll as bs).tlb = s.tlb := 
  State.storeAll_keeps (·.tlb) (fun _ _ _ => rfl) as bs s
@[simp] theorem State.storeAll_queue (s : State) (as : List PAddr) (bs : List Byte) : (s.storeAll as bs).queue = s.queue := 
  State.storeAll_keeps (·.queue) (fun _ _ _ => rfl) as bs s
@[simp] theorem State.storeAll_pgSwitch (s : State) (as : List PAddr) (bs : List Byte) : (s.storeAll as bs).pgSwitch = s.pgSwitch := 
  State.storeAll_keeps (·.pgSwitch) (fun _ _ _ => rfl) as bs s
@[simp] theorem State.storeAll_env (s : State) (as : List PAddr) (bs : List Byte) : (s.storeAll as bs).env = s.env := 
  State.storeAll_keeps (·.env) (fun _ _ _ => rfl) as bs s
@[simp] theorem State.storeAll_free (s : State) (as : List PAddr) (bs : List Byte) : (s.storeAll as bs).free = s.free := 
  State.storeAll_keeps (·.free) (fun _ _ _ => rfl) as bs s

/-- Memory after a store of several bytes. -/
@[simp] theorem State.storeAll_mem (as : List PAddr) : ∀ (bs : List Byte) (s : State),
    (s.storeAll as bs).mem = s.mem.writeAll as bs := by
  induction as with
  | nil => intro bs s; cases bs <;> rfl
  | cons a as ih =>
    intro bs s
    cases bs with
    | nil => rfl
    | cons b bs => simp [State.storeAll, Memory.writeAll, ih]

@[simp] theorem State.sysStored_cpu (s : State) (la : Dword) (sz : Sz) (v : BitVec sz.bits) : (s.sysStored la sz v).cpu = s.cpu := by
  simp [State.sysStored]
@[simp] theorem State.sysStored_tlb (s : State) (la : Dword) (sz : Sz) (v : BitVec sz.bits) : (s.sysStored la sz v).tlb = s.tlb := by
  simp [State.sysStored]
@[simp] theorem State.sysStored_queue (s : State) (la : Dword) (sz : Sz) (v : BitVec sz.bits) : (s.sysStored la sz v).queue = s.queue := by
  simp [State.sysStored]
@[simp] theorem State.sysStored_pgSwitch (s : State) (la : Dword) (sz : Sz) (v : BitVec sz.bits) : (s.sysStored la sz v).pgSwitch = s.pgSwitch := by
  simp [State.sysStored]
@[simp] theorem State.sysStored_free (s : State) (la : Dword) (sz : Sz) (v : BitVec sz.bits) : (s.sysStored la sz v).free = s.free := by
  simp [State.sysStored]
@[simp] theorem State.sysStored_mem (s : State) (la : Dword) (sz : Sz) (v : BitVec sz.bits) :
    (s.sysStored la sz v).mem = s.mem.writeAll (physBytes la sz.bytes) (toBytes sz v) := by
  simp [State.sysStored]

@[simp] theorem State.storedAt_gpr (s : State) (la : Dword) (sz : Sz) (v : BitVec sz.bits) : (s.storedAt la sz v).cpu.gpr = s.cpu.gpr := by
  simp [State.storedAt]
@[simp] theorem State.storedAt_eip (s : State) (la : Dword) (sz : Sz) (v : BitVec sz.bits) : (s.storedAt la sz v).cpu.eip = s.cpu.eip := by
  simp [State.storedAt]
@[simp] theorem State.storedAt_flags (s : State) (la : Dword) (sz : Sz) (v : BitVec sz.bits) : (s.storedAt la sz v).cpu.flags = s.cpu.flags := by
  simp [State.storedAt]
@[simp] theorem State.storedAt_segs (s : State) (la : Dword) (sz : Sz) (v : BitVec sz.bits) : (s.storedAt la sz v).cpu.segs = s.cpu.segs := by
  simp [State.storedAt]
@[simp] theorem State.storedAt_cpl (s : State) (la : Dword) (sz : Sz) (v : BitVec sz.bits) : (s.storedAt la sz v).cpu.cpl = s.cpu.cpl := by
  simp [State.storedAt]
@[simp] theorem State.storedAt_cr0 (s : State) (la : Dword) (sz : Sz) (v : BitVec sz.bits) : (s.storedAt la sz v).cpu.cr0 = s.cpu.cr0 := by
  simp [State.storedAt]
@[simp] theorem State.storedAt_cr2 (s : State) (la : Dword) (sz : Sz) (v : BitVec sz.bits) : (s.storedAt la sz v).cpu.cr2 = s.cpu.cr2 := by
  simp [State.storedAt]
@[simp] theorem State.storedAt_cr3 (s : State) (la : Dword) (sz : Sz) (v : BitVec sz.bits) : (s.storedAt la sz v).cpu.cr3 = s.cpu.cr3 := by
  simp [State.storedAt]
@[simp] theorem State.storedAt_gdtr (s : State) (la : Dword) (sz : Sz) (v : BitVec sz.bits) : (s.storedAt la sz v).cpu.gdtr = s.cpu.gdtr := by
  simp [State.storedAt]
@[simp] theorem State.storedAt_idtr (s : State) (la : Dword) (sz : Sz) (v : BitVec sz.bits) : (s.storedAt la sz v).cpu.idtr = s.cpu.idtr := by
  simp [State.storedAt]
@[simp] theorem State.storedAt_ldtr (s : State) (la : Dword) (sz : Sz) (v : BitVec sz.bits) : (s.storedAt la sz v).cpu.ldtr = s.cpu.ldtr := by
  simp [State.storedAt]
@[simp] theorem State.storedAt_tr (s : State) (la : Dword) (sz : Sz) (v : BitVec sz.bits) : (s.storedAt la sz v).cpu.tr = s.cpu.tr := by
  simp [State.storedAt]
@[simp] theorem State.storedAt_dbg (s : State) (la : Dword) (sz : Sz) (v : BitVec sz.bits) : (s.storedAt la sz v).cpu.dbg = s.cpu.dbg := by
  simp [State.storedAt]
@[simp] theorem State.storedAt_test (s : State) (la : Dword) (sz : Sz) (v : BitVec sz.bits) : (s.storedAt la sz v).cpu.test = s.cpu.test := by
  simp [State.storedAt]
@[simp] theorem State.storedAt_run (s : State) (la : Dword) (sz : Sz) (v : BitVec sz.bits) : (s.storedAt la sz v).cpu.run = s.cpu.run := by
  simp [State.storedAt]
@[simp] theorem State.storedAt_nmiInService (s : State) (la : Dword) (sz : Sz) (v : BitVec sz.bits) : (s.storedAt la sz v).cpu.nmiInService = s.cpu.nmiInService := by
  simp [State.storedAt]
@[simp] theorem State.storedAt_nmiPending (s : State) (la : Dword) (sz : Sz) (v : BitVec sz.bits) : (s.storedAt la sz v).cpu.nmiPending = s.cpu.nmiPending := by
  simp [State.storedAt]
@[simp] theorem State.storedAt_nmiLevel (s : State) (la : Dword) (sz : Sz) (v : BitVec sz.bits) : (s.storedAt la sz v).cpu.nmiLevel = s.cpu.nmiLevel := by
  simp [State.storedAt]
@[simp] theorem State.storedAt_inhibit (s : State) (la : Dword) (sz : Sz) (v : BitVec sz.bits) : (s.storedAt la sz v).cpu.inhibit = s.cpu.inhibit := by
  simp [State.storedAt]
@[simp] theorem State.storedAt_trap (s : State) (la : Dword) (sz : Sz) (v : BitVec sz.bits) : (s.storedAt la sz v).cpu.trap = s.cpu.trap := by
  simp [State.storedAt]
@[simp] theorem State.storedAt_repActive (s : State) (la : Dword) (sz : Sz) (v : BitVec sz.bits) : (s.storedAt la sz v).cpu.repActive = s.cpu.repActive := by
  simp [State.storedAt]
@[simp] theorem State.storedAt_escWaiting (s : State) (la : Dword) (sz : Sz) (v : BitVec sz.bits) : (s.storedAt la sz v).cpu.escWaiting = s.cpu.escWaiting := by
  simp [State.storedAt]
@[simp] theorem State.storedAt_peSwitched (s : State) (la : Dword) (sz : Sz) (v : BitVec sz.bits) : (s.storedAt la sz v).cpu.peSwitched = s.cpu.peSwitched := by
  simp [State.storedAt]
@[simp] theorem State.storedAt_tlb (s : State) (la : Dword) (sz : Sz) (v : BitVec sz.bits) : (s.storedAt la sz v).tlb = s.tlb := by
  simp [State.storedAt]
@[simp] theorem State.storedAt_queue (s : State) (la : Dword) (sz : Sz) (v : BitVec sz.bits) : (s.storedAt la sz v).queue = s.queue := by
  simp [State.storedAt]
@[simp] theorem State.storedAt_pgSwitch (s : State) (la : Dword) (sz : Sz) (v : BitVec sz.bits) : (s.storedAt la sz v).pgSwitch = s.pgSwitch := by
  simp [State.storedAt]
@[simp] theorem State.storedAt_free (s : State) (la : Dword) (sz : Sz) (v : BitVec sz.bits) : (s.storedAt la sz v).free = s.free := by
  simp [State.storedAt]
@[simp] theorem State.storedAt_mem (s : State) (la : Dword) (sz : Sz) (v : BitVec sz.bits) : (s.storedAt la sz v).mem = s.mem.writeAll (physBytes la sz.bytes) (toBytes sz v) := by
  simp [State.storedAt]
@[simp] theorem State.storedAt_pfx (s : State) (la : Dword) (sz : Sz) (v : BitVec sz.bits) : (s.storedAt la sz v).cpu.cur.pfx = s.cpu.cur.pfx := by
  simp [State.storedAt]

@[simp] theorem Cpu.withSp_eip (c : Cpu) (v : Dword) : (c.withSp v).eip = c.eip := rfl
@[simp] theorem Cpu.withSp_flags (c : Cpu) (v : Dword) : (c.withSp v).flags = c.flags := rfl
@[simp] theorem Cpu.withSp_segs (c : Cpu) (v : Dword) : (c.withSp v).segs = c.segs := rfl
@[simp] theorem Cpu.withSp_cpl (c : Cpu) (v : Dword) : (c.withSp v).cpl = c.cpl := rfl
@[simp] theorem Cpu.withSp_cr0 (c : Cpu) (v : Dword) : (c.withSp v).cr0 = c.cr0 := rfl
@[simp] theorem Cpu.withSp_cr2 (c : Cpu) (v : Dword) : (c.withSp v).cr2 = c.cr2 := rfl
@[simp] theorem Cpu.withSp_cr3 (c : Cpu) (v : Dword) : (c.withSp v).cr3 = c.cr3 := rfl
@[simp] theorem Cpu.withSp_gdtr (c : Cpu) (v : Dword) : (c.withSp v).gdtr = c.gdtr := rfl
@[simp] theorem Cpu.withSp_idtr (c : Cpu) (v : Dword) : (c.withSp v).idtr = c.idtr := rfl
@[simp] theorem Cpu.withSp_ldtr (c : Cpu) (v : Dword) : (c.withSp v).ldtr = c.ldtr := rfl
@[simp] theorem Cpu.withSp_tr (c : Cpu) (v : Dword) : (c.withSp v).tr = c.tr := rfl
@[simp] theorem Cpu.withSp_dbg (c : Cpu) (v : Dword) : (c.withSp v).dbg = c.dbg := rfl
@[simp] theorem Cpu.withSp_test (c : Cpu) (v : Dword) : (c.withSp v).test = c.test := rfl
@[simp] theorem Cpu.withSp_run (c : Cpu) (v : Dword) : (c.withSp v).run = c.run := rfl
@[simp] theorem Cpu.withSp_nmiInService (c : Cpu) (v : Dword) : (c.withSp v).nmiInService = c.nmiInService := rfl
@[simp] theorem Cpu.withSp_nmiPending (c : Cpu) (v : Dword) : (c.withSp v).nmiPending = c.nmiPending := rfl
@[simp] theorem Cpu.withSp_nmiLevel (c : Cpu) (v : Dword) : (c.withSp v).nmiLevel = c.nmiLevel := rfl
@[simp] theorem Cpu.withSp_inhibit (c : Cpu) (v : Dword) : (c.withSp v).inhibit = c.inhibit := rfl
@[simp] theorem Cpu.withSp_trap (c : Cpu) (v : Dword) : (c.withSp v).trap = c.trap := rfl
@[simp] theorem Cpu.withSp_repActive (c : Cpu) (v : Dword) : (c.withSp v).repActive = c.repActive := rfl
@[simp] theorem Cpu.withSp_escWaiting (c : Cpu) (v : Dword) : (c.withSp v).escWaiting = c.escWaiting := rfl
@[simp] theorem Cpu.withSp_peSwitched (c : Cpu) (v : Dword) : (c.withSp v).peSwitched = c.peSwitched := rfl
@[simp] theorem Cpu.withSp_cur (c : Cpu) (v : Dword) : (c.withSp v).cur = c.cur := rfl

@[simp] theorem Cpu.withIndex_eip (c : Cpu) (r : Reg) (v : Dword) : (c.withIndex r v).eip = c.eip := rfl
@[simp] theorem Cpu.withIndex_flags (c : Cpu) (r : Reg) (v : Dword) : (c.withIndex r v).flags = c.flags := rfl
@[simp] theorem Cpu.withIndex_segs (c : Cpu) (r : Reg) (v : Dword) : (c.withIndex r v).segs = c.segs := rfl
@[simp] theorem Cpu.withIndex_cpl (c : Cpu) (r : Reg) (v : Dword) : (c.withIndex r v).cpl = c.cpl := rfl
@[simp] theorem Cpu.withIndex_cr0 (c : Cpu) (r : Reg) (v : Dword) : (c.withIndex r v).cr0 = c.cr0 := rfl
@[simp] theorem Cpu.withIndex_cr2 (c : Cpu) (r : Reg) (v : Dword) : (c.withIndex r v).cr2 = c.cr2 := rfl
@[simp] theorem Cpu.withIndex_cr3 (c : Cpu) (r : Reg) (v : Dword) : (c.withIndex r v).cr3 = c.cr3 := rfl
@[simp] theorem Cpu.withIndex_gdtr (c : Cpu) (r : Reg) (v : Dword) : (c.withIndex r v).gdtr = c.gdtr := rfl
@[simp] theorem Cpu.withIndex_idtr (c : Cpu) (r : Reg) (v : Dword) : (c.withIndex r v).idtr = c.idtr := rfl
@[simp] theorem Cpu.withIndex_ldtr (c : Cpu) (r : Reg) (v : Dword) : (c.withIndex r v).ldtr = c.ldtr := rfl
@[simp] theorem Cpu.withIndex_tr (c : Cpu) (r : Reg) (v : Dword) : (c.withIndex r v).tr = c.tr := rfl
@[simp] theorem Cpu.withIndex_dbg (c : Cpu) (r : Reg) (v : Dword) : (c.withIndex r v).dbg = c.dbg := rfl
@[simp] theorem Cpu.withIndex_test (c : Cpu) (r : Reg) (v : Dword) : (c.withIndex r v).test = c.test := rfl
@[simp] theorem Cpu.withIndex_run (c : Cpu) (r : Reg) (v : Dword) : (c.withIndex r v).run = c.run := rfl
@[simp] theorem Cpu.withIndex_nmiInService (c : Cpu) (r : Reg) (v : Dword) : (c.withIndex r v).nmiInService = c.nmiInService := rfl
@[simp] theorem Cpu.withIndex_nmiPending (c : Cpu) (r : Reg) (v : Dword) : (c.withIndex r v).nmiPending = c.nmiPending := rfl
@[simp] theorem Cpu.withIndex_nmiLevel (c : Cpu) (r : Reg) (v : Dword) : (c.withIndex r v).nmiLevel = c.nmiLevel := rfl
@[simp] theorem Cpu.withIndex_inhibit (c : Cpu) (r : Reg) (v : Dword) : (c.withIndex r v).inhibit = c.inhibit := rfl
@[simp] theorem Cpu.withIndex_trap (c : Cpu) (r : Reg) (v : Dword) : (c.withIndex r v).trap = c.trap := rfl
@[simp] theorem Cpu.withIndex_repActive (c : Cpu) (r : Reg) (v : Dword) : (c.withIndex r v).repActive = c.repActive := rfl
@[simp] theorem Cpu.withIndex_escWaiting (c : Cpu) (r : Reg) (v : Dword) : (c.withIndex r v).escWaiting = c.escWaiting := rfl
@[simp] theorem Cpu.withIndex_peSwitched (c : Cpu) (r : Reg) (v : Dword) : (c.withIndex r v).peSwitched = c.peSwitched := rfl
@[simp] theorem Cpu.withIndex_cur (c : Cpu) (r : Reg) (v : Dword) : (c.withIndex r v).cur = c.cur := rfl

@[simp] theorem Cpu.withCr0_gpr (c : Cpu) (r : CR0) : (c.withCr0 r).gpr = c.gpr := rfl
@[simp] theorem Cpu.withCr0_eip (c : Cpu) (r : CR0) : (c.withCr0 r).eip = c.eip := rfl
@[simp] theorem Cpu.withCr0_flags (c : Cpu) (r : CR0) : (c.withCr0 r).flags = c.flags := rfl
@[simp] theorem Cpu.withCr0_segs (c : Cpu) (r : CR0) : (c.withCr0 r).segs = c.segs := rfl
@[simp] theorem Cpu.withCr0_cpl (c : Cpu) (r : CR0) : (c.withCr0 r).cpl = c.cpl := rfl
@[simp] theorem Cpu.withCr0_cr2 (c : Cpu) (r : CR0) : (c.withCr0 r).cr2 = c.cr2 := rfl
@[simp] theorem Cpu.withCr0_cr3 (c : Cpu) (r : CR0) : (c.withCr0 r).cr3 = c.cr3 := rfl
@[simp] theorem Cpu.withCr0_gdtr (c : Cpu) (r : CR0) : (c.withCr0 r).gdtr = c.gdtr := rfl
@[simp] theorem Cpu.withCr0_idtr (c : Cpu) (r : CR0) : (c.withCr0 r).idtr = c.idtr := rfl
@[simp] theorem Cpu.withCr0_ldtr (c : Cpu) (r : CR0) : (c.withCr0 r).ldtr = c.ldtr := rfl
@[simp] theorem Cpu.withCr0_tr (c : Cpu) (r : CR0) : (c.withCr0 r).tr = c.tr := rfl
@[simp] theorem Cpu.withCr0_dbg (c : Cpu) (r : CR0) : (c.withCr0 r).dbg = c.dbg := rfl
@[simp] theorem Cpu.withCr0_test (c : Cpu) (r : CR0) : (c.withCr0 r).test = c.test := rfl
@[simp] theorem Cpu.withCr0_run (c : Cpu) (r : CR0) : (c.withCr0 r).run = c.run := rfl
@[simp] theorem Cpu.withCr0_nmiInService (c : Cpu) (r : CR0) : (c.withCr0 r).nmiInService = c.nmiInService := rfl
@[simp] theorem Cpu.withCr0_nmiPending (c : Cpu) (r : CR0) : (c.withCr0 r).nmiPending = c.nmiPending := rfl
@[simp] theorem Cpu.withCr0_nmiLevel (c : Cpu) (r : CR0) : (c.withCr0 r).nmiLevel = c.nmiLevel := rfl
@[simp] theorem Cpu.withCr0_inhibit (c : Cpu) (r : CR0) : (c.withCr0 r).inhibit = c.inhibit := rfl
@[simp] theorem Cpu.withCr0_trap (c : Cpu) (r : CR0) : (c.withCr0 r).trap = c.trap := rfl
@[simp] theorem Cpu.withCr0_repActive (c : Cpu) (r : CR0) : (c.withCr0 r).repActive = c.repActive := rfl
@[simp] theorem Cpu.withCr0_escWaiting (c : Cpu) (r : CR0) : (c.withCr0 r).escWaiting = c.escWaiting := rfl
@[simp] theorem Cpu.withCr0_cur (c : Cpu) (r : CR0) : (c.withCr0 r).cur = c.cur := rfl

@[simp] theorem Cpu.withCr0_cr0 (c : Cpu) (r : CR0) : (c.withCr0 r).cr0 = r := rfl

/-! ## Registers -/

/-- A 32-bit register after a write of one. -/
@[simp] theorem Gpr.get_set (g : Gpr) (r r' : Reg) (v : Dword) :
    (g.set r v).get r' = if r' = r then v else g.get r' := by
  cases r <;> cases r' <;> rfl

/-- Writing a register back changes nothing. -/
@[simp] theorem Gpr.set_get (g : Gpr) (r : Reg) : g.set r (g.get r) = g := by
  cases r <;> rfl

/-- The low byte of a dword. -/
theorem low8 (x : BitVec 24) (v : Byte) : (x ++ v).extractLsb' 0 8 = v := by
  ext i hi
  simp only [BitVec.getElem_extractLsb', BitVec.getLsbD_append, Nat.zero_add]
  simp [hi]
/-- The second byte of a dword. -/
theorem high8 (x : BitVec 16) (v y : Byte) : (x ++ v ++ y).extractLsb' 8 8 = v := by
  ext i hi
  simp only [BitVec.getElem_extractLsb', BitVec.getLsbD_append]
  have : ¬ (8 + i < 8) := by omega
  simp [this, hi]
/-- The low word of a dword. -/
theorem low16 (x : BitVec 16) (v : Word) : (x ++ v).setWidth 16 = v := by
  ext i hi
  simp only [BitVec.getElem_setWidth, BitVec.getLsbD_append]
  simp [hi]

/-- A register reads what was written to it, for every size and number. -/
@[simp] theorem Gpr.read_write (g : Gpr) (sz : Sz) (r : Reg) (v : BitVec sz.bits) : (g.write sz r v).read sz r = v := by
  cases sz with
  | b => cases r <;> simp only [Gpr.read, Gpr.write, byteHome, byteHigh, Gpr.get_set, if_true] <;> first | exact low8 _ _ | exact high8 _ _ _
  | w => simp only [Gpr.read, Gpr.write, Gpr.get_set, if_true]; exact low16 _ _
  | d => simp only [Gpr.read, Gpr.write, Gpr.get_set, if_true]

/-- A write leaves the 32-bit registers of other numbers alone. -/
theorem Gpr.get_write_of_ne (g : Gpr) (sz : Sz) (r r' : Reg) (v : BitVec sz.bits)
    (h : r' ≠ if sz = .b then byteHome r else r) : (g.write sz r v).get r' = g.get r' := by
  cases sz <;> simp only [Gpr.write] <;> (try split) <;> simp_all

/-- A segment register after a write of one. -/
@[simp] theorem Segs.get_set (g : Segs) (r r' : SReg) (v : SegReg) :
    (g.set r v).get r' = if r' = r then v else g.get r' := by
  cases r <;> cases r' <;> rfl

/-! ## Flags -/

@[simp] theorem EFlags.setSzp_cf (f : EFlags) {n : Nat} (r : BitVec n) : (f.setSzp r).cf = f.cf := by rfl
@[simp] theorem EFlags.setSzp_af (f : EFlags) {n : Nat} (r : BitVec n) : (f.setSzp r).af = f.af := by rfl
@[simp] theorem EFlags.setSzp_tf (f : EFlags) {n : Nat} (r : BitVec n) : (f.setSzp r).tf = f.tf := by rfl
@[simp] theorem EFlags.setSzp_intf (f : EFlags) {n : Nat} (r : BitVec n) : (f.setSzp r).intf = f.intf := by rfl
@[simp] theorem EFlags.setSzp_df (f : EFlags) {n : Nat} (r : BitVec n) : (f.setSzp r).df = f.df := by rfl
@[simp] theorem EFlags.setSzp_ovf (f : EFlags) {n : Nat} (r : BitVec n) : (f.setSzp r).ovf = f.ovf := by rfl
@[simp] theorem EFlags.setSzp_iopl (f : EFlags) {n : Nat} (r : BitVec n) : (f.setSzp r).iopl = f.iopl := by rfl
@[simp] theorem EFlags.setSzp_nt (f : EFlags) {n : Nat} (r : BitVec n) : (f.setSzp r).nt = f.nt := by rfl
@[simp] theorem EFlags.setSzp_rf (f : EFlags) {n : Nat} (r : BitVec n) : (f.setSzp r).rf = f.rf := by rfl
@[simp] theorem EFlags.setSzp_vm (f : EFlags) {n : Nat} (r : BitVec n) : (f.setSzp r).vm = f.vm := by rfl

@[simp] theorem EFlags.add_tf (f : EFlags) {n : Nat} (a b : BitVec n) (c : Bool) : (f.add a b c).tf = f.tf := by rfl
@[simp] theorem EFlags.add_intf (f : EFlags) {n : Nat} (a b : BitVec n) (c : Bool) : (f.add a b c).intf = f.intf := by rfl
@[simp] theorem EFlags.add_df (f : EFlags) {n : Nat} (a b : BitVec n) (c : Bool) : (f.add a b c).df = f.df := by rfl
@[simp] theorem EFlags.add_iopl (f : EFlags) {n : Nat} (a b : BitVec n) (c : Bool) : (f.add a b c).iopl = f.iopl := by rfl
@[simp] theorem EFlags.add_nt (f : EFlags) {n : Nat} (a b : BitVec n) (c : Bool) : (f.add a b c).nt = f.nt := by rfl
@[simp] theorem EFlags.add_rf (f : EFlags) {n : Nat} (a b : BitVec n) (c : Bool) : (f.add a b c).rf = f.rf := by rfl
@[simp] theorem EFlags.add_vm (f : EFlags) {n : Nat} (a b : BitVec n) (c : Bool) : (f.add a b c).vm = f.vm := by rfl

@[simp] theorem EFlags.sub_tf (f : EFlags) {n : Nat} (a b : BitVec n) (c : Bool) : (f.sub a b c).tf = f.tf := by rfl
@[simp] theorem EFlags.sub_intf (f : EFlags) {n : Nat} (a b : BitVec n) (c : Bool) : (f.sub a b c).intf = f.intf := by rfl
@[simp] theorem EFlags.sub_df (f : EFlags) {n : Nat} (a b : BitVec n) (c : Bool) : (f.sub a b c).df = f.df := by rfl
@[simp] theorem EFlags.sub_iopl (f : EFlags) {n : Nat} (a b : BitVec n) (c : Bool) : (f.sub a b c).iopl = f.iopl := by rfl
@[simp] theorem EFlags.sub_nt (f : EFlags) {n : Nat} (a b : BitVec n) (c : Bool) : (f.sub a b c).nt = f.nt := by rfl
@[simp] theorem EFlags.sub_rf (f : EFlags) {n : Nat} (a b : BitVec n) (c : Bool) : (f.sub a b c).rf = f.rf := by rfl
@[simp] theorem EFlags.sub_vm (f : EFlags) {n : Nat} (a b : BitVec n) (c : Bool) : (f.sub a b c).vm = f.vm := by rfl

@[simp] theorem EFlags.logic_tf (f : EFlags) {n : Nat} (r : BitVec n) (j : Dword) : (f.logic r j).tf = f.tf := by rfl
@[simp] theorem EFlags.logic_intf (f : EFlags) {n : Nat} (r : BitVec n) (j : Dword) : (f.logic r j).intf = f.intf := by rfl
@[simp] theorem EFlags.logic_df (f : EFlags) {n : Nat} (r : BitVec n) (j : Dword) : (f.logic r j).df = f.df := by rfl
@[simp] theorem EFlags.logic_iopl (f : EFlags) {n : Nat} (r : BitVec n) (j : Dword) : (f.logic r j).iopl = f.iopl := by rfl
@[simp] theorem EFlags.logic_nt (f : EFlags) {n : Nat} (r : BitVec n) (j : Dword) : (f.logic r j).nt = f.nt := by rfl
@[simp] theorem EFlags.logic_rf (f : EFlags) {n : Nat} (r : BitVec n) (j : Dword) : (f.logic r j).rf = f.rf := by rfl
@[simp] theorem EFlags.logic_vm (f : EFlags) {n : Nat} (r : BitVec n) (j : Dword) : (f.logic r j).vm = f.vm := by rfl

@[simp] theorem EFlags.setMul_pf (f : EFlags) (b : Bool) : (f.setMul b).pf = f.pf := by rfl
@[simp] theorem EFlags.setMul_af (f : EFlags) (b : Bool) : (f.setMul b).af = f.af := by rfl
@[simp] theorem EFlags.setMul_zf (f : EFlags) (b : Bool) : (f.setMul b).zf = f.zf := by rfl
@[simp] theorem EFlags.setMul_sf (f : EFlags) (b : Bool) : (f.setMul b).sf = f.sf := by rfl
@[simp] theorem EFlags.setMul_tf (f : EFlags) (b : Bool) : (f.setMul b).tf = f.tf := by rfl
@[simp] theorem EFlags.setMul_intf (f : EFlags) (b : Bool) : (f.setMul b).intf = f.intf := by rfl
@[simp] theorem EFlags.setMul_df (f : EFlags) (b : Bool) : (f.setMul b).df = f.df := by rfl
@[simp] theorem EFlags.setMul_iopl (f : EFlags) (b : Bool) : (f.setMul b).iopl = f.iopl := by rfl
@[simp] theorem EFlags.setMul_nt (f : EFlags) (b : Bool) : (f.setMul b).nt = f.nt := by rfl
@[simp] theorem EFlags.setMul_rf (f : EFlags) (b : Bool) : (f.setMul b).rf = f.rf := by rfl
@[simp] theorem EFlags.setMul_vm (f : EFlags) (b : Bool) : (f.setMul b).vm = f.vm := by rfl

@[simp] theorem EFlags.freeSzap_cf (f : EFlags) (j : Dword) : (f.freeSzap j).cf = f.cf := by rfl
@[simp] theorem EFlags.freeSzap_tf (f : EFlags) (j : Dword) : (f.freeSzap j).tf = f.tf := by rfl
@[simp] theorem EFlags.freeSzap_intf (f : EFlags) (j : Dword) : (f.freeSzap j).intf = f.intf := by rfl
@[simp] theorem EFlags.freeSzap_df (f : EFlags) (j : Dword) : (f.freeSzap j).df = f.df := by rfl
@[simp] theorem EFlags.freeSzap_ovf (f : EFlags) (j : Dword) : (f.freeSzap j).ovf = f.ovf := by rfl
@[simp] theorem EFlags.freeSzap_iopl (f : EFlags) (j : Dword) : (f.freeSzap j).iopl = f.iopl := by rfl
@[simp] theorem EFlags.freeSzap_nt (f : EFlags) (j : Dword) : (f.freeSzap j).nt = f.nt := by rfl
@[simp] theorem EFlags.freeSzap_rf (f : EFlags) (j : Dword) : (f.freeSzap j).rf = f.rf := by rfl
@[simp] theorem EFlags.freeSzap_vm (f : EFlags) (j : Dword) : (f.freeSzap j).vm = f.vm := by rfl

@[simp] theorem EFlags.freeAll_tf (f : EFlags) (j : Dword) : (f.freeAll j).tf = f.tf := by rfl
@[simp] theorem EFlags.freeAll_intf (f : EFlags) (j : Dword) : (f.freeAll j).intf = f.intf := by rfl
@[simp] theorem EFlags.freeAll_df (f : EFlags) (j : Dword) : (f.freeAll j).df = f.df := by rfl
@[simp] theorem EFlags.freeAll_iopl (f : EFlags) (j : Dword) : (f.freeAll j).iopl = f.iopl := by rfl
@[simp] theorem EFlags.freeAll_nt (f : EFlags) (j : Dword) : (f.freeAll j).nt = f.nt := by rfl
@[simp] theorem EFlags.freeAll_rf (f : EFlags) (j : Dword) : (f.freeAll j).rf = f.rf := by rfl
@[simp] theorem EFlags.freeAll_vm (f : EFlags) (j : Dword) : (f.freeAll j).vm = f.vm := by rfl

@[simp] theorem EFlags.freeOf_cf (f : EFlags) (j : Dword) : (f.freeOf j).cf = f.cf := by rfl
@[simp] theorem EFlags.freeOf_pf (f : EFlags) (j : Dword) : (f.freeOf j).pf = f.pf := by rfl
@[simp] theorem EFlags.freeOf_af (f : EFlags) (j : Dword) : (f.freeOf j).af = f.af := by rfl
@[simp] theorem EFlags.freeOf_zf (f : EFlags) (j : Dword) : (f.freeOf j).zf = f.zf := by rfl
@[simp] theorem EFlags.freeOf_sf (f : EFlags) (j : Dword) : (f.freeOf j).sf = f.sf := by rfl
@[simp] theorem EFlags.freeOf_tf (f : EFlags) (j : Dword) : (f.freeOf j).tf = f.tf := by rfl
@[simp] theorem EFlags.freeOf_intf (f : EFlags) (j : Dword) : (f.freeOf j).intf = f.intf := by rfl
@[simp] theorem EFlags.freeOf_df (f : EFlags) (j : Dword) : (f.freeOf j).df = f.df := by rfl
@[simp] theorem EFlags.freeOf_iopl (f : EFlags) (j : Dword) : (f.freeOf j).iopl = f.iopl := by rfl
@[simp] theorem EFlags.freeOf_nt (f : EFlags) (j : Dword) : (f.freeOf j).nt = f.nt := by rfl
@[simp] theorem EFlags.freeOf_rf (f : EFlags) (j : Dword) : (f.freeOf j).rf = f.rf := by rfl
@[simp] theorem EFlags.freeOf_vm (f : EFlags) (j : Dword) : (f.freeOf j).vm = f.vm := by rfl

@[simp] theorem EFlags.freeAf_cf (f : EFlags) (j : Dword) : (f.freeAf j).cf = f.cf := by rfl
@[simp] theorem EFlags.freeAf_pf (f : EFlags) (j : Dword) : (f.freeAf j).pf = f.pf := by rfl
@[simp] theorem EFlags.freeAf_zf (f : EFlags) (j : Dword) : (f.freeAf j).zf = f.zf := by rfl
@[simp] theorem EFlags.freeAf_sf (f : EFlags) (j : Dword) : (f.freeAf j).sf = f.sf := by rfl
@[simp] theorem EFlags.freeAf_tf (f : EFlags) (j : Dword) : (f.freeAf j).tf = f.tf := by rfl
@[simp] theorem EFlags.freeAf_intf (f : EFlags) (j : Dword) : (f.freeAf j).intf = f.intf := by rfl
@[simp] theorem EFlags.freeAf_df (f : EFlags) (j : Dword) : (f.freeAf j).df = f.df := by rfl
@[simp] theorem EFlags.freeAf_ovf (f : EFlags) (j : Dword) : (f.freeAf j).ovf = f.ovf := by rfl
@[simp] theorem EFlags.freeAf_iopl (f : EFlags) (j : Dword) : (f.freeAf j).iopl = f.iopl := by rfl
@[simp] theorem EFlags.freeAf_nt (f : EFlags) (j : Dword) : (f.freeAf j).nt = f.nt := by rfl
@[simp] theorem EFlags.freeAf_rf (f : EFlags) (j : Dword) : (f.freeAf j).rf = f.rf := by rfl
@[simp] theorem EFlags.freeAf_vm (f : EFlags) (j : Dword) : (f.freeAf j).vm = f.vm := by rfl

@[simp] theorem EFlags.freeCf_pf (f : EFlags) (j : Dword) : (f.freeCf j).pf = f.pf := by rfl
@[simp] theorem EFlags.freeCf_af (f : EFlags) (j : Dword) : (f.freeCf j).af = f.af := by rfl
@[simp] theorem EFlags.freeCf_zf (f : EFlags) (j : Dword) : (f.freeCf j).zf = f.zf := by rfl
@[simp] theorem EFlags.freeCf_sf (f : EFlags) (j : Dword) : (f.freeCf j).sf = f.sf := by rfl
@[simp] theorem EFlags.freeCf_tf (f : EFlags) (j : Dword) : (f.freeCf j).tf = f.tf := by rfl
@[simp] theorem EFlags.freeCf_intf (f : EFlags) (j : Dword) : (f.freeCf j).intf = f.intf := by rfl
@[simp] theorem EFlags.freeCf_df (f : EFlags) (j : Dword) : (f.freeCf j).df = f.df := by rfl
@[simp] theorem EFlags.freeCf_ovf (f : EFlags) (j : Dword) : (f.freeCf j).ovf = f.ovf := by rfl
@[simp] theorem EFlags.freeCf_iopl (f : EFlags) (j : Dword) : (f.freeCf j).iopl = f.iopl := by rfl
@[simp] theorem EFlags.freeCf_nt (f : EFlags) (j : Dword) : (f.freeCf j).nt = f.nt := by rfl
@[simp] theorem EFlags.freeCf_rf (f : EFlags) (j : Dword) : (f.freeCf j).rf = f.rf := by rfl
@[simp] theorem EFlags.freeCf_vm (f : EFlags) (j : Dword) : (f.freeCf j).vm = f.vm := by rfl

/-! ## The next free value and the registers after an update -/

@[simp] theorem State.withReg_freeVal (s : State) (sz : Sz) (r : Reg) (v : BitVec sz.bits) :
    (s.withReg sz r v).freeVal = s.freeVal := rfl

@[simp] theorem State.withFlags_freeVal (s : State) (f : EFlags) : (s.withFlags f).freeVal = s.freeVal := rfl

@[simp] theorem State.mapCpu_freeVal (s : State) (f : Cpu → Cpu) : (s.mapCpu f).freeVal = s.freeVal := rfl

@[simp] theorem State.noted_freeVal (s : State) (la : Dword) (n : Nat) :
    (s.noted la n).freeVal = s.freeVal := rfl

@[simp] theorem State.storedAt_freeVal (s : State) (la : Dword) (sz : Sz) (v : BitVec sz.bits) :
    (s.storedAt la sz v).freeVal = s.freeVal := by
  simp [State.freeVal]

@[simp] theorem State.drawn_reg (s : State) (sz : Sz) (r : Reg) : s.drawn.reg sz r = s.reg sz r := rfl

@[simp] theorem State.withFlags_reg (s : State) (f : EFlags) (sz : Sz) (r : Reg) :
    (s.withFlags f).reg sz r = s.reg sz r := rfl

@[simp] theorem State.noted_reg (s : State) (la : Dword) (n : Nat) (sz : Sz) (r : Reg) :
    (s.noted la n).reg sz r = s.reg sz r := rfl

@[simp] theorem State.storedAt_reg (s : State) (la : Dword) (sz : Sz) (v : BitVec sz.bits) (sz' : Sz) (r : Reg) :
    (s.storedAt la sz v).reg sz' r = s.reg sz' r := by
  simp [State.reg]

/-- A noted access reads the same memory. -/
@[simp] theorem State.noted_loadAt (s : State) (la : Dword) (n : Nat) (la' : Dword) (sz : Sz) :
    (s.noted la n).loadAt la' sz = s.loadAt la' sz := rfl

/-- A noted access allows the same accesses. -/
@[simp] theorem State.noted_canAccess (s : State) (la : Dword) (n : Nat) (r : SReg) (off : Dword) (k : Nat)
    (acc : Access) : (s.noted la n).canAccess r off k acc = s.canAccess r off k acc := rfl

@[simp] theorem State.sysLoaded_loadAt (s : State) (la : Dword) (n : Nat) (la' : Dword) (sz : Sz) :
    (s.sysLoaded la n).loadAt la' sz = s.loadAt la' sz := rfl

@[simp] theorem State.sysLoaded_canAccess (s : State) (la : Dword) (n : Nat) (r : SReg) (off : Dword) (k : Nat) (acc : Access) :
    (s.sysLoaded la n).canAccess r off k acc = s.canAccess r off k acc := rfl

/-- What an exception after a read of the program leaves: the registers put back, the read on the bus. -/
theorem State.noted_restored (s : State) (la : Dword) (n : Nat) :
    { s.noted la n with cpu := s.cpu } = s.sysLoaded la n := rfl

/-! ## Index registers (R410) -/

@[simp] theorem Cpu.withIndex_as32 (c : Cpu) (r : Reg) (v : Dword) : (c.withIndex r v).as32 = c.as32 := rfl

/-- A write of an index register leaves the other general registers. -/
theorem Cpu.withIndex_get_of_ne {c : Cpu} {r x : Reg} (h : x ≠ r) (v : Dword) :
    (c.withIndex r v).gpr.get x = c.gpr.get x := by
  simp only [Cpu.withIndex]
  split <;> exact (Gpr.get_set _ _ _ _).trans (if_neg h)

/-- A write of an index register leaves the other index registers. -/
theorem Cpu.index_withIndex_of_ne {c : Cpu} {r x : Reg} (h : x ≠ r) (v : Dword) :
    (c.withIndex r v).index x = c.index x := by
  simp only [Cpu.index, Cpu.withIndex_as32, Cpu.withIndex_get_of_ne h]

/-- Stepping an index register leaves the others. -/
theorem State.stepped_index_of_ne {s : State} {r x : Reg} (h : x ≠ r) (sz : Sz) :
    (s.stepped r sz).cpu.index x = s.cpu.index x := Cpu.index_withIndex_of_ne h _

@[simp] theorem State.storedAt_as32 (s : State) (la : Dword) (sz : Sz) (v : BitVec sz.bits) :
    (s.storedAt la sz v).cpu.as32 = s.cpu.as32 := by
  simp [Cpu.as32, Cpu.code32, Cpu.prot]

@[simp] theorem State.storedAt_index (s : State) (la : Dword) (sz : Sz) (v : BitVec sz.bits) (r : Reg) :
    (s.storedAt la sz v).cpu.index r = s.cpu.index r := by
  simp [Cpu.index]

@[simp] theorem State.noted_index (s : State) (la : Dword) (n : Nat) (r : Reg) :
    (s.noted la n).cpu.index r = s.cpu.index r := rfl

/-- The count register after it was written. -/
theorem Cpu.index_withIndex {c : Cpu} {r : Reg} {v : Dword} (h : c.as32 = true ∨ v.toNat < 0x10000) :
    (c.withIndex r v).index r = v := by
  rw [Cpu.index, Cpu.withIndex_as32, Cpu.withIndex]
  cases ha : c.as32
  · have hv : v.toNat < 0x10000 := by simpa [ha] using h
    simp only [Bool.false_eq_true, if_false]
    rw [(Gpr.get_set _ _ _ _).trans (if_pos rfl), low16]
    apply BitVec.eq_of_toNat_eq
    simp only [BitVec.toNat_setWidth]
    omega
  · simp only [if_true]
    exact (Gpr.get_set _ _ _ _).trans (if_pos rfl)

/-- With 16-bit addresses an index register is a 16-bit value. -/
theorem Cpu.index_lt {c : Cpu} (h : c.as32 = false) (r : Reg) : (c.index r).toNat < 0x10000 := by
  simp only [Cpu.index, h, Bool.false_eq_true, if_false]
  simp only [BitVec.toNat_setWidth]
  omega

/-- Counting the count register down ends at 0 exactly from 1 (R420, R451). -/
theorem Cpu.count_ends {c : Cpu} (h : c.index .ecx ≠ 0) :
    (c.withIndex .ecx (c.index .ecx - 1)).index .ecx = 0 ↔ c.index .ecx = 1 := by
  have hr : c.as32 = true ∨ (c.index .ecx - 1).toNat < 0x10000 := by
    cases ha : c.as32
    · right
      have := Cpu.index_lt ha .ecx
      generalize c.index .ecx = x at *
      bv_omega
    · exact Or.inl rfl
  rw [Cpu.index_withIndex hr]
  generalize c.index .ecx = x at *
  constructor
  · intro hx
    bv_omega
  · intro hx
    subst hx
    rfl

end Sys2Proof.Machine
end

