-- ==== Sys2Proof/Laws/Access.lean ====
section
/-! SUPPORT. What the shared operations do with paging off, one lemma each: the access primitive, operands, the stack, I/O,
and the shell every meaning runs in. -/

namespace Sys2Proof.Machine

/-! ## The access primitive -/

/-- With paging off an operand lies at its linear address. -/
theorem translate_off {s : State} (h : s.cpu.cr0.pg = false) (la : Dword) (n : Nat) (acc : Access) (user : Bool) :
    translate la n acc user s = .ok (physBytes la n) s := by
  simp [translate, bind_run, h, physBytes]

/-- The checks of the access primitive pass exactly when the segment allows the access. -/
theorem segCheck_ok {s : State} {r : SReg} {off : Dword} {n : Nat} {acc : Access} (h : s.cpu.allows r off n acc = true) :
    segCheck r off n acc s = .ok (s.cpu.linear r off) s := by
  unfold Cpu.allows at h
  simp only [segCheck, bind_run, getCpu_run, withinLimit]
  cases hp : s.cpu.prot
  · simp only [hp, Bool.false_eq_true, if_false] at h
    simp only [Bool.false_eq_true, if_false, bind_run, require_run, h, if_true, pure_run, Cpu.linear]
  · simp only [hp, if_true, Bool.and_eq_true] at h
    simp [bind_run, h, Cpu.linear]

/-- An access the segment forbids raises an exception and changes nothing. -/
theorem segCheck_error {s : State} {r : SReg} {off : Dword} {n : Nat} {acc : Access}
    (h : s.cpu.allows r off n acc = false) :
    segCheck r off n acc s = .error (.exc (limitFault r)) s ∨ segCheck r off n acc s = .error (.exc (.gp 0)) s := by
  unfold Cpu.allows at h
  simp only [segCheck, bind_run, getCpu_run, withinLimit]
  cases hp : s.cpu.prot
  · simp only [hp, Bool.false_eq_true, if_false] at h
    left
    simp only [Bool.false_eq_true, if_false, bind_run, require_run, h]
  · simp only [hp, if_true] at h
    simp only [if_true, bind_run, require_run]
    by_cases h1 : (s.cpu.segs.get r).valid = true <;> by_cases h2 : rightsOk (s.cpu.segs.get r) acc = true <;>
      simp_all

/-- A read through a segment that allows it. -/
theorem segRead_ok {s : State} {r : SReg} {off : Dword} {sz : Sz} (h : s.canAccess r off sz.bytes .read = true) :
    segRead r off sz s = .ok (s.loadAt (s.cpu.linear r off) sz) (s.noted (s.cpu.linear r off) sz.bytes) := by
  simp only [State.canAccess, Bool.and_eq_true, Bool.not_eq_true'] at h
  simp only [segRead, bind_run, segCheck_ok h.2, noteData_run, getCpu_run, linRead]
  rw [translate_off (by simpa using h.1)]
  simp only [readAll_run, State.loadAt, pure_run, State.hit_mem]
  rfl

/-- A write through a segment that allows it. -/
theorem segWrite_ok {s : State} {r : SReg} {off : Dword} {sz : Sz} (v : BitVec sz.bits)
    (h : s.canAccess r off sz.bytes .write = true) :
    segWrite r off sz v s = .ok () (s.storedAt (s.cpu.linear r off) sz v) := by
  simp only [State.canAccess, Bool.and_eq_true, Bool.not_eq_true'] at h
  simp only [segWrite, bind_run, segCheck_ok h.2, noteData_run, getCpu_run, linWrite]
  rw [translate_off (by simpa using h.1)]
  simp only [writeAll_run]
  rfl

/-- The check before a read-modify-write changes nothing. -/
theorem segVerify_ok {s : State} {r : SReg} {off : Dword} {n : Nat} (h : s.canAccess r off n .write = true) :
    segVerify r off n s = .ok () s := by
  simp only [State.canAccess, Bool.and_eq_true, Bool.not_eq_true'] at h
  have h2 : s.cpu.allows r off n .verify = true := h.2
  simp only [segVerify, bind_run, segCheck_ok h2, getCpu_run]
  rw [translate_off h.1]
  simp

/-- What may be written may be read. -/
theorem Cpu.allows_read_of_write {c : Cpu} {r : SReg} {off : Dword} {n : Nat} (h : c.allows r off n .write = true) :
    c.allows r off n .read = true := by
  unfold Cpu.allows at *
  split at h <;> rename_i hp
  · simp_all [rightsOk, Access.writes]
  · simp_all

/-- What may be written may be read. -/
theorem State.canAccess_read_of_write {s : State} {r : SReg} {off : Dword} {n : Nat}
    (h : s.canAccess r off n .write = true) : s.canAccess r off n .read = true := by
  simp only [State.canAccess, Bool.and_eq_true] at *
  exact ⟨h.1, Cpu.allows_read_of_write h.2⟩

/-- What an access may do depends on the modes and the segment registers alone. -/
theorem State.canAccess_congr {s t : State} (h0 : t.cpu.cr0 = s.cpu.cr0) (h1 : t.cpu.segs = s.cpu.segs)
    (h2 : t.cpu.flags.vm = s.cpu.flags.vm) (r : SReg) (off : Dword) (n : Nat) (acc : Access) :
    t.canAccess r off n acc = s.canAccess r off n acc := by
  simp [State.canAccess, Cpu.allows, Cpu.prot, h0, h1, h2]

/-! ## Operands -/

/-- A memory operand `k` bytes above its effective address, read. -/
theorem readMem_ok {s : State} {sz : Sz} {m : Mem} {k : Dword} (h : s.memCan m k sz.bytes .read = true) :
    readMem sz m k s = .ok (s.loadAt (s.memLinear m k) sz) (s.noted (s.memLinear m k) sz.bytes) := by
  simp only [readMem, bind_run, getCpu_run]
  exact segRead_ok h

/-- A memory operand `k` bytes above its effective address, written. -/
theorem writeMem_ok {s : State} {sz : Sz} {m : Mem} {k : Dword} (v : BitVec sz.bits)
    (h : s.memCan m k sz.bytes .write = true) :
    writeMem sz m k v s = .ok () (s.storedAt (s.memLinear m k) sz v) := by
  simp only [writeMem, bind_run, getCpu_run]
  exact segWrite_ok v h

/-- The r/m operand read (R260). -/
theorem readRM_ok {s : State} {sz : Sz} {rm : RM} (h : s.canRead sz rm = true) :
    readRM sz rm s = .ok (s.rmValue sz rm) (s.rmRead sz rm) := by
  cases rm with
  | reg r => rfl
  | mem m => exact readMem_ok h

/-- The r/m operand written (R260). -/
theorem writeRM_ok {s : State} {sz : Sz} {rm : RM} (v : BitVec sz.bits) (h : s.canWrite sz rm = true) :
    writeRM sz rm v s = .ok () (s.rmWritten sz rm v) := by
  cases rm with
  | reg r => rfl
  | mem m => exact writeMem_ok v h

/-- What may be written may be read. -/
theorem State.canRead_of_canWrite {s : State} {sz : Sz} {rm : RM} (h : s.canWrite sz rm = true) :
    s.canRead sz rm = true := by
  cases rm with
  | reg r => rfl
  | mem m => exact State.canAccess_read_of_write h

/-- A read-modify-write destination read (R260). -/
theorem readDest_ok {s : State} {sz : Sz} {rm : RM} (h : s.canWrite sz rm = true) :
    readDest sz rm s = .ok (s.rmValue sz rm) (s.rmRead sz rm) := by
  have hv : verifyRM sz rm s = .ok () s := by
    cases rm with
    | reg r => rfl
    | mem m =>
      have h' : s.canAccess (memSegment s.cpu m) (memOffset s.cpu.gpr m) sz.bytes .write = true := by
        have : s.memOff m 0 = memOffset s.cpu.gpr m := by
          simp only [State.memOff, memOffset, memWrap, BitVec.add_zero, BitVec.ofNat_eq_ofNat]
          split <;> simp
        rw [← this]
        exact h
      simp only [verifyRM, bind_run, getCpu_run]
      exact segVerify_ok h'
  rw [readDest, bind_ok hv]
  exact readRM_ok (State.canRead_of_canWrite h)

/-- Reading an operand leaves what may be written. -/
@[simp] theorem State.canWrite_rmRead (s : State) (sz sz' : Sz) (rm rm' : RM) :
    (s.rmRead sz rm).canWrite sz' rm' = s.canWrite sz' rm' := by
  cases rm <;> cases rm' <;> rfl

/-- Reading an operand leaves what may be read. -/
@[simp] theorem State.canRead_rmRead (s : State) (sz sz' : Sz) (rm rm' : RM) :
    (s.rmRead sz rm).canRead sz' rm' = s.canRead sz' rm' := by
  cases rm <;> cases rm' <;> rfl

@[simp] theorem State.rmRead_gpr (s : State) (sz : Sz) (rm : RM) : (s.rmRead sz rm).cpu.gpr = s.cpu.gpr := by
  cases rm <;> rfl

@[simp] theorem State.rmRead_flags (s : State) (sz : Sz) (rm : RM) : (s.rmRead sz rm).cpu.flags = s.cpu.flags := by
  cases rm <;> rfl

@[simp] theorem State.rmRead_segs (s : State) (sz : Sz) (rm : RM) : (s.rmRead sz rm).cpu.segs = s.cpu.segs := by
  cases rm <;> rfl

@[simp] theorem State.rmRead_mem (s : State) (sz : Sz) (rm : RM) : (s.rmRead sz rm).mem = s.mem := by
  cases rm <;> rfl

@[simp] theorem State.rmRead_free (s : State) (sz : Sz) (rm : RM) : (s.rmRead sz rm).free = s.free := by
  cases rm <;> rfl

@[simp] theorem State.rmRead_reg (s : State) (sz sz' : Sz) (rm : RM) (r : Reg) :
    (s.rmRead sz rm).reg sz' r = s.reg sz' r := by
  cases rm <;> rfl

@[simp] theorem State.rmRead_freeVal (s : State) (sz : Sz) (rm : RM) : (s.rmRead sz rm).freeVal = s.freeVal := by
  cases rm <;> rfl

@[simp] theorem State.rmWritten_flags (s : State) (sz : Sz) (rm : RM) (v : BitVec sz.bits) :
    (s.rmWritten sz rm v).cpu.flags = s.cpu.flags := by
  cases rm <;> simp [State.rmWritten]

@[simp] theorem State.rmWritten_free (s : State) (sz : Sz) (rm : RM) (v : BitVec sz.bits) :
    (s.rmWritten sz rm v).free = s.free := by
  cases rm <;> simp [State.rmWritten]

@[simp] theorem State.rmWritten_freeVal (s : State) (sz : Sz) (rm : RM) (v : BitVec sz.bits) :
    (s.rmWritten sz rm v).freeVal = s.freeVal := by
  simp [State.freeVal]

/-- A read-modify-write destination written after it was read (R260). -/
theorem writeRM_rmRead_ok {s : State} {sz : Sz} {rm : RM} (v : BitVec sz.bits) (h : s.canWrite sz rm = true) :
    writeRM sz rm v (s.rmRead sz rm) = .ok () ((s.rmRead sz rm).rmWritten sz rm v) :=
  writeRM_ok v (by rw [State.canWrite_rmRead]; exact h)

/-- What an exception after an operand read leaves: the registers put back, the read on the bus. -/
theorem State.rmRead_restored (s : State) (sz : Sz) (rm : RM) : { s.rmRead sz rm with cpu := s.cpu } = s.rmLoaded sz rm := by
  cases rm <;> rfl

@[simp] theorem State.rmRead_prot (s : State) (sz : Sz) (rm : RM) : (s.rmRead sz rm).cpu.prot = s.cpu.prot := by
  cases rm <;> rfl

@[simp] theorem State.rmRead_peSwitched (s : State) (sz : Sz) (rm : RM) :
    (s.rmRead sz rm).cpu.peSwitched = s.cpu.peSwitched := by
  cases rm <;> rfl

@[simp] theorem State.rmRead_seg8086 (s : State) (sz : Sz) (rm : RM) (r : SReg) (v : Word) :
    (s.rmRead sz rm).seg8086 r v = s.seg8086 r v := by
  cases rm <;> rfl

@[simp] theorem State.rmRead_canPush (s : State) (sz sz' : Sz) (rm : RM) :
    (s.rmRead sz rm).canPush sz' = s.canPush sz' := by
  cases rm <;> rfl

@[simp] theorem State.rmRead_canAccess (s : State) (sz : Sz) (rm : RM) (r : SReg) (off : Dword) (n : Nat) (acc : Access) :
    (s.rmRead sz rm).canAccess r off n acc = s.canAccess r off n acc := by
  cases rm <;> rfl

/-! ## The stack -/

/-- The stack pointer is zero bytes above itself. -/
@[simp] theorem Cpu.spPlus_zero (c : Cpu) : c.spPlus 0#32 = c.sp := by
  simp only [Cpu.spPlus, Cpu.sp, BitVec.add_zero]

/-- A push that finds room (R270). -/
theorem push_ok {s : State} {sz : Sz} (v : BitVec sz.bits) (h : s.canPush sz = true) :
    push sz v s = .ok () (s.pushed sz v) := by
  simp only [State.canPush, Bool.and_eq_true, Bool.not_eq_true'] at h
  simp only [push, bind_run, getCpu_run, h.1, Bool.false_eq_true, if_false, segWrite_ok v h.2]
  rfl

/-- A pop of an item that can be read (R270). -/
theorem pop_ok {s : State} {sz : Sz} (h : s.canPeek sz 0 = true) :
    pop sz s = .ok (s.peek sz 0) (s.popped sz) := by
  have h' : s.canAccess .ss s.cpu.sp sz.bytes .read = true := by
    rw [← Cpu.spPlus_zero]
    exact h
  simp only [pop, bind_run, getCpu_run, segRead_ok h', modifyCpu_run, pure_run, State.peek, State.popped,
    State.stackLinear, BitVec.ofNat_eq_ofNat, Cpu.spPlus_zero]
  rfl

/-- An item above the stack pointer, read in place. -/
theorem stackItem_ok {s : State} {sz : Sz} {i : Nat} (h : s.canPeek sz (BitVec.ofNat 32 (i * sz.bytes)) = true) :
    stackItem sz i s = .ok (s.peek sz (BitVec.ofNat 32 (i * sz.bytes)))
      (s.noted (s.stackLinear (BitVec.ofNat 32 (i * sz.bytes))) sz.bytes) := by
  simp only [stackItem, bind_run, getCpu_run]
  exact segRead_ok h

/-- The limit check of several stack items changes nothing. -/
theorem requireStack_ok {s : State} {k : Dword} {n : Nat} (h : s.cpu.allows .ss (s.cpu.spPlus k) n .read = true) :
    requireStack k n s = .ok () s := by
  simp only [requireStack, bind_run, getCpu_run, segCheck_ok h, pure_run]

/-! ## Selectors and segment registers -/

/-- A selector as a stack item or a register value: the upper half of a dword is free (R274, U5). -/
theorem selectorItem_run (sz : Sz) (sel : Word) (s : State) :
    selectorItem sz sel s = .ok (s.selectorAs sz sel) (s.selectorDrawn sz) := by
  cases sz <;> rfl

@[simp] theorem State.selectorDrawn_canPush (s : State) (sz sz' : Sz) :
    (s.selectorDrawn sz).canPush sz' = s.canPush sz' := by
  cases sz <;> rfl

/-- A selector pushed (R274). -/
theorem pushSelector_ok {s : State} {sz : Sz} {sel : Word} (h : s.canPush sz = true) :
    pushSelector sz sel s = .ok () (s.pushedSelector sz sel) := by
  simp only [pushSelector, bind_run, selectorItem_run]
  exact push_ok _ (by rw [State.selectorDrawn_canPush]; exact h)

/-- With no change of PE pending the mode is settled (R725). -/
theorem requireSettledMode_ok {s : State} (h : s.cpu.peSwitched = false) : requireSettledMode s = .ok () s := by
  simp only [requireSettledMode, bind_run, getCpu_run, h, Bool.false_eq_true, if_false, pure_run]

/-- An 8086-style load of a segment register (R55). -/
theorem loadSegment_8086 {s : State} {r : SReg} {sel : Word} (hp : s.cpu.prot = false) (hs : s.cpu.peSwitched = false) :
    loadSegment r sel s = .ok () (s.withSeg r (s.seg8086 r sel)) := by
  simp only [loadSegment, bind_run, requireSettledMode_ok hs, getCpu_run, State.seg8086]
  by_cases hr : s.cpu.real = true
  · simp only [hr, if_true, setSeg_run, State.withSeg]
  · have hv : s.cpu.v86 = true := by
      simp only [Cpu.real, Cpu.prot, Cpu.v86] at *
      cases h1 : s.cpu.cr0.pe <;> cases h2 : s.cpu.flags.vm <;> simp_all
    simp only [hr, hv, if_true, Bool.false_eq_true, if_false, setSeg_run, State.withSeg]

/-- A read of the processor's own with paging off (R120). -/
theorem sysRead_off {s : State} (h : s.cpu.cr0.pg = false) (la : Dword) (sz : Sz) :
    sysRead la sz s = .ok (s.loadAt la sz) (s.sysLoaded la sz.bytes) := by
  simp only [sysRead, linRead, bind_run, translate_off h, readAll_run, pure_run]
  rfl

/-- A write of the processor's own with paging off (R120). -/
theorem sysWrite_off {s : State} (h : s.cpu.cr0.pg = false) (la : Dword) (sz : Sz) (v : BitVec sz.bits) :
    sysWrite la sz v s = .ok () (s.sysStored la sz v) := by
  simp only [sysWrite, linWrite, bind_run, translate_off h, writeAll_run]
  rfl

/-- A descriptor read with paging off (R120). -/
theorem readDescriptorAt_off {s : State} (h : s.cpu.cr0.pg = false) (la : Dword) :
    readDescriptorAt la s = .ok (s.descAt la) (s.descLoaded la) := by
  simp only [readDescriptorAt, bind_run, sysRead_off h, pure_run]
  rw [sysRead_off (by exact h)]
  rfl

/-! ## I/O -/

/-- An I/O read within the ports (R136). -/
theorem ioRead_ok {s : State} {port : Word} {sz : Sz} (h : port.toNat + sz.bytes ≤ 0x10000) :
    ioRead port sz s = .ok (s.ioAnswer.setWidth sz.bits) (s.afterIoRead port sz) := by
  simp only [ioRead, requirePorts, h, if_true, bind_run, pure_run, nextIoAnswer, getState_run, State.ioAnswer,
    State.afterIoRead]
  cases s.env.ioIn <;> rfl

/-- An I/O write within the ports (R136). -/
theorem ioWrite_ok {s : State} {port : Word} {sz : Sz} (v : BitVec sz.bits) (h : port.toNat + sz.bytes ≤ 0x10000) :
    ioWrite port sz v s = .ok () (s.afterIoWrite port sz v) := by
  simp only [ioWrite, requirePorts, h, if_true, bind_run, pure_run, State.afterIoWrite, emit_run]

/-- In Real Mode, and in Protected Mode with CPL <= IOPL, every port may be accessed (R138). -/
theorem requireIo_ok {s : State} (h : (s.cpu.real || (s.cpu.prot && decide (s.cpu.cpl ≤ s.cpu.flags.iopl))) = true)
    (port : Word) (n : Nat) : requireIo port n s = .ok () s := by
  simp only [requireIo, bind_run, ioPermitted, getCpu_run]
  by_cases hr : s.cpu.real = true
  · simp [hr, require_run]
  · simp only [hr, Bool.false_eq_true, if_false]
    have hp : (s.cpu.prot && decide (s.cpu.cpl ≤ s.cpu.flags.iopl)) = true := by simpa [hr] using h
    simp [hp, require_run]

/-! ## The shell of a meaning -/

/-- The decode checks pass exactly when the instruction may run. -/
theorem decodeChecks_ok {i : Instr} {s : State} (h : s.mayRun i = true) : decodeChecks i s = .ok () s := by
  simp only [State.mayRun, Bool.and_eq_true] at h
  simp only [decodeChecks, bind_run, getCpu_run, require_run, h.1, h.2, if_true]

/-- A meaning that may run: its body decides. -/
theorem run_mayRun {i : Instr} {body : M Ending} {s : State} (h : s.mayRun i = true) :
    run i body s = match body s with
      | .ok e s' => complete s e s'
      | .error stop s' => stopped s stop s' := by
  simp only [run, outcome]
  rw [bind_ok (decodeChecks_ok h)]
  all_goals (cases body s <;> rfl)

/-- A meaning whose body ends sequentially. -/
theorem run_next {i : Instr} {body : M Ending} {s s' : State} (h : s.ready i = true) (hb : body s = .ok .next s') :
    run i body s = completes s s' := by
  simp only [State.ready, Bool.and_eq_true, Bool.not_eq_true'] at h
  simp [run_mayRun h.1, hb, complete, completes, h.2]

/-- A meaning whose body ends with another sequential ending. -/
theorem run_advances {i : Instr} {body : M Ending} {s s' : State} {e : Ending} (h : s.ready i = true)
    (hb : body s = .ok e s') : run i body s = .next (State.settle s e s') := by
  simp only [State.ready, Bool.and_eq_true, Bool.not_eq_true'] at h
  simp [run_mayRun h.1, hb, complete, h.2]

/-- A meaning whose body transfers control. -/
theorem run_ends {i : Instr} {body : M Ending} {s s' : State} {e : Ending} (h : s.mayRun i = true)
    (hb : body s = .ok e s') (he : e.advances = false) : run i body s = .next (State.settle s e s') := by
  simp [run_mayRun h, hb, complete, he]

/-- A meaning whose body raises an exception: the registers are restored (R603). -/
theorem run_raises {i : Instr} {body : M Ending} {s s' : State} {e : Exc} (h : s.mayRun i = true)
    (hb : body s = .error (.exc e) s') : run i body s = takeException e { s' with cpu := s.cpu } := by
  simp [run_mayRun h, hb, stopped]

/-- An instruction that fails its decode checks raises exception 6 or 13 (R241 to R245). -/
theorem run_barred {i : Instr} {body : M Ending} {s : State} (h : s.mayRun i = false) :
    run i body s = takeException (if decodeFault i s.cpu then .ud else .gp 0) s := by
  simp only [State.mayRun] at h
  simp only [run, outcome, decodeChecks, bind_run, getCpu_run, require_run]
  by_cases hd : decodeFault i s.cpu = true
  · simp [hd, stopped]
  · simp only [Bool.not_eq_true] at hd
    simp only [hd, Bool.not_false, Bool.true_and] at h
    simp only [hd, Bool.not_false, if_true, h, Bool.false_eq_true, if_false, stopped]

end Sys2Proof.Machine
end

