-- ==== Sys2Proof/Certificates/Slice0/Obligations.lean ====
section
/-! DEFINITION. The statements for the provers. Memory operands are stated with paging off (`canAccess`); what paging adds is
stated by itself. `completes s t` says that the instruction answers a next state: t but for what the boundary after an
instruction adds (EIP, RF, the pending single-step trap). -/

open Sys2Proof Sys2Proof.Machine

/-! ## Data transfer -/

/-- MOV between registers, memory and immediates completes with the source in the destination; in the short forms the offset
is the displacement, in DS or the override; XCHG exchanges its operands (R261 to R266, R283, R284). -/
def Obligations.MovXchgComplete : Prop :=
  ∀ (w : Bool) (rm : RM) (reg : Reg) (imm : Imm) (s : State),
    let sz := s.cpu.size w
    let off := immOffset imm
    let la := s.cpu.linear s.cpu.stringSegment off
    (s.ready (.movRmReg w rm reg) → s.canWrite sz rm →
      exec (.movRmReg w rm reg) s = completes s (s.rmWritten sz rm (s.reg sz reg))) ∧
    (s.ready (.movRegRm w reg rm) → s.canRead sz rm →
      exec (.movRegRm w reg rm) s = completes s ((s.rmRead sz rm).withReg sz reg (s.rmValue sz rm))) ∧
    (s.ready (.movRmImm w rm imm) → s.canWrite sz rm →
      exec (.movRmImm w rm imm) s = completes s (s.rmWritten sz rm (immValue sz imm))) ∧
    (s.ready (.movRegImm w reg imm) →
      exec (.movRegImm w reg imm) s = completes s (s.withReg sz reg (immValue sz imm))) ∧
    (s.ready (.movAccMoffs w imm) → s.canAccess s.cpu.stringSegment off sz.bytes .read →
      exec (.movAccMoffs w imm) s = completes s ((s.noted la sz.bytes).withReg sz .eax (s.loadAt la sz))) ∧
    (s.ready (.movMoffsAcc w imm) → s.canAccess s.cpu.stringSegment off sz.bytes .write →
      exec (.movMoffsAcc w imm) s = completes s (s.storedAt la sz (s.reg sz .eax))) ∧
    (s.ready (.xchgRmReg w rm reg) → s.canWrite sz rm →
      exec (.xchgRmReg w rm reg) s = completes s
        (((s.rmRead sz rm).rmWritten sz rm (s.reg sz reg)).withReg sz reg (s.rmValue sz rm))) ∧
    (s.ready (.xchgRegAcc reg) →
      exec (.xchgRegAcc reg) s = completes s
        ((s.withReg s.cpu.osz .eax (s.reg s.cpu.osz reg)).withReg s.cpu.osz reg (s.reg s.cpu.osz .eax)))

/-- MOVSX and MOVZX extend a byte or a word to the operand size; LEA stores the effective address and touches no memory
(R269, R271, R289). -/
def Obligations.ExtendAndLeaComplete : Prop :=
  ∀ (w : Bool) (dst : Reg) (src : RM) (m : Mem) (s : State),
    (s.ready (.movsx w dst src) → s.canRead (if w then .w else .b) src →
      exec (.movsx w dst src) s = completes s ((s.rmRead (if w then .w else .b) src).withReg s.cpu.osz dst
        ((s.rmValue (if w then .w else .b) src).signExtend s.cpu.osz.bits))) ∧
    (s.ready (.movzx w dst src) → s.canRead (if w then .w else .b) src →
      exec (.movzx w dst src) s = completes s ((s.rmRead (if w then .w else .b) src).withReg s.cpu.osz dst
        ((s.rmValue (if w then .w else .b) src).setWidth s.cpu.osz.bits))) ∧
    (s.ready (.lea dst m) →
      exec (.lea dst m) s =
        completes s (s.withReg s.cpu.osz dst ((memOffset s.cpu.gpr m).setWidth s.cpu.osz.bits)))

/-- A load of a segment register in Protected Mode with paging off, its checks in the order of R127 and R128. `s` is the state before
the instruction, `u` the state when it has read the selector, `v` what stays of its reads when an exception restores the
registers, `o` the outcome of the instruction and `done` that of a load that completes. -/
def LoadsSegment (s : State) (r : SReg) (sel : Word) (u v : State) (o : Host.Outcome State Fault Refusal)
    (done : State → Host.Outcome State Fault Refusal) : Prop :=
  (isNull sel → r ≠ .ss → o = done (u.withSeg r { s.cpu.segs.get r with selector := sel, valid := false })) ∧
  (isNull sel → r = .ss → o = takeException (.gp 0) v) ∧
  (isNull sel = false → descriptorAddr s.cpu sel = none → o = takeException (.gp (selCode sel)) v) ∧
  (∀ la, isNull sel = false → descriptorAddr s.cpu sel = some la →
    let d := s.descAt la
    let fits : Bool := if r = .ss then d.s && !d.exec && d.rw else d.s && (!d.exec || d.rw)
    let agrees : Bool :=
      if r = .ss then rpl sel == s.cpu.cpl && d.dpl == s.cpu.cpl
      else (d.exec && d.ec) || (decide (s.cpu.cpl ≤ d.dpl) && decide (rpl sel ≤ d.dpl))
    ((fits && agrees) = false → o = takeException (.gp (selCode sel)) (v.descLoaded la)) ∧
    ((fits && agrees) = true → d.present = false →
      o = takeException (if r = .ss then .ss (selCode sel) else .np (selCode sel)) (v.descLoaded la)) ∧
    ((fits && agrees) = true → d.present = true →
      o = done (((u.descLoaded la).marked la d).withSeg r (d.cache sel))))

/-- MOV to and from a segment register. In Real and Virtual 8086 Mode base = selector * 16; in Protected Mode the descriptor
is checked, marked accessed and cached, a null selector makes DS, ES, FS or GS unusable, and each failed check raises its
exception; a load of SS inhibits interrupts for one instruction; a 32-bit register takes a free upper half (R55, R127, R128,
R267, R268, R611). The free upper half is the choice of log 4, the rights and sizes of an 8086 segment in Virtual 8086 Mode,
beyond base, limit and DPL, those of log 18. -/
def Obligations.MovSregCompletes : Prop :=
  ∀ (r : SReg) (rm : RM) (s : State),
    let done := fun t : State =>
      (.next (State.settle s (if r = .ss then .loadedSs else .next) t) : Host.Outcome State Fault Refusal)
    (s.ready (.movSregRm r rm) → s.canRead .w rm → s.cpu.prot = false → s.cpu.peSwitched = false →
      exec (.movSregRm r rm) s = done ((s.rmRead .w rm).withSeg r (s.seg8086 r (s.rmValue .w rm)))) ∧
    (s.ready (.movSregRm r rm) → s.canRead .w rm → s.cpu.prot = true → s.cpu.cr0.pg = false → s.cpu.peSwitched = false →
      LoadsSegment s r (s.rmValue .w rm) (s.rmRead .w rm) (s.rmLoaded .w rm) (exec (.movSregRm r rm) s) done) ∧
    (∀ reg, s.ready (.movRmSreg (.reg reg) r) →
      exec (.movRmSreg (.reg reg) r) s = completes s
        ((s.selectorDrawn s.cpu.osz).withReg s.cpu.osz reg (s.selectorAs s.cpu.osz (s.cpu.segs.get r).selector))) ∧
    (∀ m, s.ready (.movRmSreg (.mem m) r) → s.memCan m 0 2 .write →
      exec (.movRmSreg (.mem m) r) s = completes s (s.storedAt (s.memLinear m 0) .w (s.cpu.segs.get r).selector))

/-- PUSH of a register, a memory operand, an immediate and a segment register, whose selector leaves the upper half of a
dword free (R272 to R276, U5). The free upper half is the choice of log 4. -/
def Obligations.PushCompletes : Prop :=
  ∀ (r : Reg) (rm : RM) (sx : Bool) (imm : Imm) (g : SReg2) (s : State), s.canPush s.cpu.osz →
    (s.ready (.pushReg r) → exec (.pushReg r) s = completes s (s.pushed s.cpu.osz (s.reg s.cpu.osz r))) ∧
    (s.ready (.pushRm rm) → s.canRead s.cpu.osz rm →
      exec (.pushRm rm) s = completes s ((s.rmRead s.cpu.osz rm).pushed s.cpu.osz (s.rmValue s.cpu.osz rm))) ∧
    (s.ready (.pushImm sx imm) →
      exec (.pushImm sx imm) s = completes s (s.pushed s.cpu.osz (immValue s.cpu.osz imm))) ∧
    (s.ready (.pushSreg g) →
      exec (.pushSreg g) s = completes s (s.pushedSelector s.cpu.osz (s.cpu.segs.get (sregOf g)).selector)) ∧
    (s.ready .pushFs → exec .pushFs s = completes s (s.pushedSelector s.cpu.osz s.cpu.segs.fs.selector)) ∧
    (s.ready .pushGs → exec .pushGs s = completes s (s.pushedSelector s.cpu.osz s.cpu.segs.gs.selector))

/-- The instruction that pops a segment register (R280, R281). -/
def popInstr : SReg → Instr
  | .es => .popEs
  | .cs => .nop
  | .ss => .popSs
  | .ds => .popDs
  | .fs => .popFs
  | .gs => .popGs

/-- POP into a register and into memory, whose address is computed after the stack pointer has moved; POP ES, SS, DS, FS, GS
load the segment register as MOV does, in Real and Virtual 8086 Mode and in Protected Mode (R55, R127, R128, R278 to R281,
R611). That POP of a segment register moves the stack pointer last is the choice of log 31, the rights and sizes of an 8086
segment in Virtual 8086 Mode, beyond base, limit and DPL, those of log 18. -/
def Obligations.PopCompletes : Prop :=
  ∀ (r : Reg) (rm : RM) (g : SReg) (s : State), s.canPeek s.cpu.osz 0 →
    let sz := s.cpu.osz
    let sel : Word := (s.peek sz 0).setWidth 16
    let done := fun t : State =>
      (.next (State.settle s (if g = .ss then .loadedSs else .next)
        (t.mapCpu fun c => c.withSp (c.spPlus (BitVec.ofNat 32 sz.bytes)))) : Host.Outcome State Fault Refusal)
    (s.ready (.popReg r) → exec (.popReg r) s = completes s ((s.popped sz).withReg sz r (s.peek sz 0))) ∧
    (s.ready (.popRm rm) → (s.popped sz).canWrite sz rm →
      exec (.popRm rm) s = completes s ((s.popped sz).rmWritten sz rm (s.peek sz 0))) ∧
    (g ≠ .cs → s.ready (popInstr g) → s.cpu.peSwitched = false →
      (s.cpu.prot = false →
        exec (popInstr g) s = done ((s.noted (s.stackLinear 0) sz.bytes).withSeg g (s.seg8086 g sel))) ∧
      (s.cpu.prot = true → LoadsSegment s g sel (s.noted (s.stackLinear 0) sz.bytes)
        (s.sysLoaded (s.stackLinear 0) sz.bytes) (exec (popInstr g) s) done))

/-- PUSHA pushes the eight registers, ESP as it was before; POPA restores seven of them and discards the eighth item
(R277, R282). The premise on a stack pointer that would straddle the wrap follows log 20. -/
def Obligations.PushaPopaComplete : Prop :=
  ∀ s : State,
    (s.ready .pusha → pushaShutsDown s.cpu s.cpu.osz = false →
      stackRoom s.cpu.prot s.cpu.segs.ss s.cpu.sp 8 s.cpu.osz.bytes = true →
      s.canPushAll s.cpu.osz ([.eax, .ecx, .edx, .ebx, .esp, .ebp, .esi, .edi].map (s.reg s.cpu.osz)) →
      exec .pusha s = completes s
        (s.pushedAll s.cpu.osz ([.eax, .ecx, .edx, .ebx, .esp, .ebp, .esi, .edi].map (s.reg s.cpu.osz)))) ∧
    (s.ready .popa →
      s.canPopInto s.cpu.osz [some .edi, some .esi, some .ebp, none, some .ebx, some .edx, some .ecx, some .eax] →
      exec .popa s = completes s
        (s.poppedInto s.cpu.osz [some .edi, some .esi, some .ebp, none, some .ebx, some .edx, some .ecx, some .eax]))

/-- IN and OUT where the ports may be accessed: the answer of the bus goes into the accumulator, the accumulator to the bus (R285 to
R288). With CPL > IOPL and in Virtual 8086 Mode the permission map decides, whose bytes the processor reads; denied ports
raise exception 13 with error code 0 (R138). An access that runs past port FFFFH is refused by name (U9). The scripted
answers of the bus are the choice of log 11. -/
def Obligations.InOutComplete : Prop :=
  ∀ (w : Bool) (port : Byte) (s : State), (s.cpu.ioFree || !s.cpu.cr0.pg) = true →
    let sz := s.cpu.size w
    let dx := s.reg .w .edx
    let fixed : Word := port.setWidth 16
    let mapped := fun p : Word => s.ioChecked p sz.bytes
    (s.ioPermits fixed sz.bytes = true →
      (s.ready (.inImm w port) → exec (.inImm w port) s = completes s
        (((mapped fixed).afterIoRead fixed sz).withReg sz .eax (s.ioAnswer.setWidth sz.bits))) ∧
      (s.ready (.outImm w port) → exec (.outImm w port) s = completes s
        ((mapped fixed).afterIoWrite fixed sz (s.reg sz .eax)))) ∧
    (s.ioPermits fixed sz.bytes = false →
      (s.mayRun (.inImm w port) → exec (.inImm w port) s = takeException (.gp 0) (mapped fixed)) ∧
      (s.mayRun (.outImm w port) → exec (.outImm w port) s = takeException (.gp 0) (mapped fixed))) ∧
    (s.ioPermits dx sz.bytes = true →
      (dx.toNat + sz.bytes ≤ 0x10000 →
        (s.ready (.inDx w) → exec (.inDx w) s = completes s
          (((mapped dx).afterIoRead dx sz).withReg sz .eax (s.ioAnswer.setWidth sz.bits))) ∧
        (s.ready (.outDx w) → exec (.outDx w) s = completes s ((mapped dx).afterIoWrite dx sz (s.reg sz .eax)))) ∧
      (0x10000 < dx.toNat + sz.bytes →
        (s.mayRun (.inDx w) → exec (.inDx w) s = .refused .ioBeyondLastPort) ∧
        (s.mayRun (.outDx w) → exec (.outDx w) s = .refused .ioBeyondLastPort))) ∧
    (s.ioPermits dx sz.bytes = false →
      (s.mayRun (.inDx w) → exec (.inDx w) s = takeException (.gp 0) (mapped dx)) ∧
      (s.mayRun (.outDx w) → exec (.outDx w) s = takeException (.gp 0) (mapped dx)))

/-! ## Segment control -/

/-- The instruction that loads a full pointer (R301 to R305). -/
def loadPointerInstr (r : SReg) (dst : Reg) (m : Mem) : Instr :=
  match r with
  | .es => .les dst m
  | .cs => .nop
  | .ss => .lss dst m
  | .ds => .lds dst m
  | .fs => .lfs dst m
  | .gs => .lgs dst m

/-- LDS, LES, LFS, LGS, LSS: the selector goes into the segment register as MOV puts it, in Real and Virtual 8086 Mode and in
Protected Mode, then the offset into the register (R55, R127, R128, R300 to R305). That LSS starts no one-instruction
interrupt inhibit is the spec's own decision D17; the rights and sizes of an 8086 segment in Virtual 8086 Mode, beyond base,
limit and DPL, are those of log 18. -/
def Obligations.LoadPointerCompletes : Prop :=
  ∀ (r : SReg) (dst : Reg) (m : Mem) (s : State), r ≠ .cs → s.ready (loadPointerInstr r dst m) →
    let sz := s.cpu.osz
    let k : Dword := BitVec.ofNat 32 sz.bytes
    let sel := s.loadAt (s.memLinear m k) .w
    let u := (s.noted (s.memLinear m 0) sz.bytes).noted (s.memLinear m k) 2
    let done := fun t : State => completes s (t.withReg sz dst (s.loadAt (s.memLinear m 0) sz))
    s.memCan m 0 sz.bytes .read → s.memCan m k 2 .read → s.cpu.peSwitched = false →
    (s.cpu.prot = false →
      exec (loadPointerInstr r dst m) s = done (u.withSeg r (s.seg8086 r sel))) ∧
    (s.cpu.prot = true → LoadsSegment s r sel u ((s.sysLoaded (s.memLinear m 0) sz.bytes).sysLoaded (s.memLinear m k) 2)
      (exec (loadPointerInstr r dst m) s) done)

/-! ## Flag control -/

/-- CLC, STC, CMC, CLD, STD, SAHF, LAHF with their encodings: one flag or the five status flags of AH change, or AH is written;
nothing else does but what ends an instruction (R311, R312, R315, R316, R319, R321, R322). The fixed bits of AH after LAHF are
the spec's own decision D2. -/
def Obligations.FlagOpsComplete : Prop :=
  ∀ (c : Ctx) (s : State),
    (decode c [0b11111000] = .ok .clc 1 ∧
      (s.ready .clc → exec .clc s = completes s (s.withFlags { s.cpu.flags with cf := false }))) ∧
    (decode c [0b11111001] = .ok .stc 1 ∧
      (s.ready .stc → exec .stc s = completes s (s.withFlags { s.cpu.flags with cf := true }))) ∧
    (decode c [0b11110101] = .ok .cmc 1 ∧
      (s.ready .cmc → exec .cmc s = completes s (s.withFlags { s.cpu.flags with cf := !s.cpu.flags.cf }))) ∧
    (decode c [0b11111100] = .ok .cld 1 ∧
      (s.ready .cld → exec .cld s = completes s (s.withFlags { s.cpu.flags with df := false }))) ∧
    (decode c [0b11111101] = .ok .std 1 ∧
      (s.ready .std → exec .std s = completes s (s.withFlags { s.cpu.flags with df := true }))) ∧
    (decode c [0b10011110] = .ok .sahf 1 ∧
      (s.ready .sahf → exec .sahf s = completes s (s.withFlags { s.cpu.flags with
        sf := (s.reg .b regAh).getLsbD 7
        zf := (s.reg .b regAh).getLsbD 6
        af := (s.reg .b regAh).getLsbD 4
        pf := (s.reg .b regAh).getLsbD 2
        cf := (s.reg .b regAh).getLsbD 0 }))) ∧
    (decode c [0b10011111] = .ok .lahf 1 ∧
      (s.ready .lahf → exec .lahf s = completes s (s.withReg .b regAh
        (bit s.cpu.flags.sf ++ bit s.cpu.flags.zf ++ 0#1 ++ bit s.cpu.flags.af ++ 0#1 ++ bit s.cpu.flags.pf ++ 1#1 ++
          bit s.cpu.flags.cf))))

/-- CLI and STI where IOPL allows: IF changes, and STI inhibits INTR for one instruction when it sets IF (R313, R320, D18);
where IOPL forbids them they raise GP(0). CLTS with CPL 0 clears TS (R314). -/
def Obligations.CliStiComplete : Prop :=
  ∀ s : State,
    ((s.cpu.real || (s.cpu.prot && decide (s.cpu.cpl ≤ s.cpu.flags.iopl)) || (s.cpu.v86 && s.cpu.flags.iopl == 3)) = true →
      (s.ready .cli → exec .cli s = completes s (s.withFlags { s.cpu.flags with intf := false })) ∧
      (s.ready .sti → exec .sti s = .next (State.settle s (if s.cpu.flags.intf then .next else .enabled)
        (s.withFlags { s.cpu.flags with intf := true })))) ∧
    (((s.cpu.prot && decide (s.cpu.flags.iopl < s.cpu.cpl)) || (s.cpu.v86 && s.cpu.flags.iopl != 3)) = true →
      (s.mayRun .cli → exec .cli s = takeException (.gp 0) s) ∧
      (s.mayRun .sti → exec .sti s = takeException (.gp 0) s)) ∧
    (s.ready .clts →
      exec .clts s = completes s (s.mapCpu fun c => { c with cr0 := { c.cr0 with ts := false } }))

/-- PUSHF pushes the flags with VM and RF clear; POPF loads them, IOPL at CPL 0 only, IF with CPL <= IOPL only (R317, R318). In
Virtual 8086 Mode both need IOPL 3 and raise exception 13 with error code 0 below it (R317, R318, R664). That a POPF that
sets IF starts no interrupt inhibit is the spec's own decision D18. -/
def Obligations.PushfPopfComplete : Prop :=
  ∀ s : State,
    ((s.cpu.v86 && s.cpu.flags.iopl != 3) = false →
      (s.ready .pushf → s.canPush s.cpu.osz →
        exec .pushf s = completes s
          (s.pushed s.cpu.osz ({ s.cpu.flags with vm := false, rf := false }.image s.cpu.osz))) ∧
      (s.ready .popf → s.canPeek s.cpu.osz 0 →
        exec .popf s = .next (State.settle s .nextKeepRf ((s.popped s.cpu.osz).withFlags
          (s.cpu.flags.loadImage ((s.peek s.cpu.osz 0).setWidth 16) (s.cpu.real || s.cpu.cpl == 0)
            (s.cpu.real || decide (s.cpu.cpl ≤ s.cpu.flags.iopl))))))) ∧
    ((s.cpu.v86 && s.cpu.flags.iopl != 3) = true →
      (s.mayRun .pushf → exec .pushf s = takeException (.gp 0) s) ∧
      (s.mayRun .popf → exec .popf s = takeException (.gp 0) s))

/-! ## Arithmetic -/

/-- The instruction with register/memory and register operands (R330). -/
def aluRmRegInstr (op : Alu) (d w : Bool) (rm : RM) (reg : Reg) : Instr :=
  match op with
  | .add => .addRmReg d w rm reg
  | .adc => .adcRmReg d w rm reg
  | .sub => .subRmReg d w rm reg
  | .sbb => .sbbRmReg d w rm reg

/-- The instruction with a register/memory destination and an immediate (R330). -/
def aluRmImmInstr (op : Alu) (sx w : Bool) (rm : RM) (imm : Imm) : Instr :=
  match op with
  | .add => .addRmImm sx w rm imm
  | .adc => .adcRmImm sx w rm imm
  | .sub => .subRmImm sx w rm imm
  | .sbb => .sbbRmImm sx w rm imm

/-- The instruction with the accumulator and an immediate (R330). -/
def aluAccImmInstr (op : Alu) (w : Bool) (imm : Imm) : Instr :=
  match op with
  | .add => .addAccImm w imm
  | .adc => .adcAccImm w imm
  | .sub => .subAccImm w imm
  | .sbb => .sbbAccImm w imm

/-- What an operation writes: a + b, a + b + CF, a - b, a - b - CF (R331, R332, R334, R335). -/
def aluResult {n : Nat} (op : Alu) (cf : Bool) (a b : BitVec n) : BitVec n :=
  match op with
  | .add => addResult a b false
  | .adc => addResult a b cf
  | .sub => subResult a b false
  | .sbb => subResult a b cf

/-- The flags of an operation: those of the addition or subtraction, ADC and SBB with CF as it was (R331, R332, R334, R335). -/
def aluFlags {n : Nat} (op : Alu) (f : EFlags) (a b : BitVec n) : EFlags :=
  match op with
  | .add => f.add a b false
  | .adc => f.add a b f.cf
  | .sub => f.sub a b false
  | .sbb => f.sub a b f.cf

/-- ADD, ADC, SUB, SBB in all forms write result and flags (R331, R332, R334, R335). -/
def Obligations.AluCompletes : Prop :=
  ∀ (op : Alu) (sx w : Bool) (rm : RM) (reg : Reg) (imm : Imm) (s : State),
    (s.ready (aluRmRegInstr op false w rm reg) → s.canWrite (s.cpu.size w) rm →
      exec (aluRmRegInstr op false w rm reg) s = completes s
        (((s.rmRead (s.cpu.size w) rm).rmWritten (s.cpu.size w) rm
          (aluResult op s.cpu.flags.cf (s.rmValue (s.cpu.size w) rm) (s.reg (s.cpu.size w) reg))).withFlags
          (aluFlags op s.cpu.flags (s.rmValue (s.cpu.size w) rm) (s.reg (s.cpu.size w) reg)))) ∧
    (s.ready (aluRmRegInstr op true w rm reg) → s.canRead (s.cpu.size w) rm →
      exec (aluRmRegInstr op true w rm reg) s = completes s
        (((s.rmRead (s.cpu.size w) rm).withReg (s.cpu.size w) reg
          (aluResult op s.cpu.flags.cf (s.reg (s.cpu.size w) reg) (s.rmValue (s.cpu.size w) rm))).withFlags
          (aluFlags op s.cpu.flags (s.reg (s.cpu.size w) reg) (s.rmValue (s.cpu.size w) rm)))) ∧
    (s.ready (aluRmImmInstr op sx w rm imm) → s.canWrite (s.cpu.size w) rm →
      exec (aluRmImmInstr op sx w rm imm) s = completes s
        (((s.rmRead (s.cpu.size w) rm).rmWritten (s.cpu.size w) rm
          (aluResult op s.cpu.flags.cf (s.rmValue (s.cpu.size w) rm) (immValue (s.cpu.size w) imm))).withFlags
          (aluFlags op s.cpu.flags (s.rmValue (s.cpu.size w) rm) (immValue (s.cpu.size w) imm)))) ∧
    (s.ready (aluAccImmInstr op w imm) →
      exec (aluAccImmInstr op w imm) s = completes s
        ((s.withReg (s.cpu.size w) .eax
          (aluResult op s.cpu.flags.cf (s.reg (s.cpu.size w) .eax) (immValue (s.cpu.size w) imm))).withFlags
          (aluFlags op s.cpu.flags (s.reg (s.cpu.size w) .eax) (immValue (s.cpu.size w) imm))))

/-- CMP and TEST in all forms write flags alone; AF after TEST is free (R337, R392). Free values: log 4. -/
def Obligations.CompareAndTestComplete : Prop :=
  ∀ (d sx w : Bool) (rm : RM) (reg : Reg) (imm : Imm) (s : State),
    (s.ready (.cmpRmReg d w rm reg) → s.canRead (s.cpu.size w) rm →
      exec (.cmpRmReg d w rm reg) s = completes s ((s.rmRead (s.cpu.size w) rm).withFlags
        (if d then s.cpu.flags.sub (s.reg (s.cpu.size w) reg) (s.rmValue (s.cpu.size w) rm) false
          else s.cpu.flags.sub (s.rmValue (s.cpu.size w) rm) (s.reg (s.cpu.size w) reg) false))) ∧
    (s.ready (.cmpRmImm sx w rm imm) → s.canRead (s.cpu.size w) rm →
      exec (.cmpRmImm sx w rm imm) s = completes s ((s.rmRead (s.cpu.size w) rm).withFlags
        (s.cpu.flags.sub (s.rmValue (s.cpu.size w) rm) (immValue (s.cpu.size w) imm) false))) ∧
    (s.ready (.cmpAccImm w imm) →
      exec (.cmpAccImm w imm) s = completes s (s.withFlags
        (s.cpu.flags.sub (s.reg (s.cpu.size w) .eax) (immValue (s.cpu.size w) imm) false))) ∧
    (s.ready (.testRmReg w rm reg) → s.canRead (s.cpu.size w) rm →
      exec (.testRmReg w rm reg) s = completes s ((s.rmRead (s.cpu.size w) rm).drawn.withFlags
        (s.cpu.flags.logic (s.rmValue (s.cpu.size w) rm &&& s.reg (s.cpu.size w) reg) s.freeVal))) ∧
    (s.ready (.testRmImm w rm imm) → s.canRead (s.cpu.size w) rm →
      exec (.testRmImm w rm imm) s = completes s ((s.rmRead (s.cpu.size w) rm).drawn.withFlags
        (s.cpu.flags.logic (s.rmValue (s.cpu.size w) rm &&& immValue (s.cpu.size w) imm) s.freeVal))) ∧
    (s.ready (.testAccImm w imm) →
      exec (.testAccImm w imm) s = completes s (s.drawn.withFlags
        (s.cpu.flags.logic (s.reg (s.cpu.size w) .eax &&& immValue (s.cpu.size w) imm) s.freeVal)))

/-- INC and DEC leave CF alone, NEG subtracts from 0, NOT changes no flag (R333, R336, R338, R395). -/
def Obligations.UnaryCompletes : Prop :=
  ∀ (w : Bool) (rm : RM) (reg : Reg) (s : State),
    (s.canWrite (s.cpu.size w) rm →
      (s.ready (.incRm w rm) → exec (.incRm w rm) s = completes s
        (((s.rmRead (s.cpu.size w) rm).rmWritten (s.cpu.size w) rm (s.rmValue (s.cpu.size w) rm + 1)).withFlags
          { s.cpu.flags.add (s.rmValue (s.cpu.size w) rm) 1 false with cf := s.cpu.flags.cf })) ∧
      (s.ready (.decRm w rm) → exec (.decRm w rm) s = completes s
        (((s.rmRead (s.cpu.size w) rm).rmWritten (s.cpu.size w) rm (s.rmValue (s.cpu.size w) rm - 1)).withFlags
          { s.cpu.flags.sub (s.rmValue (s.cpu.size w) rm) 1 false with cf := s.cpu.flags.cf })) ∧
      (s.ready (.negRm w rm) → exec (.negRm w rm) s = completes s
        (((s.rmRead (s.cpu.size w) rm).rmWritten (s.cpu.size w) rm (- s.rmValue (s.cpu.size w) rm)).withFlags
          (s.cpu.flags.sub 0 (s.rmValue (s.cpu.size w) rm) false))) ∧
      (s.ready (.notRm w rm) → exec (.notRm w rm) s = completes s
        ((s.rmRead (s.cpu.size w) rm).rmWritten (s.cpu.size w) rm (~~~ s.rmValue (s.cpu.size w) rm)))) ∧
    (s.ready (.incReg reg) → exec (.incReg reg) s = completes s
      ((s.withReg s.cpu.osz reg (s.reg s.cpu.osz reg + 1)).withFlags
        { s.cpu.flags.add (s.reg s.cpu.osz reg) 1 false with cf := s.cpu.flags.cf })) ∧
    (s.ready (.decReg reg) → exec (.decReg reg) s = completes s
      ((s.withReg s.cpu.osz reg (s.reg s.cpu.osz reg - 1)).withFlags
        { s.cpu.flags.sub (s.reg s.cpu.osz reg) 1 false with cf := s.cpu.flags.cf }))

/-- AAA, AAS, DAA, DAS, AAD, AAM adjust AL and AH; CBW, CWDE, CWD, CDQ widen the accumulator (R339 to R342, R366 to R369).
Free values: log 4. -/
def Obligations.AdjustCompletes : Prop :=
  ∀ s : State,
    let al : Byte := s.reg .b .eax
    let ah : Byte := s.reg .b regAh
    let f := s.cpu.flags
    let j := s.freeVal
    let low : Bool := decide (9 < al.toNat % 16) || f.af
    let high : Bool := decide (0x99 < al.toNat) || f.cf
    let plus : Byte := al + (if low then 6 else 0) + (if high then 0x60 else 0)
    let minus : Byte := al - (if low then 6 else 0) - (if high then 0x60 else 0)
    (s.ready .aaa → exec .aaa s = completes s
      ((((s.withReg .b .eax ((if low then al + 6 else al) &&& 0x0F)).withReg .b regAh (if low then ah + 1 else ah)).drawn).withFlags
        { f with af := low, cf := low, ovf := j.getLsbD 11, sf := j.getLsbD 7, zf := j.getLsbD 6, pf := j.getLsbD 2 })) ∧
    (s.ready .aas → exec .aas s = completes s
      ((((s.withReg .b .eax ((if low then al - 6 else al) &&& 0x0F)).withReg .b regAh (if low then ah - 1 else ah)).drawn).withFlags
        { f with af := low, cf := low, ovf := j.getLsbD 11, sf := j.getLsbD 7, zf := j.getLsbD 6, pf := j.getLsbD 2 })) ∧
    (s.ready .daa → exec .daa s = completes s
      (((s.withReg .b .eax plus).drawn).withFlags
        { f.setSzp plus with af := low, cf := high, ovf := j.getLsbD 11 })) ∧
    (s.ready .das → exec .das s = completes s
      (((s.withReg .b .eax minus).drawn).withFlags
        { f.setSzp minus with af := low, cf := high || (low && decide (al.toNat < 6)), ovf := j.getLsbD 11 })) ∧
    (s.ready .aad → exec .aad s = completes s
      ((((s.withReg .b .eax (al + ah * 10)).withReg .b regAh 0).drawn).withFlags
        { f.setSzp (al + ah * 10) with ovf := j.getLsbD 11, af := j.getLsbD 4, cf := j.getLsbD 0 })) ∧
    (s.ready .aam → exec .aam s = completes s
      ((((s.withReg .b regAh (al / 10)).withReg .b .eax (al % 10)).drawn).withFlags
        { f.setSzp (al % 10) with ovf := j.getLsbD 11, af := j.getLsbD 4, cf := j.getLsbD 0 })) ∧
    (s.ready .cbw → exec .cbw s = completes s
      (if s.cpu.os32 then s.withReg .d .eax ((s.reg .w .eax).signExtend 32)
        else s.withReg .w .eax (al.signExtend 16))) ∧
    (s.ready .cwd → exec .cwd s = completes s
      (s.withReg s.cpu.osz .edx (if (s.reg s.cpu.osz .eax).msb then -1 else 0)))

/-- MUL and IMUL write the product; CF and OF say whether the high half is needed; SF, ZF, AF and PF are free (R343 to
R346). Free values: log 4. -/
def Obligations.MultiplyCompletes : Prop :=
  ∀ (w sx : Bool) (rm : RM) (dst : Reg) (imm : Imm) (s : State),
    let sz := s.cpu.size w
    let a := s.reg sz .eax
    let b := s.rmValue sz rm
    let x := s.reg s.cpu.osz dst
    let y := s.rmValue s.cpu.osz rm
    let z := immValue s.cpu.osz imm
    (s.canRead sz rm →
      (s.ready (.mulAcc w rm) → exec (.mulAcc w rm) s = completes s
        (((((s.rmRead sz rm).withReg sz .eax (a * b)).withReg sz (highReg sz)
          (BitVec.ofNat sz.bits (a.toNat * b.toNat / 2 ^ sz.bits))).drawn).withFlags
            ((s.cpu.flags.setMul (decide (2 ^ sz.bits ≤ a.toNat * b.toNat))).freeSzap s.freeVal))) ∧
      (s.ready (.imulAcc w rm) → exec (.imulAcc w rm) s = completes s
        (((((s.rmRead sz rm).withReg sz .eax (a * b)).withReg sz (highReg sz)
          (BitVec.ofInt sz.bits (a.toInt * b.toInt / 2 ^ sz.bits))).drawn).withFlags
            ((s.cpu.flags.setMul ((a * b).toInt != a.toInt * b.toInt)).freeSzap s.freeVal)))) ∧
    (s.canRead s.cpu.osz rm →
      (s.ready (.imulRegRm dst rm) → exec (.imulRegRm dst rm) s = completes s
        ((((s.rmRead s.cpu.osz rm).withReg s.cpu.osz dst (x * y)).drawn).withFlags
            ((s.cpu.flags.setMul ((x * y).toInt != x.toInt * y.toInt)).freeSzap s.freeVal))) ∧
      (s.ready (.imulRegRmImm sx dst rm imm) → exec (.imulRegRmImm sx dst rm imm) s = completes s
        ((((s.rmRead s.cpu.osz rm).withReg s.cpu.osz dst (y * z)).drawn).withFlags
            ((s.cpu.flags.setMul ((y * z).toInt != y.toInt * z.toInt)).freeSzap s.freeVal))))

/-- The dividend of DIV and IDIV: AX, DX:AX or EDX:EAX (R347, R348). -/
def dividend (s : State) (sz : Sz) : BitVec (sz.bits + sz.bits) := s.reg sz (highReg sz) ++ s.reg sz .eax

/-- DIV and IDIV with a quotient that fits write quotient and remainder; the six status flags are free. A divisor of 0 and a
quotient that does not fit raise exception 0, and nothing of the processor changes before it is taken (R347, R348, R623).
Free values: log 4. -/
def Obligations.DivideCompletes : Prop :=
  ∀ (w : Bool) (rm : RM) (s : State),
    let sz := s.cpu.size w
    let d := s.rmValue sz rm
    let n := dividend s sz
    let low : Int := -(2 ^ (sz.bits - 1))
    s.canRead sz rm →
    (d ≠ 0 → n.toNat / d.toNat < 2 ^ sz.bits → s.ready (.divAcc w rm) →
      exec (.divAcc w rm) s = completes s
        (((((s.rmRead sz rm).withReg sz .eax (BitVec.ofNat sz.bits (n.toNat / d.toNat))).withReg sz (highReg sz)
          (BitVec.ofNat sz.bits (n.toNat % d.toNat))).drawn).withFlags (s.cpu.flags.freeAll s.freeVal))) ∧
    (d ≠ 0 → low ≤ n.toInt.tdiv d.toInt → n.toInt.tdiv d.toInt < -low → s.ready (.idivAcc w rm) →
      exec (.idivAcc w rm) s = completes s
        (((((s.rmRead sz rm).withReg sz .eax (BitVec.ofInt sz.bits (n.toInt.tdiv d.toInt))).withReg sz (highReg sz)
          (BitVec.ofInt sz.bits (n.toInt.tmod d.toInt))).drawn).withFlags (s.cpu.flags.freeAll s.freeVal))) ∧
    ((d = 0 ∨ 2 ^ sz.bits ≤ n.toNat / d.toNat) → s.mayRun (.divAcc w rm) →
      exec (.divAcc w rm) s = takeException .de (s.rmLoaded sz rm)) ∧
    ((d = 0 ∨ n.toInt.tdiv d.toInt < low ∨ -low ≤ n.toInt.tdiv d.toInt) → s.mayRun (.idivAcc w rm) →
      exec (.idivAcc w rm) s = takeException .de (s.rmLoaded sz rm))

/-! ## Logic -/

/-- The three forms of a shift or rotate (R380). -/
inductive CountForm where
  | one
  | cl
  | imm (n : Byte)
  deriving DecidableEq, Repr

/-- The count of a form (R380). -/
def CountForm.count (k : CountForm) (s : State) : Byte :=
  match k with
  | .one => 1
  | .cl => s.reg .b .ecx
  | .imm n => n

/-- The instruction of a form (R381 to R387). -/
def shiftInstr (op : Shift) (k : CountForm) (w : Bool) (rm : RM) : Instr :=
  match op, k with
  | .rol, .one => .rolOne w rm
  | .rol, .cl => .rolCl w rm
  | .rol, .imm n => .rolImm w rm n
  | .ror, .one => .rorOne w rm
  | .ror, .cl => .rorCl w rm
  | .ror, .imm n => .rorImm w rm n
  | .rcl, .one => .rclOne w rm
  | .rcl, .cl => .rclCl w rm
  | .rcl, .imm n => .rclImm w rm n
  | .rcr, .one => .rcrOne w rm
  | .rcr, .cl => .rcrCl w rm
  | .rcr, .imm n => .rcrImm w rm n
  | .shl, .one => .shlOne w rm
  | .shl, .cl => .shlCl w rm
  | .shl, .imm n => .shlImm w rm n
  | .shr, .one => .shrOne w rm
  | .shr, .cl => .shrCl w rm
  | .shr, .imm n => .shrImm w rm n
  | .sar, .one => .sarOne w rm
  | .sar, .cl => .sarCl w rm
  | .sar, .imm n => .sarImm w rm n

/-- The shifts and rotates by 1, CL and an immediate: the count is taken modulo 32, a count of 0 changes nothing, another
count writes result and flags (R380 to R387). Free flags: log 4. -/
def Obligations.ShiftCompletes : Prop :=
  ∀ (op : Shift) (k : CountForm) (w : Bool) (rm : RM) (s : State),
    let sz := s.cpu.size w
    let x := s.rmValue sz rm
    let n := (k.count s).toNat % 32
    s.ready (shiftInstr op k w rm) → s.canWrite sz rm →
      exec (shiftInstr op k w rm) s = completes s
        (if n = 0 then s.rmRead sz rm
          else (((s.rmRead sz rm).rmWritten sz rm (op.result s.cpu.flags.cf x n)).drawn).withFlags
            (op.flags s.cpu.flags x n s.freeVal))

/-- Bit `i` of CF and an operand taken as one value, CF the highest bit (R383). -/
def carriedBit {n : Nat} (cf : Bool) (x : BitVec n) (i : Nat) : Bool := if i = n then cf else x.getLsbD i

/-- What the shifts and rotates compute, in integers and single bits: SHL multiplies, SHR and SAR divide, ROL and ROR move the bits
round, RCL and RCR move them round through CF. CF takes the last bit moved out, OF for a count of 1 what each rule says; the
rotates change no other flag, and RCL and RCR by a multiple of the N + 1 bits none at all (R380 to R387). Free flags: log 4. -/
def Obligations.ShiftMeaning : Prop :=
  ∀ (sz : Sz) (f : EFlags) (x : BitVec sz.bits) (n : Nat) (j : Dword), n ≠ 0 →
    let bits := sz.bits
    let r := fun op : Shift => op.result f.cf x n
    let g := fun op : Shift => op.flags f x n j
    (r .shl).toNat = x.toNat * 2 ^ n % 2 ^ bits ∧ (r .shr).toNat = x.toNat / 2 ^ n ∧ (r .sar).toInt = x.toInt / 2 ^ n ∧
    (∀ i, i < bits → (r .rol).getLsbD ((i + n) % bits) = x.getLsbD i ∧ (r .ror).getLsbD i = x.getLsbD ((i + n) % bits)) ∧
    (∀ i, i ≤ bits →
      carriedBit (g .rcl).cf (r .rcl) ((i + n) % (bits + 1)) = carriedBit f.cf x i ∧
      carriedBit (g .rcr).cf (r .rcr) i = carriedBit f.cf x ((i + n) % (bits + 1))) ∧
    (g .rol).cf = (r .rol).getLsbD 0 ∧ (g .ror).cf = (r .ror).getLsbD (bits - 1) ∧
    (n ≤ bits → (g .shl).cf = x.getLsbD (bits - n) ∧ (g .shr).cf = x.getLsbD (n - 1) ∧ (g .sar).cf = x.getLsbD (n - 1)) ∧
    (bits < n → (g .shl).cf = j.getLsbD 0 ∧ (g .shr).cf = j.getLsbD 0 ∧ (g .sar).cf = x.getLsbD (bits - 1)) ∧
    (n = 1 →
      (∀ op ∈ [Shift.rol, .rcl, .shl], (g op).ovf = ((r op).getLsbD (bits - 1) ^^ (g op).cf)) ∧
      (∀ op ∈ [Shift.ror, .rcr], (g op).ovf = ((r op).getLsbD (bits - 1) ^^ (r op).getLsbD (bits - 2))) ∧
      (g .shr).ovf = x.getLsbD (bits - 1) ∧ (g .sar).ovf = false) ∧
    (n ≠ 1 → (∀ op ∈ [Shift.rol, .ror, .shl, .shr, .sar], (g op).ovf = j.getLsbD 11) ∧
      (n % (bits + 1) ≠ 0 → (g .rcl).ovf = j.getLsbD 11 ∧ (g .rcr).ovf = j.getLsbD 11)) ∧
    (n % (bits + 1) = 0 → r .rcl = x ∧ r .rcr = x ∧ g .rcl = f ∧ g .rcr = f) ∧
    (∀ op ∈ [Shift.rol, .ror, .rcl, .rcr], g op = { f with cf := (g op).cf, ovf := (g op).ovf }) ∧
    (∀ op ∈ [Shift.shl, .shr, .sar],
      g op = { (f.setSzp (r op)).freeAf j with cf := (g op).cf, ovf := (g op).ovf })

/-- The instruction of a double shift (R388, R389). -/
def doubleShiftInstr (left : Bool) (k : Option Byte) (rm : RM) (reg : Reg) : Instr :=
  match left, k with
  | true, none => .shldCl rm reg
  | true, some n => .shldImm rm reg n
  | false, none => .shrdCl rm reg
  | false, some n => .shrdImm rm reg n

/-- SHLD and SHRD by CL and an immediate: the count is taken modulo 32, a count of 0 changes nothing, a count up to the
operand size writes result and flags, a larger one leaves a free result and free flags (R388, R389, U16). Free values: log
4. -/
def Obligations.DoubleShiftCompletes : Prop :=
  ∀ (left : Bool) (k : Option Byte) (rm : RM) (reg : Reg) (s : State),
    let sz := s.cpu.osz
    let x := s.rmValue sz rm
    let y := s.reg sz reg
    let n := (k.getD (s.reg .b .ecx)).toNat % 32
    let r := if left then x <<< n ||| y >>> (sz.bits - n) else x >>> n ||| y <<< (sz.bits - n)
    s.ready (doubleShiftInstr left k rm reg) → s.canWrite sz rm →
      exec (doubleShiftInstr left k rm reg) s = completes s
        (if n = 0 then s.rmRead sz rm
          else if n ≤ sz.bits then
            (((s.rmRead sz rm).drawn).rmWritten sz rm r).withFlags
              { (s.cpu.flags.setSzp r).freeAf s.freeVal with
                cf := x.getLsbD (if left then sz.bits - n else n - 1)
                ovf := if n = 1 then r.msb ^^ x.msb else s.freeVal.getLsbD 11 }
          else
            ((((s.rmRead sz rm).drawn).drawn).rmWritten sz rm (s.drawn.freeVal.setWidth sz.bits)).withFlags
              (s.cpu.flags.freeAll s.freeVal))

/-- The instruction with register/memory and register operands (R390). -/
def logicRmRegInstr (op : Logic) (d w : Bool) (rm : RM) (reg : Reg) : Instr :=
  match op with
  | .and => .andRmReg d w rm reg
  | .or => .orRmReg d w rm reg
  | .xor => .xorRmReg d w rm reg

/-- The instruction with an immediate of the operand size (R390). -/
def logicRmImmInstr (op : Logic) (w : Bool) (rm : RM) (imm : Imm) : Instr :=
  match op with
  | .and => .andRmImm w rm imm
  | .or => .orRmImm w rm imm
  | .xor => .xorRmImm w rm imm

/-- The instruction with a sign-extended byte (R390). -/
def logicRmImm8Instr (op : Logic) (rm : RM) (imm : Byte) : Instr :=
  match op with
  | .and => .andRmImm8 rm imm
  | .or => .orRmImm8 rm imm
  | .xor => .xorRmImm8 rm imm

/-- The instruction with the accumulator and an immediate (R390). -/
def logicAccImmInstr (op : Logic) (w : Bool) (imm : Imm) : Instr :=
  match op with
  | .and => .andAccImm w imm
  | .or => .orAccImm w imm
  | .xor => .xorAccImm w imm

/-- What an operation computes (R391, R393, R394). -/
def logicResult {n : Nat} (op : Logic) (a b : BitVec n) : BitVec n :=
  match op with
  | .and => a &&& b
  | .or => a ||| b
  | .xor => a ^^^ b

/-- AND, OR, XOR in all forms write the result, clear CF and OF, set SF, ZF and PF; AF is free (R390, R391, R393, R394).
Free values: log 4. -/
def Obligations.LogicCompletes : Prop :=
  ∀ (op : Logic) (w : Bool) (rm : RM) (reg : Reg) (imm : Imm) (b : Byte) (s : State),
    let sz := s.cpu.size w
    let x := s.rmValue sz rm
    let y := s.reg sz reg
    (s.ready (logicRmRegInstr op false w rm reg) → s.canWrite sz rm →
      exec (logicRmRegInstr op false w rm reg) s = completes s
        ((((s.rmRead sz rm).rmWritten sz rm (logicResult op x y)).drawn).withFlags
          (s.cpu.flags.logic (logicResult op x y) s.freeVal))) ∧
    (s.ready (logicRmRegInstr op true w rm reg) → s.canRead sz rm →
      exec (logicRmRegInstr op true w rm reg) s = completes s
        ((((s.rmRead sz rm).withReg sz reg (logicResult op y x)).drawn).withFlags
          (s.cpu.flags.logic (logicResult op y x) s.freeVal))) ∧
    (s.ready (logicRmImmInstr op w rm imm) → s.canWrite sz rm →
      exec (logicRmImmInstr op w rm imm) s = completes s
        ((((s.rmRead sz rm).rmWritten sz rm (logicResult op x (immValue sz imm))).drawn).withFlags
          (s.cpu.flags.logic (logicResult op x (immValue sz imm)) s.freeVal))) ∧
    (s.ready (logicRmImm8Instr op rm b) → s.canWrite s.cpu.osz rm →
      exec (logicRmImm8Instr op rm b) s = completes s
        ((((s.rmRead s.cpu.osz rm).rmWritten s.cpu.osz rm
          (logicResult op (s.rmValue s.cpu.osz rm) (b.signExtend s.cpu.osz.bits))).drawn).withFlags
            (s.cpu.flags.logic (logicResult op (s.rmValue s.cpu.osz rm) (b.signExtend s.cpu.osz.bits)) s.freeVal))) ∧
    (s.ready (logicAccImmInstr op w imm) →
      exec (logicAccImmInstr op w imm) s = completes s
        (((s.withReg sz .eax (logicResult op (s.reg sz .eax) (immValue sz imm))).drawn).withFlags
          (s.cpu.flags.logic (logicResult op (s.reg sz .eax) (immValue sz imm)) s.freeVal)))

/-! ## Strings -/

/-- CMPS, LODS, MOVS, SCAS, STOS without a repeat prefix, and XLAT (R411, R413, R414, R416 to R418). The source is in DS or the
override, the destination in ES. -/
def Obligations.StringCompletes : Prop :=
  ∀ (w : Bool) (s : State),
    let sz := s.cpu.size w
    let g := s.cpu.stringSegment
    let si := s.cpu.index .esi
    let di := s.cpu.index .edi
    let src := s.cpu.linear g si
    let dst := s.cpu.linear .es di
    let ea := s.cpu.gpr.ebx + (s.reg .b .eax).setWidth 32
    let off := if s.cpu.as32 then ea else (ea.setWidth 16).setWidth 32
    (s.cpu.cur.pfx.rep = none →
      (s.ready (.cmps w) → s.canAccess g si sz.bytes .read → s.canAccess .es di sz.bytes .read →
        exec (.cmps w) s = completes s
          (((((s.noted src sz.bytes).noted dst sz.bytes).withFlags
            (s.cpu.flags.sub (s.loadAt src sz) (s.loadAt dst sz) false)).stepped .esi sz).stepped .edi sz)) ∧
      (s.ready (.lods w) → s.canAccess g si sz.bytes .read →
        exec (.lods w) s = completes s
          (((s.noted src sz.bytes).withReg sz .eax (s.loadAt src sz)).stepped .esi sz)) ∧
      (s.ready (.movs w) → s.canAccess g si sz.bytes .read → s.canAccess .es di sz.bytes .write →
        exec (.movs w) s = completes s
          ((((s.noted src sz.bytes).storedAt dst sz (s.loadAt src sz)).stepped .esi sz).stepped .edi sz)) ∧
      (s.ready (.scas w) → s.canAccess .es di sz.bytes .read →
        exec (.scas w) s = completes s
          (((s.noted dst sz.bytes).withFlags
            (s.cpu.flags.sub (s.reg sz .eax) (s.loadAt dst sz) false)).stepped .edi sz)) ∧
      (s.ready (.stos w) → s.canAccess .es di sz.bytes .write →
        exec (.stos w) s = completes s ((s.storedAt dst sz (s.reg sz .eax)).stepped .edi sz))) ∧
    (s.ready .xlat → s.canAccess g off 1 .read →
      exec .xlat s = completes s
        ((s.noted (s.cpu.linear g off) 1).withReg .b .eax (s.loadAt (s.cpu.linear g off) .b)))

/-- INS and OUTS without a repeat prefix, where the ports may be accessed; denied ports raise exception 13 with error code 0 before
any operand is touched (R138, R412, R415). The scripted answers of the bus are the choice of log 11. -/
def Obligations.StringIoCompletes : Prop :=
  ∀ (w : Bool) (s : State),
    let sz := s.cpu.size w
    let port := s.reg .w .edx
    let checked := s.ioChecked port sz.bytes
    let di := s.cpu.linear .es (s.cpu.index .edi)
    let si := s.cpu.linear s.cpu.stringSegment (s.cpu.index .esi)
    (s.cpu.ioFree || !s.cpu.cr0.pg) = true → s.cpu.cur.pfx.rep = none →
    (s.ioPermits port sz.bytes = true → port.toNat + sz.bytes ≤ 0x10000 →
      (s.ready (.ins w) → s.canAccess .es (s.cpu.index .edi) sz.bytes .write →
        exec (.ins w) s = completes s
          (((checked.afterIoRead port sz).storedAt di sz (s.ioAnswer.setWidth sz.bits)).stepped .edi sz)) ∧
      (s.ready (.outs w) → s.canAccess s.cpu.stringSegment (s.cpu.index .esi) sz.bytes .read →
        exec (.outs w) s = completes s
          (((checked.noted si sz.bytes).afterIoWrite port sz (s.loadAt si sz)).stepped .esi sz))) ∧
    (s.ioPermits port sz.bytes = false →
      (s.mayRun (.ins w) → exec (.ins w) s = takeException (.gp 0) checked) ∧
      (s.mayRun (.outs w) → exec (.outs w) s = takeException (.gp 0) checked))

/-- A repeated string instruction with a count of 0 does nothing; with another count each does one element and counts down, and
ends or goes on: CMPS and SCAS also end on ZF (R420, R421). A step of a repetition that goes on leaves EIP. INS and OUTS are those
of the ports permitted (R136, R138, R412, R415); what INS stores is the scripted answer of the bus, the choice of log 11 (D9). -/
def Obligations.RepeatSteps : Prop :=
  ∀ (w : Bool) (p : Rep) (s : State), s.cpu.cur.pfx.rep = some p →
    let sz := s.cpu.size w
    let g := s.cpu.stringSegment
    let si := s.cpu.index .esi
    let di := s.cpu.index .edi
    let src := s.cpu.linear g si
    let dst := s.cpu.linear .es di
    let port := s.reg .w .edx
    let checked := s.ioChecked port sz.bytes
    let one := fun (stop : Bool) (t : State) => (.next (State.settle s (if s.cpu.index .ecx = 1 ∨ stop = true then .next else .again)
      (t.mapCpu fun c => c.withIndex .ecx (c.index .ecx - 1))) : Host.Outcome State Fault Refusal)
    let ends := fun f : EFlags => match p with
      | .rep => !f.zf
      | .repne => f.zf
    let f := s.cpu.flags.sub (s.loadAt src sz) (s.loadAt dst sz) false
    let h := s.cpu.flags.sub (s.reg sz .eax) (s.loadAt dst sz) false
    (∀ i ∈ [Instr.cmps w, .ins w, .lods w, .movs w, .outs w, .scas w, .stos w], s.cpu.index .ecx = 0 → s.ready i →
      exec i s = completes s s) ∧
    (s.cpu.index .ecx ≠ 0 →
      (s.ready (.movs w) → s.canAccess g si sz.bytes .read → s.canAccess .es di sz.bytes .write →
        exec (.movs w) s = one false
          ((((s.noted src sz.bytes).storedAt dst sz (s.loadAt src sz)).stepped .esi sz).stepped .edi sz)) ∧
      (s.ready (.lods w) → s.canAccess g si sz.bytes .read →
        exec (.lods w) s = one false (((s.noted src sz.bytes).withReg sz .eax (s.loadAt src sz)).stepped .esi sz)) ∧
      (s.ready (.stos w) → s.canAccess .es di sz.bytes .write →
        exec (.stos w) s = one false ((s.storedAt dst sz (s.reg sz .eax)).stepped .edi sz)) ∧
      (s.ready (.cmps w) → s.canAccess g si sz.bytes .read → s.canAccess .es di sz.bytes .read →
        exec (.cmps w) s = one (ends f)
          (((((s.noted src sz.bytes).noted dst sz.bytes).withFlags f).stepped .esi sz).stepped .edi sz)) ∧
      (s.ready (.scas w) → s.canAccess .es di sz.bytes .read →
        exec (.scas w) s = one (ends h) (((s.noted dst sz.bytes).withFlags h).stepped .edi sz)) ∧
      ((s.cpu.ioFree || !s.cpu.cr0.pg) = true → s.ioPermits port sz.bytes = true → port.toNat + sz.bytes ≤ 0x10000 →
        (s.ready (.ins w) → s.canAccess .es di sz.bytes .write →
          exec (.ins w) s = one false
            (((checked.afterIoRead port sz).storedAt dst sz (s.ioAnswer.setWidth sz.bits)).stepped .edi sz)) ∧
        (s.ready (.outs w) → s.canAccess g si sz.bytes .read →
          exec (.outs w) s = one false
            (((checked.noted src sz.bytes).afterIoWrite port sz (s.loadAt src sz)).stepped .esi sz))))

/-! ## Bits -/

/-- BSF writes the number of the lowest, BSR of the highest 1 bit and clears ZF; of 0 the destination is free and ZF is
set (R431, R432, U7). Free values: log 4. -/
def Obligations.BitScanCompletes : Prop :=
  ∀ (dst : Reg) (rm : RM) (s : State),
    let sz := s.cpu.osz
    let v := s.rmValue sz rm
    let f := { s.cpu.flags.freeAll s.freeVal with zf := decide (v = 0) }
    s.canRead sz rm →
    (v = 0 →
      (s.ready (.bsf dst rm) → exec (.bsf dst rm) s = completes s
        ((((s.rmRead sz rm).drawn.drawn).withReg sz dst (s.drawn.freeVal.setWidth sz.bits)).withFlags f)) ∧
      (s.ready (.bsr dst rm) → exec (.bsr dst rm) s = completes s
        ((((s.rmRead sz rm).drawn.drawn).withReg sz dst (s.drawn.freeVal.setWidth sz.bits)).withFlags f))) ∧
    (∀ k, v.getLsbD k = true →
      ((∀ i, i < k → v.getLsbD i = false) → s.ready (.bsf dst rm) → exec (.bsf dst rm) s = completes s
        ((((s.rmRead sz rm).drawn).withReg sz dst (BitVec.ofNat sz.bits k)).withFlags f)) ∧
      ((∀ i, k < i → v.getLsbD i = false) → s.ready (.bsr dst rm) → exec (.bsr dst rm) s = completes s
        ((((s.rmRead sz rm).drawn).withReg sz dst (BitVec.ofNat sz.bits k)).withFlags f)))

/-- The bit operations that write (R434 to R436). -/
inductive BitOp where
  | btc
  | btr
  | bts
  deriving DecidableEq, Repr

/-- The new bit (R434 to R436). -/
def BitOp.newBit (op : BitOp) (b : Bool) : Bool :=
  match op with
  | .btc => !b
  | .btr => false
  | .bts => true

/-- The instruction with the offset in a register. -/
def bitRegInstr (op : BitOp) (rm : RM) (reg : Reg) : Instr :=
  match op with
  | .btc => .btcReg rm reg
  | .btr => .btrReg rm reg
  | .bts => .btsReg rm reg

/-- The instruction with an immediate offset. -/
def bitImmInstr (op : BitOp) (rm : RM) (off : Byte) : Instr :=
  match op with
  | .btc => .btcImm rm off
  | .btr => .btrImm rm off
  | .bts => .btsImm rm off

/-- A value with one bit replaced. -/
def withBit {n : Nat} (v : BitVec n) (k : Nat) (b : Bool) : BitVec n :=
  if b then v ||| BitVec.twoPow n k else v &&& ~~~(BitVec.twoPow n k)

/-- The flags of a bit test: CF is the bit, the other five are free (R430). -/
def bitTestFlags (s : State) (b : Bool) : EFlags :=
  { (s.cpu.flags.freeSzap s.freeVal).freeOf s.freeVal with cf := b }

/-- BT, BTC, BTR, BTS of a register, and of memory with a register offset that selects an operand any distance away or an
immediate offset inside the operand (R430, R433 to R436). Free values: log 4. -/
def Obligations.BitTestCompletes : Prop :=
  ∀ (op : BitOp) (r reg : Reg) (m : Mem) (off : Byte) (s : State),
    let sz := s.cpu.osz
    let v := s.reg sz r
    let i := off.toNat % sz.bits
    let j := (s.reg sz reg).toNat % sz.bits
    let disp := bitDisplacement sz (s.reg sz reg)
    let x := s.loadAt (s.memLinear m 0) sz
    let y := s.loadAt (s.memLinear m disp) sz
    (s.ready (.btImm (.reg r) off) → exec (.btImm (.reg r) off) s =
      completes s (s.drawn.withFlags (bitTestFlags s (v.getLsbD i)))) ∧
    (s.ready (.btReg (.reg r) reg) → exec (.btReg (.reg r) reg) s =
      completes s (s.drawn.withFlags (bitTestFlags s (v.getLsbD j)))) ∧
    (s.ready (bitImmInstr op (.reg r) off) → exec (bitImmInstr op (.reg r) off) s = completes s
      ((s.withReg sz r (withBit v i (op.newBit (v.getLsbD i)))).drawn.withFlags (bitTestFlags s (v.getLsbD i)))) ∧
    (s.ready (bitRegInstr op (.reg r) reg) → exec (bitRegInstr op (.reg r) reg) s = completes s
      ((s.withReg sz r (withBit v j (op.newBit (v.getLsbD j)))).drawn.withFlags (bitTestFlags s (v.getLsbD j)))) ∧
    (s.ready (.btImm (.mem m) off) → s.memCan m 0 sz.bytes .read → exec (.btImm (.mem m) off) s = completes s
      ((s.noted (s.memLinear m 0) sz.bytes).drawn.withFlags (bitTestFlags s (x.getLsbD i)))) ∧
    (s.ready (.btReg (.mem m) reg) → s.memCan m disp sz.bytes .read → exec (.btReg (.mem m) reg) s = completes s
      ((s.noted (s.memLinear m disp) sz.bytes).drawn.withFlags (bitTestFlags s (y.getLsbD j)))) ∧
    (s.ready (bitImmInstr op (.mem m) off) → s.memCan m 0 sz.bytes .write →
      exec (bitImmInstr op (.mem m) off) s = completes s
        (((s.noted (s.memLinear m 0) sz.bytes).storedAt (s.memLinear m 0) sz
          (withBit x i (op.newBit (x.getLsbD i)))).drawn.withFlags (bitTestFlags s (x.getLsbD i)))) ∧
    (s.ready (bitRegInstr op (.mem m) reg) → s.memCan m disp sz.bytes .write →
      exec (bitRegInstr op (.mem m) reg) s = completes s
        (((s.noted (s.memLinear m disp) sz.bytes).storedAt (s.memLinear m disp) sz
          (withBit y j (op.newBit (y.getLsbD j)))).drawn.withFlags (bitTestFlags s (y.getLsbD j))))

/-! ## Control transfer -/

/-- JMP, Jcc, JCXZ, LOOP, LOOPZ, LOOPNZ within the code segment limit: EIP becomes the target, truncated to the operand size,
when the transfer is taken, else the next offset (R440, R444 to R446, R449 to R451). -/
def Obligations.NearJumpsComplete : Prop :=
  ∀ (disp : Byte) (full : Imm) (cond : Cond) (rm : RM) (s : State),
    let short := s.cpu.target (s.cpu.next + disp.signExtend 32)
    let near := s.cpu.target (s.cpu.next + immDisp full)
    let counted := s.mapCpu fun c => c.withIndex .ecx (c.index .ecx - 1)
    let more := s.cpu.index .ecx ≠ 1
    (short ≤ s.cpu.segs.cs.limit →
      (s.mayRun (.jmpShort disp) → exec (.jmpShort disp) s = transfers s s short) ∧
      (s.cpu.flags.holds cond = true → s.mayRun (.jccShort cond disp) →
        exec (.jccShort cond disp) s = transfers s s short) ∧
      (s.cpu.index .ecx = 0 → s.mayRun (.jcxz disp) → exec (.jcxz disp) s = transfers s s short) ∧
      (more → s.mayRun (.loop disp) → exec (.loop disp) s = transfers s counted short) ∧
      (more → s.cpu.flags.zf = true → s.mayRun (.loopz disp) → exec (.loopz disp) s = transfers s counted short) ∧
      (more → s.cpu.flags.zf = false → s.mayRun (.loopnz disp) → exec (.loopnz disp) s = transfers s counted short)) ∧
    (near ≤ s.cpu.segs.cs.limit →
      (s.mayRun (.jmpRel full) → exec (.jmpRel full) s = transfers s s near) ∧
      (s.cpu.flags.holds cond = true → s.mayRun (.jccNear cond full) →
        exec (.jccNear cond full) s = transfers s s near)) ∧
    (s.mayRun (.jmpRm rm) → s.canRead s.cpu.osz rm → (s.rmValue s.cpu.osz rm).setWidth 32 ≤ s.cpu.segs.cs.limit →
      exec (.jmpRm rm) s = transfers s (s.rmRead s.cpu.osz rm) ((s.rmValue s.cpu.osz rm).setWidth 32)) ∧
    (s.cpu.flags.holds cond = false →
      (s.ready (.jccShort cond disp) → exec (.jccShort cond disp) s = completes s s) ∧
      (s.ready (.jccNear cond full) → exec (.jccNear cond full) s = completes s s)) ∧
    (s.cpu.index .ecx ≠ 0 → s.ready (.jcxz disp) → exec (.jcxz disp) s = completes s s) ∧
    (s.cpu.index .ecx = 1 → s.ready (.loop disp) → exec (.loop disp) s = completes s counted) ∧
    (s.cpu.index .ecx = 1 ∨ s.cpu.flags.zf = false → s.ready (.loopz disp) →
      exec (.loopz disp) s = completes s counted) ∧
    (s.cpu.index .ecx = 1 ∨ s.cpu.flags.zf = true → s.ready (.loopnz disp) →
      exec (.loopnz disp) s = completes s counted)

/-- CALL within the segment pushes the offset of the next instruction; RET pops EIP and adds its immediate to the stack
pointer (R442, R443, R447, R448). The return offset of an instruction at the end of the segment follows log 14. -/
def Obligations.NearCallReturnComplete : Prop :=
  ∀ (full : Imm) (rm : RM) (n : Word) (s : State),
    let sz := s.cpu.osz
    let near := s.cpu.target (s.cpu.next + immDisp full)
    let back := s.cpu.next.setWidth sz.bits
    let top := (s.peek sz 0).setWidth 32
    (s.mayRun (.callRel full) → near ≤ s.cpu.segs.cs.limit → s.canPush sz →
      exec (.callRel full) s = transfers s (s.pushed sz back) near) ∧
    (s.mayRun (.callRm rm) → s.canRead sz rm → (s.rmValue sz rm).setWidth 32 ≤ s.cpu.segs.cs.limit → s.canPush sz →
      exec (.callRm rm) s = transfers s ((s.rmRead sz rm).pushed sz back) ((s.rmValue sz rm).setWidth 32)) ∧
    (s.canPeek sz 0 → top ≤ s.cpu.segs.cs.limit →
      (s.mayRun .retNear → exec .retNear s = transfers s (s.popped sz) top) ∧
      (s.mayRun (.retNearImm n) → exec (.retNearImm n) s = transfers s
        ((s.popped sz).mapCpu fun c => c.withSp (c.spPlus (n.setWidth 32))) top))

/-- A near target beyond the code segment limit raises exception 13 with error code 0, from every jump, conditional jump, loop, CALL
and RET that takes it; a CALL pushes nothing, a loop's count and a RET's stack pointer are restored (R441). -/
def Obligations.NearTargetBeyondLimit : Prop :=
  ∀ (disp : Byte) (full : Imm) (cond : Cond) (rm : RM) (n : Word) (s : State),
    let sz := s.cpu.osz
    let short := s.cpu.target (s.cpu.next + disp.signExtend 32)
    let near := s.cpu.target (s.cpu.next + immDisp full)
    let far := (s.rmValue sz rm).setWidth 32
    let top := (s.peek sz 0).setWidth 32
    let taken := s.cpu.flags.holds cond = true
    let more := s.cpu.index .ecx ≠ 1
    let raised := fun i : Instr => s.mayRun i → exec i s = takeException (.gp 0) s
    (s.cpu.segs.cs.limit < short →
      raised (.jmpShort disp) ∧ (taken → raised (.jccShort cond disp)) ∧ (s.cpu.index .ecx = 0 → raised (.jcxz disp)) ∧
      (more → raised (.loop disp)) ∧ (more → s.cpu.flags.zf = true → raised (.loopz disp)) ∧
      (more → s.cpu.flags.zf = false → raised (.loopnz disp))) ∧
    (s.cpu.segs.cs.limit < near →
      raised (.jmpRel full) ∧ (taken → raised (.jccNear cond full)) ∧ raised (.callRel full)) ∧
    (s.canRead sz rm → s.cpu.segs.cs.limit < far →
      (s.mayRun (.jmpRm rm) → exec (.jmpRm rm) s = takeException (.gp 0) (s.rmLoaded sz rm)) ∧
      (s.mayRun (.callRm rm) → exec (.callRm rm) s = takeException (.gp 0) (s.rmLoaded sz rm))) ∧
    (s.canPeek sz 0 → s.cpu.segs.cs.limit < top →
      (s.mayRun .retNear → exec .retNear s = takeException (.gp 0) (s.sysLoaded (s.stackLinear 0) sz.bytes)) ∧
      (s.mayRun (.retNearImm n) →
        exec (.retNearImm n) s = takeException (.gp 0) (s.sysLoaded (s.stackLinear 0) sz.bytes)))

/-- Far JMP, CALL and RET in Real and Virtual 8086 Mode: CS.base = selector * 16; CALL pushes CS and the next offset; RET pops
them and adds its immediate to the stack pointer (R452 to R456, R462). That a far JMP ends the wait of R725 is the choice of
log 15, the return offset of a CALL at the end of its segment that of log 14, the free upper half of the CS a 32-bit CALL
pushes that of log 4, the rights and sizes of an 8086 segment in Virtual 8086 Mode, beyond base, limit and DPL, those of log
18. -/
def Obligations.FarTransfer8086Completes : Prop :=
  ∀ (off : Imm) (sel n : Word) (m : Mem) (s : State), s.cpu.prot = false →
    let sz := s.cpu.osz
    let w : Dword := BitVec.ofNat 32 sz.bytes
    let back := s.cpu.next.setWidth sz.bits
    let called := fun t : State => (t.pushedSelector sz s.cpu.segs.cs.selector).pushed sz back
    let settled := fun t : State => t.mapCpu fun c => { c with peSwitched := false }
    let pointed := (s.noted (s.memLinear m 0) sz.bytes).noted (s.memLinear m w) 2
    let moff := (s.loadAt (s.memLinear m 0) sz).setWidth 32
    let msel := s.loadAt (s.memLinear m w) .w
    let returned := fun k : Dword =>
      (((s.noted (s.stackLinear 0) sz.bytes).noted (s.stackLinear w) sz.bytes).mapCpu fun c =>
        c.withSp (c.spPlus (w + w + k))).enteredCode8086 ((s.peek sz w).setWidth 16) ((s.peek sz 0).setWidth 32)
    (immOffset off ≤ 0xFFFF → s.mayRun (.jmpFar off sel) →
      exec (.jmpFar off sel) s = .next (State.settle s .jumped ((settled s).enteredCode8086 sel (immOffset off)))) ∧
    (s.memCan m 0 sz.bytes .read → s.memCan m w 2 .read → moff ≤ 0xFFFF → s.mayRun (.jmpFarMem m) →
      exec (.jmpFarMem m) s = .next (State.settle s .jumped ((settled pointed).enteredCode8086 msel moff))) ∧
    (s.cpu.peSwitched = false → s.canPush sz → (s.pushedSelector sz s.cpu.segs.cs.selector).canPush sz →
      (immOffset off ≤ 0xFFFF → s.mayRun (.callFar off sel) →
        exec (.callFar off sel) s = .next (State.settle s .jumped ((called s).enteredCode8086 sel (immOffset off)))) ∧
      (s.memCan m 0 sz.bytes .read → s.memCan m w 2 .read → moff ≤ 0xFFFF → s.mayRun (.callFarMem m) →
        exec (.callFarMem m) s = .next (State.settle s .jumped ((called pointed).enteredCode8086 msel moff)))) ∧
    (s.cpu.peSwitched = false → s.canPeek sz 0 → s.canPeek sz w → (s.peek sz 0).toNat ≤ 0xFFFF →
      (s.mayRun .retFar → exec .retFar s = .next (State.settle s .jumped (returned 0))) ∧
      (s.mayRun (.retFarImm n) →
        exec (.retFarImm n) s = .next (State.settle s .jumped (returned (n.setWidth 32)))))

/-- A descriptor is a present code segment that a far transfer of the program may enter at the current level (R457). -/
def sameLevelCode (c : Cpu) (sel : Word) (d : Desc) : Bool :=
  d.isCode && d.present && (if d.ec then decide (d.dpl ≤ c.cpl) else decide (rpl sel ≤ c.cpl) && d.dpl == c.cpl)

/-- A descriptor is a present call gate that the program may use (R458). -/
def usableGate (c : Cpu) (sel : Word) (g : Desc) : Bool :=
  !g.s && (g.type == 4 || g.type == 0xC) && g.present && decide (c.cpl ≤ g.dpl) && decide (rpl sel ≤ g.dpl)

/-- Far JMP, CALL and RET in Protected Mode with paging off, to a code segment of the same level: directly, through memory,
and through a call gate of either format, which gives the offset and the width of the items CALL pushes. The descriptors are
read, that of the code segment is marked accessed and cached, CS takes the CPL as its RPL (R118, R122, R457, R458, R460). That
a far JMP ends the wait of R725 is the choice of log 15, the free upper half of a pushed selector that of log 4, the return
offset of a CALL at the end of its segment that of log 14. Gates to inner levels and returns to outer ones are not part of it.
-/
def Obligations.FarTransferSameLevelCompletes : Prop :=
  ∀ (off : Imm) (sel n : Word) (m : Mem) (la : Dword) (s : State), s.cpu.prot = true → s.cpu.cr0.pg = false →
    let sz := s.cpu.osz
    let w : Dword := BitVec.ofNat 32 sz.bytes
    let room := fun z : Sz => stackRoom true s.cpu.segs.ss s.cpu.sp 2 z.bytes
    let jumps := fun t : State => (.next (State.settle s .jumped t) : Host.Outcome State Fault Refusal)
    let settled := fun t : State => t.mapCpu fun c => { c with peSwitched := false }
    let pointed := (s.noted (s.memLinear m 0) sz.bytes).noted (s.memLinear m w) 2
    let moff := (s.loadAt (s.memLinear m 0) sz).setWidth 32
    let msel := s.loadAt (s.memLinear m w) .w
    let d := s.descAt la
    let reaches := fun (x : Word) (o : Dword) =>
      isNull x = false ∧ descriptorAddr s.cpu x = some la ∧ sameLevelCode s.cpu x d = true ∧ o ≤ d.limit
    (reaches sel (immOffset off) →
      (s.mayRun (.jmpFar off sel) → exec (.jmpFar off sel) s =
        jumps (((settled s).descLoaded la).enteredCode sel la d s.cpu.cpl (immOffset off))) ∧
      (s.mayRun (.callFar off sel) → s.cpu.peSwitched = false → room sz → (s.descLoaded la).canPushReturn sz →
        exec (.callFar off sel) s =
          jumps (((s.descLoaded la).returnPushed sz s.cpu.next).enteredCode sel la d s.cpu.cpl (immOffset off)))) ∧
    (s.memCan m 0 sz.bytes .read → s.memCan m w 2 .read → reaches msel moff →
      (s.mayRun (.jmpFarMem m) → exec (.jmpFarMem m) s =
        jumps (((settled pointed).descLoaded la).enteredCode msel la d s.cpu.cpl moff)) ∧
      (s.mayRun (.callFarMem m) → s.cpu.peSwitched = false → room sz → (pointed.descLoaded la).canPushReturn sz →
        exec (.callFarMem m) s =
          jumps (((pointed.descLoaded la).returnPushed sz s.cpu.next).enteredCode msel la d s.cpu.cpl moff))) ∧
    (∀ cla, isNull sel = false → descriptorAddr s.cpu sel = some la → usableGate s.cpu sel d = true →
      let csel := d.gateSelector
      let cd := s.descAt cla
      let z : Sz := if d.type = 0xC then .d else .w
      let read := fun t : State => (t.descLoaded la).descLoaded cla
      isNull csel = false → descriptorAddr s.cpu csel = some cla → cd.isCode = true → cd.present = true →
      cd.dpl ≤ s.cpu.cpl → cd.ec = true ∨ cd.dpl = s.cpu.cpl → d.gateOffset ≤ cd.limit →
        (s.mayRun (.jmpFar off sel) → exec (.jmpFar off sel) s =
          jumps ((read (settled s)).enteredCode csel cla cd s.cpu.cpl d.gateOffset)) ∧
        (s.mayRun (.callFar off sel) → s.cpu.peSwitched = false → room z → (read s).canPushReturn z →
          exec (.callFar off sel) s =
            jumps (((read s).returnPushed z s.cpu.next).enteredCode csel cla cd s.cpu.cpl d.gateOffset))) ∧
    (∀ far : Bool,
      let i := if far then Instr.retFarImm n else .retFar
      let extra : Dword := if far then n.setWidth 32 else 0
      let rsel : Word := (s.peek sz w).setWidth 16
      s.mayRun i → s.cpu.peSwitched = false → s.canPeek sz 0 → s.canPeek sz w →
      s.cpu.allows .ss (s.cpu.spPlus 0) (2 * sz.bytes) .read →
      rpl rsel = s.cpu.cpl → reaches rsel ((s.peek sz 0).setWidth 32) →
        exec i s = jumps ((((((s.noted (s.stackLinear 0) sz.bytes).noted (s.stackLinear w) sz.bytes).descLoaded la).mapCpu
          fun c => c.withSp (c.spPlus (w + w + extra)))).enteredCode rsel la d s.cpu.cpl ((s.peek sz 0).setWidth 32)))

/-- JMP and CALL to an available 80386SX TSS in Protected Mode with paging off: the running task is saved in its TSS, JMP
makes it not busy, CALL links the new task to it and sets NT, the new TSS becomes busy; then the registers, the flags, CS and
SS of the new task are loaded from its TSS, whose LDT and data segments are null, TS is set, the local breakpoints are
disabled, and the T bit asks for a trap (R126, R459, R650, R651, R653). The offset saved for an instruction at the end of its
segment follows log 14. Task gates, 286 TSSs, tasks with VM = 1, an LDT or data segments are not part of it. `u` is the state
in which the new TSS is read. -/
def Obligations.TaskSwitchCompletes : Prop :=
  ∀ (call : Bool) (off : Imm) (sel : Word) (la old lac las : Dword) (s : State),
    let i := if call then Instr.callFar off sel else .jmpFar off sel
    let n := s.descAt la
    let b := n.base
    let u := s.taskLeft call b la old
    let word := fun k : Dword => u.loadAt (b + k) .w
    let dword := fun k : Dword => u.loadAt (b + k) .d
    let cs := word 0x4C
    let ss := word 0x50
    let dc := u.descAt lac
    let ds := u.descAt las
    s.cpu.prot = true → s.cpu.cr0.pg = false → s.cpu.peSwitched = false → s.mayRun i → s.cpu.tr.is386 = true →
    isNull sel = false → sel.getLsbD 2 = false → descriptorAddr s.cpu sel = some la →
    n.s = false → n.type = 9 → n.present = true → s.cpu.cpl ≤ n.dpl → rpl sel ≤ n.dpl → 0x67 ≤ n.limit.toNat →
    descriptorAddr s.cpu s.cpu.tr.selector = some old →
    (dword 0x24).getLsbD 17 = false → (∀ k ∈ [(0x48 : Dword), 0x54, 0x58, 0x5C, 0x60], isNull (word k) = true) →
    isNull cs = false → cs.getLsbD 2 = false → descriptorAddr s.cpu cs = some lac →
    dc.isCode = true → (if dc.ec then dc.dpl ≤ rpl cs else dc.dpl = rpl cs) → dc.present = true → dc.accessed = true →
    isNull ss = false → ss.getLsbD 2 = false → descriptorAddr s.cpu ss = some las →
    ds.isStack = true → rpl ss = rpl cs → ds.dpl = rpl cs → ds.present = true → ds.accessed = true →
    dword 0x20 ≤ dc.limit →
    ∃ t : State, exec i s = .next t ∧ t.mem = u.mem ∧ t.tlb = s.tlb ∧ t.queue = [] ∧ t.prefetch = [] ∧ t.pgSwitch = none ∧
      t.cpu.tr = ⟨sel, b, n.limit, true⟩ ∧ t.cpu.cr0 = { s.cpu.cr0 with ts := true } ∧ t.cpu.cr3 = s.cpu.cr3 ∧
      t.cpu.gpr = ⟨dword 0x28, dword 0x2C, dword 0x30, dword 0x34, dword 0x38, dword 0x3C, dword 0x40, dword 0x44⟩ ∧
      t.cpu.eip = dword 0x20 ∧
      t.cpu.flags = { EFlags.ofImage32 (dword 0x24) with nt := (dword 0x24).getLsbD 14 || call } ∧
      t.cpu.cpl = rpl cs ∧ t.cpu.segs.cs = dc.cache cs ∧ t.cpu.segs.ss = ds.cache ss ∧
      (∀ r ∈ [SReg.ds, .es, .fs, .gs], (t.cpu.segs.get r).valid = false) ∧ t.cpu.ldtr.valid = false ∧
      t.cpu.dbg.dr7 = s.cpu.dbg.dr7 &&& 0xFFFFFEAA ∧ t.cpu.trap.bt = (s.cpu.cur.hits.bt || (word 0x64).getLsbD 0)

/-- SETcc writes 1 or 0; ENTER pushes the frame pointer, copies the frame pointers of enclosing procedures, sets the frame
pointer and makes room; LEAVE undoes it (R480 to R482). The widths of the frame pointer are the choice of log 31, the free
upper half of the dword item that holds SP, the frame of a 16-bit stack segment, that of log 55. -/
def Obligations.FrameInstructionsComplete : Prop :=
  ∀ (cond : Cond) (rm : RM) (size : Word) (level : Byte) (s : State),
    let sz := s.cpu.osz
    let depth := level.toNat % 32
    let t := s.pushed sz (s.reg sz .ebp)
    let frame := t.cpu.sp
    let u := t.framesCopied sz (depth - 1)
    let framed := fun v : State => (v.mapCpu fun c => { c with gpr := { c.gpr with
      ebp := if sz = .d && c.segs.ss.big then frame else c.gpr.ebp.extractLsb' 16 16 ++ frame.setWidth 16 } }).mapCpu
        fun c => c.withSp (c.spPlus (-(size.setWidth 32)))
    let l := s.mapCpu fun c => c.withSp (c.stackWrap c.gpr.ebp)
    (s.ready (.setcc cond rm) → s.canWrite .b rm →
      exec (.setcc cond rm) s = completes s (s.rmWritten .b rm (if s.cpu.flags.holds cond then 1 else 0))) ∧
    (s.ready (.enter size level) → depth = 0 → s.canPush sz →
      exec (.enter size level) s = completes s (framed t)) ∧
    (s.ready (.enter size level) → depth ≠ 0 → s.canPush sz →
      t.canCopyFrames sz (depth - 1) → u.canPush sz →
      exec (.enter size level) s = completes s (framed (u.framePointerPushed sz frame))) ∧
    (s.ready .leave → l.canPeek sz 0 →
      exec .leave s = completes s ((l.popped sz).withReg sz .ebp (l.peek sz 0)))

/-! ## Interrupts -/

/-- INT n, INT 3 and INTO with OF = 1 in Real Mode enter their handler with the next offset as return address; INTO with OF =
0 goes on (R490 to R493, R621). That RF is clear in the handler is the choice of log 29, that INT 1 leaves DR7.GD that of log
41, that NT is clear there that of log 48 (R47), the return offset of an instruction at the end of the segment that of log 14.
Virtual 8086 Mode is not part of it. -/
def Obligations.SoftwareInterruptEntersReal : Prop :=
  ∀ (vector : Byte) (s : State),
    let entered := fun v : Byte => (.next (State.settle s .interrupted
      ((s.realEntered v s.cpu.next).withFlags { s.cpu.flags with intf := false, tf := false, nt := false, rf := false })) :
        Host.Outcome State Fault Refusal)
    (s.canEnterReal vector s.cpu.next → s.mayRun (.int vector) → exec (.int vector) s = entered vector) ∧
    (s.canEnterReal 3 s.cpu.next → s.mayRun .int3 → exec .int3 s = entered 3) ∧
    (s.canEnterReal 4 s.cpu.next → s.cpu.flags.ovf = true → s.mayRun .into → exec .into s = entered 4) ∧
    (s.cpu.flags.ovf = false → s.ready .into → exec .into s = completes s s)

/-- BOUND inside its signed bounds goes on; outside them it raises exception 5 (R494). -/
def Obligations.BoundCompletes : Prop :=
  ∀ (reg : Reg) (m : Mem) (s : State),
    let sz := s.cpu.osz
    let w : Dword := BitVec.ofNat 32 sz.bytes
    let lower := (s.loadAt (s.memLinear m 0) sz).toInt
    let upper := (s.loadAt (s.memLinear m w) sz).toInt
    let i := (s.reg sz reg).toInt
    s.memCan m 0 sz.bytes .read → s.memCan m w sz.bytes .read →
    (lower ≤ i → i ≤ upper → s.ready (.bound reg m) →
      exec (.bound reg m) s = completes s
        ((s.noted (s.memLinear m 0) sz.bytes).noted (s.memLinear m w) sz.bytes)) ∧
    (i < lower ∨ upper < i → s.mayRun (.bound reg m) → exec (.bound reg m) s = takeException .br
      ((s.sysLoaded (s.memLinear m 0) sz.bytes).sysLoaded (s.memLinear m w) sz.bytes))

/-- IRET in Real Mode, and in Virtual 8086 Mode with IOPL 3, pops the offset, CS and the flags, and ends NMI service; VM never
changes, and IOPL only in Real Mode (R495, R496). That an IRET that sets IF starts no interrupt inhibit is the spec's own
decision D18; the rights and sizes of an 8086 segment in Virtual 8086 Mode, beyond base, limit and DPL, are those of log 18.
-/
def Obligations.Iret8086Completes : Prop :=
  ∀ s : State,
    let sz := s.cpu.osz
    let w : Dword := BitVec.ofNat 32 sz.bytes
    let f := s.peek sz (w + w)
    let read := ((s.noted (s.stackLinear 0) sz.bytes).noted (s.stackLinear w) sz.bytes).noted
      (s.stackLinear (w + w)) sz.bytes
    s.cpu.prot = false → s.cpu.real || s.cpu.flags.iopl == 3 → s.cpu.peSwitched = false → s.mayRun .iret →
    s.canPeek sz 0 → s.canPeek sz w → s.canPeek sz (w + w) →
    s.cpu.allows .ss (s.cpu.spPlus 0) (3 * sz.bytes) .read → (s.peek sz 0).toNat ≤ 0xFFFF →
      exec .iret s = .next (State.settle s .returned
        (((((read.mapCpu fun c => c.withSp (c.spPlus (BitVec.ofNat 32 (3 * sz.bytes)))).enteredCode8086
          ((s.peek sz w).setWidth 16) ((s.peek sz 0).setWidth 32)).withFlags
            { s.cpu.flags.loadImage (f.setWidth 16) s.cpu.real true with
              rf := if sz = .d then f.getLsbD 16 else s.cpu.flags.rf }).mapCpu fun c => { c with nmiInService := false })))

/-- In Protected Mode with paging off, INT n, INT 3 and INTO with OF = 1 enter the handler of an 80386SX gate that the CPL may
use and that leads to code of the same level, with the next offset as return address; IRET with NT = 0 to a selector of the
same level pops the offset, CS and the flags, IOPL at CPL 0 only, IF with CPL <= IOPL only, and ends NMI service (R490 to
R493, R495, R497, R634, R635). That RF is clear in the image an INT pushes is the choice of log 29, the free upper half of a
pushed selector that of log 4, that INT 1 leaves DR7.GD that of log 41, the return offset of an instruction at the end of its
segment that of log 14; that IF is cleared through an interrupt gate alone is the spec's own decision D20, that an IRET that
sets IF starts no interrupt inhibit D18. Inner levels, 286 and task gates, NT = 1 and Virtual 8086 Mode are not part of it. -/
def Obligations.InterruptSameLevelCompletes : Prop :=
  ∀ (vector : Byte) (la : Dword) (s : State),
    let enters := fun (i : Instr) (v : Byte) => s.mayRun i → s.canEnterGate v false s.cpu.next none la →
      s.cpu.cpl ≤ (s.descAt (s.gateAddr v)).dpl →
      exec i s = .next (State.settle s .interrupted (s.gateEntered v false s.cpu.next none la))
    let sz := s.cpu.osz
    let w : Dword := BitVec.ofNat 32 sz.bytes
    let sel : Word := (s.peek sz w).setWidth 16
    let f : Dword := (s.peek sz (w + w)).setWidth 32
    let d := s.descAt la
    let read := ((s.noted (s.stackLinear 0) sz.bytes).noted (s.stackLinear w) sz.bytes).noted
      (s.stackLinear (w + w)) sz.bytes
    enters (.int vector) vector ∧ enters .int3 3 ∧ (s.cpu.flags.ovf = true → enters .into 4) ∧
    (s.cpu.prot = true → s.cpu.cr0.pg = false → s.cpu.peSwitched = false → s.cpu.flags.nt = false → s.mayRun .iret →
      s.canPeek sz 0 → s.canPeek sz w → s.canPeek sz (w + w) → s.cpu.allows .ss (s.cpu.spPlus 0) (3 * sz.bytes) .read →
      (sz = .d && f.getLsbD 17 && s.cpu.cpl == 0) = false → isNull sel = false → rpl sel = s.cpu.cpl →
      descriptorAddr s.cpu sel = some la → sameLevelCode s.cpu sel d = true → (s.peek sz 0).setWidth 32 ≤ d.limit →
        exec .iret s = .next (State.settle s .returned
          (((((read.descLoaded la).mapCpu fun c => c.withSp (c.spPlus (BitVec.ofNat 32 (3 * sz.bytes)))).enteredCode sel la d
            s.cpu.cpl ((s.peek sz 0).setWidth 32)).withFlags
              { s.cpu.flags.loadImage (f.setWidth 16) (s.cpu.cpl == 0) (decide (s.cpu.cpl ≤ s.cpu.flags.iopl)) with
                rf := if sz = .d then f.getLsbD 16 else s.cpu.flags.rf }).mapCpu fun c => { c with nmiInService := false })))

/-! ## Processor control -/

/-- HLT halts with the halt indication cycle on the bus, NOP does nothing, WAIT goes on when the coprocessor is ready and waits while it
is busy (R511, R520, R521, R742); each of the eleven prefix bytes leaves its mark in the decode register and changes nothing
else (R203, R204, R526). The halt and the wait as next states are the choice of logs 13 and 22, the decode register that
of log 8. -/
def Obligations.HaltNopWaitPrefixesComplete : Prop :=
  (∀ s : State,
    (s.ready .hlt → exec .hlt s = completes s ((s.mapCpu fun c => { c with run := .halted }).traced .halt)) ∧
    (s.ready .nop → exec .nop s = completes s s) ∧
    ((s.cpu.cr0.ts && s.cpu.cr0.mp) = false →
      (s.env.busy = false → s.env.error = false → s.ready .wait → exec .wait s = completes s s) ∧
      (s.env.busy = false → s.env.error = true → s.mayRun .wait → exec .wait s = takeException .mf s) ∧
      (s.env.busy = true → s.mayRun .wait → exec .wait s = .next (State.settle s .waiting s))) ∧
    ((s.cpu.cr0.ts && s.cpu.cr0.mp) = true → s.mayRun .wait → exec .wait s = takeException .nm s)) ∧
  BusEvent.halt.cycles = [{ mio := true, dc := false, wr := true, addr := 2, bhe := true, ble := false }] ∧
  (∀ s : State,
    let marked := fun f : Prefixes → Prefixes =>
      (.next (s.mapCpu fun c => { c with cur := { c.cur with pfx := f c.cur.pfx } }) : Host.Outcome State Fault Refusal)
    exec .repPrefix s = marked (fun p => { p with rep := some .rep }) ∧
    exec .repnePrefix s = marked (fun p => { p with rep := some .repne }) ∧
    exec .lockPrefix s = marked (fun p => { p with lock := true }) ∧
    exec .operandSizePrefix s = marked (fun p => { p with opsize := true }) ∧
    exec .addressSizePrefix s = marked (fun p => { p with addrsize := true }) ∧
    exec .esPrefix s = marked (fun p => { p with seg := some .es }) ∧
    exec .csPrefix s = marked (fun p => { p with seg := some .cs }) ∧
    exec .ssPrefix s = marked (fun p => { p with seg := some .ss }) ∧
    exec .dsPrefix s = marked (fun p => { p with seg := some .ds }) ∧
    exec .fsPrefix s = marked (fun p => { p with seg := some .fs }) ∧
    exec .gsPrefix s = marked (fun p => { p with seg := some .gs }))

/-- MOV to and from CR0, CR2, CR3 with CPL 0: PG without PE is refused with exception 13, CR3 drops its low twelve bits and
empties the TLB, a change of PE waits for a far JMP, a change of PG leaves bytes queued that were read under the old setting
until a jump (R71, R726); the status flags are free (R512, R514, R515, R725). The free flags are the choice of log 30, the
wait for a far JMP that of log 15, the reserved bits of CR0 those of log 5, the bytes queued over a change of PG that of log
52. -/
def Obligations.ControlRegisterMoves : Prop :=
  ∀ (r : Reg) (s : State),
    let v := s.cpu.gpr.get r
    let f := s.cpu.flags.freeAll s.freeVal
    (v.getLsbD 31 = false ∨ v.getLsbD 0 = true → s.ready (.movCrReg .cr0 r) →
      exec (.movCrReg .cr0 r) s = completes s ((({ s.mapCpu (fun c => { c with
        cr0 := ⟨v.getLsbD 0, v.getLsbD 1, v.getLsbD 2, v.getLsbD 3, v.getLsbD 31⟩
        peSwitched := c.peSwitched || v.getLsbD 0 != c.cr0.pe }) with
          pgSwitch := if v.getLsbD 31 = s.cpu.cr0.pg then s.pgSwitch else some (s.cpu.segs.cs.base + s.cpu.eip) }).drawn).withFlags
            f)) ∧
    (v.getLsbD 31 = true → v.getLsbD 0 = false → s.mayRun (.movCrReg .cr0 r) →
      exec (.movCrReg .cr0 r) s = takeException (.gp 0) s) ∧
    (s.ready (.movCrReg .cr2 r) →
      exec (.movCrReg .cr2 r) s = completes s (((s.mapCpu fun c => { c with cr2 := v }).drawn).withFlags f)) ∧
    (s.ready (.movCrReg .cr3 r) →
      exec (.movCrReg .cr3 r) s = completes s
        (({ s.mapCpu (fun c => { c with cr3 := v &&& 0xFFFFF000 }) with tlb := [] }.drawn).withFlags f)) ∧
    (∀ cr, s.ready (.movRegCr r cr) →
      exec (.movRegCr r cr) s = completes s (((s.withReg .d r (s.cpu.controlReg cr)).drawn).withFlags f))

/-- MOV to and from the debug and test registers with CPL 0 and DR7.GD clear; DR4, DR5 and the undefined codes of DR7 are
refused by name, DR7.GD set raises exception 1 with DR6.BD, which clears DR7.GD before it is delivered (R512, R516 to R519,
R672). The free flags are the choice of log 30, the undefined codes those of log 21; that RF = 1 does not suppress the
exception of DR7.GD is that of log 53. The refusal of DR4 and DR5 is the spec's own decision D6; that TR6 and TR7 are plain
storage is its decision D7, and log 34. -/
def Obligations.DebugAndTestMoves : Prop :=
  ∀ (r : Reg) (d : DReg) (t : TReg) (s : State),
    let v := s.cpu.gpr.get r
    let f := s.cpu.flags.freeAll s.freeVal
    (d ≠ .dr4 → d ≠ .dr5 → s.cpu.dbg.dr7.getLsbD 13 = false →
      ((d = .dr7 → undefinedBreakpoint v = false) → s.ready (.movDrReg d r) →
        exec (.movDrReg d r) s = completes s
          (((s.mapCpu fun c => { c with dbg := c.dbg.set d v }).drawn).withFlags f)) ∧
      (d = .dr7 → undefinedBreakpoint v = true → s.mayRun (.movDrReg d r) →
        exec (.movDrReg d r) s = .refused .undefinedBreakpointCode) ∧
      (s.ready (.movRegDr r d) →
        exec (.movRegDr r d) s = completes s (((s.withReg .d r (s.cpu.dbg.get d)).drawn).withFlags f))) ∧
    (d ≠ .dr4 → d ≠ .dr5 → s.cpu.dbg.dr7.getLsbD 13 = true →
      (s.mayRun (.movDrReg d r) → exec (.movDrReg d r) s = takeException (.db 0x2000) s) ∧
      (s.mayRun (.movRegDr r d) → exec (.movRegDr r d) s = takeException (.db 0x2000) s)) ∧
    (d = .dr4 ∨ d = .dr5 →
      (s.mayRun (.movDrReg d r) → exec (.movDrReg d r) s = .refused .reservedDebugRegister) ∧
      (s.mayRun (.movRegDr r d) → exec (.movRegDr r d) s = .refused .reservedDebugRegister)) ∧
    (s.ready (.movTrReg t r) →
      exec (.movTrReg t r) s = completes s
        (((s.mapCpu fun c => { c with test := c.test.set t v }).drawn).withFlags f)) ∧
    (s.ready (.movRegTr r t) →
      exec (.movRegTr r t) s = completes s (((s.withReg .d r (s.cpu.test.get t)).drawn).withFlags f))

/-- ESC: EM or TS set raises exception 7, an active ERROR# exception 16; with its checks passed it sends its opcode and moves
the words of the memory operand the coprocessor asks for; a register form moves none, but for FNSTSW AX. While BUSY# is active
an ESC that heeds it stalls, its checks behind it, and goes on in a later step without making them again (R522, R524, R525,
R612). The requests of the coprocessor and the stall as a next state are the choice of log 22, as is the port of the status
word; which right the operand of an ESC is checked for, a read where no word is requested, is the choice of log 46. -/
def Obligations.EscCompletes : Prop :=
  ∀ (ttt lll : BitVec 3) (r : Reg) (m : Mem) (s : State),
    let reqs := s.env.coRequests
    let free := fun rm : RM => escExempt ttt lll rm
    let reaches := s.memCan m 0 2 (if storesFirst reqs then .write else .read)
    let passes := fun rm : RM => s.cpu.escWaiting || (!s.cpu.cr0.em && !s.cpu.cr0.ts && (free rm || !s.env.error))
    (∀ rm, s.cpu.escWaiting = false → s.mayRun (.esc ttt lll rm) →
      ((s.cpu.cr0.em || s.cpu.cr0.ts) = true → exec (.esc ttt lll rm) s = takeException .nm s) ∧
      ((s.cpu.cr0.em || s.cpu.cr0.ts) = false → free rm = false → s.env.error = true →
        exec (.esc ttt lll rm) s = takeException .mf s)) ∧
    (passes (.reg r) = true →
      ((free (.reg r) || !s.env.busy) = true → ¬ (ttt = 7 ∧ lll = 4 ∧ r = .eax) → s.ready (.esc ttt lll (.reg r)) →
        exec (.esc ttt lll (.reg r)) s = completes s (s.coSent ttt lll (.reg r))) ∧
      (free (.reg r) = false → s.env.busy = true → s.mayRun (.esc ttt lll (.reg r)) →
        exec (.esc ttt lll (.reg r)) s = .next (State.settle s .stalled s))) ∧
    (passes (.mem m) = true → (s.cpu.escWaiting || reaches) = true →
      ((free (.mem m) || !s.env.busy) = true → (s.coSent ttt lll (.mem m)).canCoMoveAll m 0 reqs →
        s.ready (.esc ttt lll (.mem m)) →
        exec (.esc ttt lll (.mem m)) s = completes s ((s.coSent ttt lll (.mem m)).coMovedAll m 0 reqs)) ∧
      (free (.mem m) = false → s.env.busy = true → s.mayRun (.esc ttt lll (.mem m)) →
        exec (.esc ttt lll (.mem m)) s = .next (State.settle s .stalled s))) ∧
    (passes (.reg .eax) = true → ttt = 7 → lll = 4 → s.ready (.esc ttt lll (.reg .eax)) →
      (∀ v rest, reqs = .toMemory v :: rest →
        exec (.esc ttt lll (.reg .eax)) s = completes s
          (((s.coSent ttt lll (.reg .eax)).traced (.coRead 0x8000FC v)).withReg .w .eax v)) ∧
      (storesFirst reqs = false →
        exec (.esc ttt lll (.reg .eax)) s = completes s (s.coSent ttt lll (.reg .eax))))

/-! ## Protection control -/

/-- LGDT and LIDT load limit and base, of which a 16-bit operand size keeps 24 bits; SGDT and SIDT store them, the sixth
byte free with a 16-bit operand size (R544, R545, R550, R551, U11). The free byte is that of log 4. -/
def Obligations.TableRegistersMove : Prop :=
  ∀ (m : Mem) (s : State),
    let base := s.loadAt (s.memLinear m 2) .d
    let t : TableReg := ⟨if s.cpu.os32 then base else (base.setWidth 24).setWidth 32, s.loadAt (s.memLinear m 0) .w⟩
    let read := (s.noted (s.memLinear m 0) 2).noted (s.memLinear m 2) 4
    let u := if s.cpu.os32 then s else s.drawn
    let top := fun b : Dword => (if s.cpu.os32 then b else s.freeVal).extractLsb' 24 8 ++ b.setWidth 24
    let stored := fun g : TableReg =>
      (u.storedAt (s.memLinear m 0) .w g.limit).storedAt (s.memLinear m 2) .d (top g.base)
    (s.memCan m 0 2 .read → s.memCan m 2 4 .read →
      (s.ready (.lgdt m) → exec (.lgdt m) s = completes s (read.mapCpu fun c => { c with gdtr := t })) ∧
      (s.ready (.lidt m) → exec (.lidt m) s = completes s (read.mapCpu fun c => { c with idtr := t }))) ∧
    (s.memCan m 0 2 .write → s.memCan m 2 4 .write →
      (s.ready (.sgdt m) → exec (.sgdt m) s = completes s (stored s.cpu.gdtr)) ∧
      (s.ready (.sidt m) → exec (.sidt m) s = completes s (stored s.cpu.idtr)))

/-- LMSW loads the low four bits of CR0 but never clears PE; SMSW, SLDT and STR store (R547, R552 to R554). The reserved
bits of CR0 are those of log 5, the free upper half that of log 4, the wait for a far JMP that of log 15. -/
def Obligations.StatusWordMoves : Prop :=
  ∀ (rm : RM) (s : State),
    let v := s.rmValue .w rm
    (s.ready (.lmsw rm) → s.canRead .w rm →
      exec (.lmsw rm) s = completes s ((s.rmRead .w rm).mapCpu fun c => { c with
        cr0 := { c.cr0 with
          pe := c.cr0.pe || v.getLsbD 0, mp := v.getLsbD 1, em := v.getLsbD 2, ts := v.getLsbD 3 }
        peSwitched := c.peSwitched || (!c.cr0.pe && v.getLsbD 0) })) ∧
    (s.canWrite .w rm →
      (s.ready (.smsw rm) → exec (.smsw rm) s = completes s (s.selectorStored rm (s.cpu.cr0.image.setWidth 16))) ∧
      (s.ready (.sldt rm) → exec (.sldt rm) s = completes s (s.selectorStored rm s.cpu.ldtr.selector)) ∧
      (s.ready (.str rm) → exec (.str rm) s = completes s (s.selectorStored rm s.cpu.tr.selector)))

/-- LLDT of a null selector makes LDTR unusable, of a present LDT descriptor of the GDT loads it; LTR loads TR from a present
available TSS and marks it busy (R546, R549). That the upper word of a 286
TSS descriptor counts where it is not zero is the choice of log 57. -/
def Obligations.TaskAndLdtLoads : Prop :=
  ∀ (rm : RM) (s : State),
    let sel := s.rmValue .w rm
    s.cpu.cr0.pg = false → s.canRead .w rm →
    (isNull sel → s.ready (.lldt rm) →
      exec (.lldt rm) s = completes s ((s.rmRead .w rm).mapCpu fun c => { c with
        ldtr := { c.ldtr with selector := sel, valid := false } })) ∧
    (∀ d la, isNull sel = false → sel.getLsbD 2 = false → descriptorAddr s.cpu sel = some la → d = s.descAt la →
      d.s = false → d.present = true →
      (d.type = 2 → s.ready (.lldt rm) →
        exec (.lldt rm) s = completes s (((s.rmRead .w rm).descLoaded la).mapCpu fun c => { c with
          ldtr := ⟨sel, d.base, d.limit, true⟩ })) ∧
      (d.type = 1 ∨ d.type = 9 → s.ready (.ltr rm) →
        exec (.ltr rm) s = completes s ((((s.rmRead .w rm).descLoaded la).sysStored (la + 5) .b
          (d.hi.extractLsb' 8 8 ||| 2)).mapCpu fun c => { c with tr := ⟨sel, d.base, d.limit, d.type == 9⟩ })))

/-- ARPL raises the RPL of its destination to that of its source and says so in ZF; LAR, LSL, VERR, VERW test the descriptor
a selector names: ZF says whether it passes, LAR and LSL then load its rights or its limit (R541 to R543, R548, R555,
R556). That these four leave the descriptor as it is, unwritten, is the spec's own decision D19. -/
def Obligations.SelectorTestsComplete : Prop :=
  ∀ (rm : RM) (reg : Reg) (s : State),
    let sel := s.rmValue .w rm
    let src := s.reg .w reg
    let passes := fun accepts : Desc → Bool => (s.descOf sel).filter fun d => accepts d && visible s.cpu.cpl d sel
    let zf := fun (t : State) (z : Bool) => t.withFlags { s.cpu.flags with zf := z }
    let seen := (s.rmRead .w rm).descSeen sel
    (s.canWrite .w rm → s.ready (.arpl rm reg) →
      exec (.arpl rm reg) s = completes s
        (if rpl sel < rpl src then zf ((s.rmRead .w rm).rmWritten .w rm (sel.extractLsb' 2 14 ++ rpl src)) true
          else zf (s.rmRead .w rm) false)) ∧
    (s.cpu.cr0.pg = false → s.canRead .w rm →
      (s.ready (.lar reg rm) → exec (.lar reg rm) s = completes s
        (match passes larAccepts with
          | none => zf seen false
          | some d => zf (seen.withReg s.cpu.osz reg ((d.hi &&& 0x00F0FF00).setWidth s.cpu.osz.bits)) true)) ∧
      (s.ready (.lsl reg rm) → exec (.lsl reg rm) s = completes s
        (match passes lslAccepts with
          | none => zf seen false
          | some d => zf (seen.withReg s.cpu.osz reg (d.limit.setWidth s.cpu.osz.bits)) true)) ∧
      (s.ready (.verr rm) → exec (.verr rm) s = completes s (zf seen (passes verrAccepts).isSome)) ∧
      (s.ready (.verw rm) → exec (.verw rm) s = completes s (zf seen (passes verwAccepts).isSome)))

/-! ## Registers and flags -/

/-- The 8-bit and 16-bit names of the general registers: AL, AH, AX and their like read the bits Figure 2.1 says, and a write to
them leaves the other bits of the 32-bit register (R32). The bytes of an operand in memory: byte i of a value, its low byte
first, is at the address i above that of the operand; a store writes these bytes and no others, and a load of what was stored
gives it back (R104). -/
def Obligations.RegisterAndMemoryBytes : Prop :=
  (∀ (g : Gpr) (r : Reg),
    g.read .w r = (g.get r).extractLsb' 0 16 ∧ g.read .d r = g.get r) ∧
  (∀ g : Gpr,
    g.read .b .eax = g.eax.extractLsb' 0 8 ∧ g.read .b .ecx = g.ecx.extractLsb' 0 8 ∧
    g.read .b .edx = g.edx.extractLsb' 0 8 ∧ g.read .b .ebx = g.ebx.extractLsb' 0 8 ∧
    g.read .b .esp = g.eax.extractLsb' 8 8 ∧ g.read .b .ebp = g.ecx.extractLsb' 8 8 ∧
    g.read .b .esi = g.edx.extractLsb' 8 8 ∧ g.read .b .edi = g.ebx.extractLsb' 8 8) ∧
  (∀ (g : Gpr) (r : Reg) (v : Word), (g.write .w r v).read .w r = v ∧
    ((g.write .w r v).get r).extractLsb' 16 16 = (g.get r).extractLsb' 16 16 ∧
    ∀ x, x ≠ r → (g.write .w r v).get x = g.get x) ∧
  (∀ (g : Gpr) (r : Reg) (v : Byte), (g.write .b r v).read .b r = v ∧
    (∀ i, i < 32 → ¬ ((if byteHigh r then 8 else 0) ≤ i ∧ i < (if byteHigh r then 16 else 8)) →
      ((g.write .b r v).get (byteHome r)).getLsbD i = (g.get (byteHome r)).getLsbD i) ∧
    ∀ x, x ≠ byteHome r → (g.write .b r v).get x = g.get x) ∧
  (∀ (s : State) (la : Dword) (sz : Sz) (v : BitVec sz.bits),
    let place := fun i : Nat => ((la + BitVec.ofNat 32 i).setWidth 24 : PAddr)
    let t := s.storedAt la sz v
    (∀ i, i < sz.bytes → (s.loadAt la sz).extractLsb' (8 * i) 8 = s.mem.read (place i)) ∧
    (s.mem.wf = true → t.loadAt la sz = v ∧
      (∀ i, i < sz.bytes → t.mem.read (place i) = v.extractLsb' (8 * i) 8) ∧
      (∀ a, (∀ i, i < sz.bytes → a ≠ place i) → t.mem.read a = s.mem.read a)))

/-- SetSZP sets ZF, SF and PF from a result and no other flag (R51). Addition and subtraction in integers: the result is the exact
one modulo 2^n; CF says that the unsigned result does not fit, OF that the signed one does not, AF that the low digit carried
or borrowed; after CMP the conditions compare signed and unsigned (R37 to R45, R330, R337, R449). R51 is marked as derived from R37, R38, R40 and R41.
Logic clears CF and OF, sets SZP and leaves AF free; a multiplication puts one condition into CF and OF; each flag an instruction
leaves undefined is the bit of a free value that has the flag's place in EFLAGS, and no other flag changes (R36, R50, R343, R390).
The free values are the choice of log 4. -/
def Obligations.FlagMeaning : Prop :=
  ∀ (sz : Sz) (f : EFlags) (a b : BitVec sz.bits) (c : Bool) (j : Dword),
    let sum := addResult a b c
    let dif := subResult a b c
    let g := f.sub a b false
    (f.setSzp a).zf = decide (a = 0) ∧ (f.setSzp a).sf = a.getLsbD (sz.bits - 1) ∧
    (f.setSzp a).pf = decide (((List.range 8).countP fun i => a.getLsbD i) % 2 = 0) ∧
    f.setSzp a = { f with zf := (f.setSzp a).zf, sf := (f.setSzp a).sf, pf := (f.setSzp a).pf } ∧
    (f.add a b c).pf = (f.setSzp sum).pf ∧ (f.sub a b c).pf = (f.setSzp dif).pf ∧
    sum.toNat = (a.toNat + b.toNat + c.toNat) % 2 ^ sz.bits ∧
    (f.add a b c).cf = decide (sum.toNat ≠ a.toNat + b.toNat + c.toNat) ∧
    (f.add a b c).ovf = decide (sum.toInt ≠ a.toInt + b.toInt + c.toNat) ∧
    (f.add a b c).af = decide (16 ≤ a.toNat % 16 + b.toNat % 16 + c.toNat) ∧
    (f.add a b c).zf = decide (sum = 0) ∧ (f.add a b c).sf = decide (sum.toInt < 0) ∧
    (dif.toNat : Int) = ((a.toNat : Int) - b.toNat - c.toNat) % 2 ^ sz.bits ∧
    (f.sub a b c).cf = decide ((dif.toNat : Int) ≠ (a.toNat : Int) - b.toNat - c.toNat) ∧
    (f.sub a b c).ovf = decide (dif.toInt ≠ a.toInt - b.toInt - c.toNat) ∧
    (f.sub a b c).af = decide (a.toNat % 16 < b.toNat % 16 + c.toNat) ∧
    (f.sub a b c).zf = decide (dif = 0) ∧ (f.sub a b c).sf = decide (dif.toInt < 0) ∧
    g.holds .e = decide (a = b) ∧ g.holds .ne = decide (a ≠ b) ∧
    g.holds .b = decide (a.toNat < b.toNat) ∧ g.holds .nb = decide (b.toNat ≤ a.toNat) ∧
    g.holds .be = decide (a.toNat ≤ b.toNat) ∧ g.holds .nbe = decide (b.toNat < a.toNat) ∧
    g.holds .l = decide (a.toInt < b.toInt) ∧ g.holds .nl = decide (b.toInt ≤ a.toInt) ∧
    g.holds .le = decide (a.toInt ≤ b.toInt) ∧ g.holds .nle = decide (b.toInt < a.toInt) ∧
    f.logic a j = { f with
      cf := false, ovf := false, sf := decide (a.toInt < 0), zf := decide (a = 0), pf := (f.setSzp a).pf, af := j.getLsbD 4 } ∧
    f.setMul c = { f with cf := c, ovf := c } ∧
    f.freeSzap j = { f with sf := j.getLsbD 7, zf := j.getLsbD 6, af := j.getLsbD 4, pf := j.getLsbD 2 } ∧
    f.freeAll j = { f with
      ovf := j.getLsbD 11, sf := j.getLsbD 7, zf := j.getLsbD 6, af := j.getLsbD 4, pf := j.getLsbD 2, cf := j.getLsbD 0 }

/-! ## What instructions leave alone -/

/-- The frame of 111 instructions: when one completes, every byte of memory outside the bytes it stores to, every general register
but those its rule names, every segment, control, debug and system register, the TLB and the pins are as before; every
status flag outside its footprint and every control flag too, and RF is clear (R48, R50, R260). -/
def Obligations.Frames : Prop :=
  ∀ (i : Instr) (s t : State) (p : Footprint), s.mem.wf = true → footprint i s = some p → p.allowed = true → s.ready i = true → exec i s = .next t →
    s.sameBut t p.stores p.regs ∧ s.cpu.flags.controlSame t.cpu.flags ∧ p.status.respects s.cpu.flags t.cpu.flags

/-! ## Exceptions -/

/-- The nine instructions for Protected Mode alone raise exception 6 in Real Mode and in Virtual 8086 Mode, whatever their operands
(R242). -/
def Obligations.ProtectedModeOnly : Prop :=
  ∀ (rm : RM) (r : Reg) (s : State), s.cpu.real = true ∨ s.cpu.v86 = true →
    ∀ i ∈ [Instr.arpl rm r, .lar r rm, .lldt rm, .lsl r rm, .ltr rm, .sldt rm, .str rm, .verr rm, .verw rm],
      exec i s = takeException (.plain 6) s

/-- A LOCK prefix before a form outside Table 3.2 raises exception 6; a privileged instruction with CPL other than 0 raises exception
13 with error code 0; MOV to and from DR4 and DR5 is refused by name at every CPL (R142, R243, R245; the spec's decisions
D6 and D16). -/
def Obligations.DecodeChecksRaise : Prop :=
  ∀ (i : Instr) (rm : RM) (m : Mem) (r : Reg) (cr : CReg) (d : DReg) (t : TReg) (s : State),
    (isPrefix i = false → s.cpu.cur.pfx.lock = true → lockable i = false → exec i s = takeException .ud s) ∧
    (i ∈ [Instr.hlt, .clts, .lgdt m, .lidt m, .lmsw rm, .movCrReg cr r, .movRegCr r cr, .movTrReg t r, .movRegTr r t] →
      s.cpu.cur.pfx.lock = false → s.cpu.cpl ≠ 0 → exec i s = takeException (.gp 0) s) ∧
    (i ∈ [Instr.lldt rm, .ltr rm] → s.cpu.prot = true → s.cpu.cur.pfx.lock = false → s.cpu.cpl ≠ 0 →
      exec i s = takeException (.gp 0) s) ∧
    (i ∈ [Instr.movDrReg d r, .movRegDr r d] → d ≠ .dr4 → d ≠ .dr5 → s.cpu.cur.pfx.lock = false → s.cpu.cpl ≠ 0 →
      exec i s = takeException (.gp 0) s) ∧
    (i ∈ [Instr.movDrReg d r, .movRegDr r d] → d = .dr4 ∨ d = .dr5 → s.cpu.cur.pfx.lock = false →
      exec i s = .refused .reservedDebugRegister)

/-- Taking an exception in Real Mode: FLAGS, CS and IP are pushed, IF, TF and NT cleared, CS:IP loaded from the vector table
at 4 times the vector; CR2 and DR6 take what the exception says; exception 1 clears DR7.GD (R603, R620 to R622, R671, R674),
before its delivery where it sets DR6.BD (R516). That NT is cleared in Real Mode too is the reading of log 48 (R47). The image
of RF and the return offset of a nested delivery are the choices of logs 17 and 29. -/
def Obligations.RealModeEntry : Prop :=
  ∀ (e : Exc) (s : State), (s.withExc e).canEnterReal e.vector s.cpu.eip →
    takeException e s = .next (settleDelivery (((s.withExc e).realEntered e.vector s.cpu.eip).withoutGd e.vector))

/-- Taking an exception in Protected Mode with paging off, through an 80386SX interrupt or trap gate to a code segment of the
same level: EFLAGS, CS, EIP and the error code are pushed, with RF = 1 in the image but for exception 9 (R673); CS:EIP comes
from the gate; TF, NT, VM and RF are cleared, IF through an interrupt gate alone (R603, R620, R632 to R635); exception 1
clears DR7.GD (R674), before its delivery where it sets DR6.BD (R516). That a trap gate leaves IF is the spec's own decision
D20; the image of RF for exception 9 is the choice of log 29, the free upper half of a pushed selector and error code that of
log 4. -/
def Obligations.ProtectedModeEntry : Prop :=
  ∀ (e : Exc) (s : State) (cla : Dword), (s.withExc e).canEnterGate e.vector (e.vector != 9) s.cpu.eip e.code cla →
    takeException e s = .next (settleDelivery
      (((s.withExc e).gateEntered e.vector (e.vector != 9) s.cpu.eip e.code cla).withoutGd e.vector))

/-! ## Paging -/

/-- The translation of a linear address with an empty TLB: through the directory and the table, which are read on the bus, to the
page frame; it sets the Accessed bits and, for a write, the Dirty bit, and nothing else in memory; an entry that is not
present, or that forbids the access to a user, raises exception 14 with the address and the reason and changes nothing
(R132, R133, R135). That a walk that ends in exception 14 writes nothing is the spec's own decision D11; that the TLB may hold
what it has read, or not, is the choice of log 10. -/
def Obligations.PageTranslation : Prop :=
  ∀ (la : Dword) (acc : Access) (user : Bool) (s : State), s.mem.wf = true → s.cpu.cr0.pg = true → s.tlb = [] →
    let pdeA := pdeAddr s.cpu.cr3 la
    let pde := s.mem.entry pdeA
    let pteA := pteAddr pde la
    let pte := s.mem.entry pteA
    let present := pde.getLsbD 0 && pte.getLsbD 0
    let allowed := !user || (pde.getLsbD 2 && pte.getLsbD 2 && (!acc.writes || (pde.getLsbD 1 && pte.getLsbD 1)))
    let entryRead := fun a : PAddr => BusEvent.memRead false (s.mem.cellsAt [a, a + 1, a + 2, a + 3])
    (present = true → allowed = true → ∃ t : State,
      translate la 1 acc user s = .ok [(pte.extractLsb' 12 20 ++ la.extractLsb' 0 12).setWidth 24] t ∧
      t.cpu = s.cpu ∧ { t.env with trace := [] } = { s.env with trace := [] } ∧
      (∀ a, a ≠ pdeA → a ≠ pteA → t.mem.read a = s.mem.read a) ∧
      (acc = .verify ∨ acc = .peek → t = (s.traced (entryRead pdeA)).traced (entryRead pteA)) ∧
      (acc = .read ∨ acc = .write → (t.mem.read pdeA).getLsbD 5 = true ∧ (t.mem.read pteA).getLsbD 5 = true) ∧
      (acc = .write → (t.mem.read pteA).getLsbD 6 = true) ∧
      (∀ a, t.mem.read a &&& 0x9F = s.mem.read a &&& 0x9F) ∧
      (acc = .read → ∀ a, (t.mem.read a).getLsbD 6 = (s.mem.read a).getLsbD 6)) ∧
    (present = false ∨ allowed = false → ∃ (e : Exc) (code : Word) (t : State),
      translate la 1 acc user s = .error (.exc e) t ∧ e.vector = 14 ∧ e.cr2 = some la ∧ e.code = some code ∧
      code.getLsbD 0 = present ∧ code.getLsbD 1 = acc.writes ∧ code.getLsbD 2 = user ∧
      t.cpu = s.cpu ∧ t.mem = s.mem ∧ t.tlb = s.tlb ∧ { t.env with trace := [] } = { s.env with trace := [] })

/-! ## The machine -/

/-- After RESET the processor is in Real Mode with paging off, CPL 0, IF, TF, DF, VM, IOPL and NT zero, and fetches at linear
address FFFFFFF0H, physical FFFFF0H (R91). -/
def Obligations.ResetState : Prop :=
  let c := State.reset.cpu
  c.cr0.pe = false ∧ c.cr0.pg = false ∧ c.cpl = 0 ∧ c.flags.intf = false ∧ c.flags.tf = false ∧ c.flags.df = false ∧
    c.flags.vm = false ∧ c.flags.iopl = 0 ∧ c.flags.nt = false ∧ c.segs.cs.base = 0xFFFF0000 ∧ c.eip = 0xFFF0 ∧
    c.segs.cs.base + c.eip = 0xFFFFFFF0 ∧ (c.segs.cs.base + c.eip).setWidth 24 = (0xFFFFF0 : PAddr) ∧
    (State.reset.fetchPlace 0 = 0xFFFFF0)

/-- A step runs the decoded instruction: when the bytes at CS:EIP decode to an instruction other than a prefix, the step is its
meaning at the state with its bytes read on the bus, in words of two bytes (R7, R8), and its length in the decode register; when
they decode to a prefix byte, its meaning marks the decode register and the same step goes on after it (R202, R203, R615; log
8). When the words are read is the choice of log 11. -/
def Obligations.StepRunsDecoded : Prop :=
  ∀ (s : State) (i : Instr) (n : Nat),
    let fetched := ((sampleNmi s).codeFetched n).mapCpu fun c =>
      { c with trap := DebugCauses.none, cur := { c.cur with len := n } }
    let before := (sampleNmi s).mapCpu fun c => { c with trap := DebugCauses.none }
    s.quiet = true → s.atRest = true → s.cpu.cr0.pg = false → s.prefetch = [] → s.pgSwitch = none →
    (s.cpu.prot = true → s.cpu.segs.cs.valid = true) →
    n ≤ maxLength → s.cpu.eip.toNat + n ≤ s.cpu.segs.cs.limit.toNat + 1 → i.wf s.cpu.ctx = true →
    decode s.cpu.ctx (s.codeBytes n) = .ok i n →
    (isPrefix i = false → step s = exec i fetched) ∧
    (isPrefix i = true → ∃ t, exec i fetched = .next t ∧ step s = runFrom exec before maxLength t)

/-- Decoding an encoded instruction gives it back, with every operand at every value its encoding admits, whatever bytes
follow (R200 to R222). -/
def Obligations.DecodeEncode : Prop :=
  ∀ (c : Ctx) (i : Instr) (rest : List Byte), i.wf c = true → decode c (encode i ++ rest) = .ok i (encode i).length

/-- The words of a few instructions, written out from their encodings, decode to them (R208 to R216). -/
def Obligations.WordsDecode : Prop :=
  let c16 : Ctx := ⟨false, false⟩
  let c32 : Ctx := ⟨true, true⟩
  decode c16 [0b00000000, 0b11011000] = .ok (.addRmReg false false (.reg .eax) .ebx) 2 ∧
  decode c16 [0b10001011, 0b01000110, 0b11111110] = .ok (.movRegRm true .eax (.mem (.base16 .bp (.d8 0xFE)))) 3 ∧
  decode c32 [0b10001011, 0b01000100, 0b10111000, 0b00010000] =
    .ok (.movRegRm true .eax (.mem (.sib .x4 (some .edi) .eax (.d8 0x10)))) 4 ∧
  decode c32 [0b10111000, 0x78, 0x56, 0x34, 0x12] = .ok (.movRegImm true .eax (.i32 0x12345678)) 5 ∧
  decode c16 [0b11101010, 0x00, 0x10, 0x00, 0xF0] = .ok (.jmpFar (.i16 0x1000) 0xF000) 5 ∧
  decode c16 [0b00001111, 0b10000100, 0x34, 0x12] = .ok (.jccNear .e (.i16 0x1234)) 4 ∧
  decode c16 [0b00001111, 0b00100010, 0b11000000] = .ok (.movCrReg .cr0 .eax) 3 ∧
  decode c16 [0b00001111, 0b10111010, 0b11100001, 0x05] = .ok (.btImm (.reg .ecx) 5) 4 ∧
  decode c16 [0b11000001, 0b11100010, 0x04] = .ok (.shlImm true (.reg .edx) 4) 3

/-- The state after RESET meets the invariant of the next two statements. It rests on the values of log 2. -/
def Obligations.ResetMeetsInvariant : Prop := State.reset.Inv

/-- Every step keeps memory in its canonical form, the TLB within its 32 entries, the prefetch queue within its 16 bytes, and the
low twelve bits of CR3 zero (R7, R61, R71, R101, R134). -/
def Obligations.StepKeepsStorage : Prop :=
  ∀ s t : State, s.wf = true → step s = .next t → t.wf = true

/-- Every step keeps the modes legal: paging and Virtual 8086 Mode need Protected Mode, Virtual 8086 Mode runs at CPL 3, Real
Mode at CPL 0; and no step leaves an instruction half decoded (R49, R56, R58, R514; log 8). -/
def Obligations.StepKeepsModes : Prop :=
  ∀ s t : State, s.cpu.legalMode = true → s.atRest = true → step s = .next t →
    t.cpu.legalMode = true ∧ t.atRest = true
end

