-- ==== Sys2Proof/Laws/Decode.lean ====
section
/-! SUPPORT. The decoder: it looks at no byte after the instruction, and it reads back the fields the encoder writes. -/

namespace Sys2Proof

set_option linter.all false

/-! ## More bytes change nothing -/

/-- The answer with more bytes after those that are left. -/
def Parse.append (p : Parse) (more : List Byte) : Parse :=
  match p with
  | .ok i rest => .ok i (rest ++ more)
  | .more => .more
  | .undefinedOpcode => .undefinedOpcode
  | .refused r => .refused r

/-- An answer other than `more` stands whatever bytes follow, and leaves no more bytes than it was given. -/
def IsLocal (p : List Byte → Parse) : Prop :=
  ∀ bs, (∀ i rest, p bs = .ok i rest → rest.length ≤ bs.length) ∧
    (p bs ≠ .more → ∀ more, p (bs ++ more) = (p bs).append more)

@[simp] theorem isLocal_ok (i : Instr) : IsLocal (fun bs => .ok i bs) := fun bs =>
  ⟨fun i' rest h => by cases h; exact Nat.le_refl _, fun _ _ => rfl⟩

@[simp] theorem isLocal_undefined : IsLocal (fun _ => .undefinedOpcode) := fun _ =>
  ⟨fun _ _ h => (nomatch h), fun _ _ => rfl⟩

@[simp] theorem isLocal_refused (r : DecodeRefusal) : IsLocal (fun _ => .refused r) := fun _ =>
  ⟨fun _ _ h => (nomatch h), fun _ _ => rfl⟩

theorem isLocal_take8 {k : Byte → List Byte → Parse} (h : ∀ b, IsLocal (k b)) : IsLocal (fun bs => take8 bs k) := fun bs => by
  cases bs with
  | nil => exact ⟨fun _ _ h => (nomatch h), fun h => (h rfl).elim⟩
  | cons b rest => exact ⟨fun i r hr => Nat.le_succ_of_le ((h b rest).1 i r hr), (h b rest).2⟩

theorem isLocal_take16 {k : Word → List Byte → Parse} (h : ∀ v, IsLocal (k v)) : IsLocal (fun bs => take16 bs k) := fun bs => by
  match bs with
  | [] => exact ⟨fun _ _ h => (nomatch h), fun h => (h rfl).elim⟩
  | [_] => exact ⟨fun _ _ h => (nomatch h), fun h => (h rfl).elim⟩
  | a :: b :: rest =>
    exact ⟨fun i r hr => by have := (h (b ++ a) rest).1 i r hr; simp only [List.length_cons]; omega, (h (b ++ a) rest).2⟩

theorem isLocal_take32 {k : Dword → List Byte → Parse} (h : ∀ v, IsLocal (k v)) : IsLocal (fun bs => take32 bs k) := fun bs => by
  match bs with
  | [] => exact ⟨fun _ _ h => (nomatch h), fun h => (h rfl).elim⟩
  | [_] => exact ⟨fun _ _ h => (nomatch h), fun h => (h rfl).elim⟩
  | [_, _] => exact ⟨fun _ _ h => (nomatch h), fun h => (h rfl).elim⟩
  | [_, _, _] => exact ⟨fun _ _ h => (nomatch h), fun h => (h rfl).elim⟩
  | a :: b :: c :: d :: rest =>
    exact ⟨fun i r hr => by
      have := (h (d ++ c ++ b ++ a) rest).1 i r hr; simp only [List.length_cons]; omega, (h (d ++ c ++ b ++ a) rest).2⟩

theorem isLocal_ite {p : Prop} [Decidable p] {f g : List Byte → Parse} (hf : IsLocal f) (hg : IsLocal g) :
    IsLocal (fun bs => if p then f bs else g bs) := by
  split <;> assumption

theorem isLocal_takeFull (wide : Bool) {k : Imm → List Byte → Parse} (h : ∀ v, IsLocal (k v)) :
    IsLocal (fun bs => takeFull wide bs k) := by
  unfold takeFull
  exact isLocal_ite (isLocal_take32 fun v => h (.i32 v)) (isLocal_take16 fun v => h (.i16 v))

theorem isLocal_takeImm (c : Ctx) (w : Bool) {k : Imm → List Byte → Parse} (h : ∀ v, IsLocal (k v)) :
    IsLocal (fun bs => takeImm c w bs k) := by
  unfold takeImm
  exact isLocal_ite (isLocal_takeFull _ h) (isLocal_take8 fun v => h (.i8 v))

theorem isLocal_takeMem16 (md : BitVec 2) (rm : BitVec 3) {k : Mem → List Byte → Parse} (h : ∀ m, IsLocal (k m)) :
    IsLocal (fun bs => takeMem16 md rm bs k) := by
  unfold takeMem16
  split
  · exact isLocal_ite (isLocal_take16 fun _ => h _) (h _)
  · exact isLocal_take8 fun _ => h _
  · exact isLocal_take16 fun _ => h _

theorem isLocal_takeSib (md : BitVec 2) (sb : Byte) {k : Mem → List Byte → Parse} (h : ∀ m, IsLocal (k m)) :
    IsLocal (fun bs => takeSib md sb bs k) := by
  unfold takeSib
  dsimp only
  split
  · exact isLocal_ite (isLocal_take32 fun _ => h _) (h _)
  · exact isLocal_take8 fun _ => h _
  · exact isLocal_take32 fun _ => h _

theorem isLocal_takeMem32 (md : BitVec 2) (rm : BitVec 3) {k : Mem → List Byte → Parse} (h : ∀ m, IsLocal (k m)) :
    IsLocal (fun bs => takeMem32 md rm bs k) := by
  unfold takeMem32
  refine isLocal_ite (isLocal_take8 fun sb => isLocal_takeSib md sb h) ?_
  split
  · exact isLocal_ite (isLocal_take32 fun _ => h _) (h _)
  · exact isLocal_take8 fun _ => h _
  · exact isLocal_take32 fun _ => h _

theorem isLocal_takeModRM (c : Ctx) {k : BitVec 3 → RM → List Byte → Parse} (h : ∀ r rm, IsLocal (k r rm)) :
    IsLocal (fun bs => takeModRM c bs k) := by
  unfold takeModRM
  refine isLocal_take8 fun b => ?_
  exact isLocal_ite (h _ _) (isLocal_ite (isLocal_takeMem32 _ _ fun _ => h _ _) (isLocal_takeMem16 _ _ fun _ => h _ _))

theorem isLocal_takeSpecial {k : BitVec 3 → Reg → List Byte → Parse} (h : ∀ e r, IsLocal (k e r)) :
    IsLocal (fun bs => takeSpecial bs k) := by
  unfold takeSpecial
  exact isLocal_take8 fun b => isLocal_ite (h _ _) (isLocal_refused _)


@[simp] theorem isLocal_takeRegRM (c : Ctx) (k : Reg → RM → Instr) : IsLocal (fun bs => takeRegRM c bs k) := by
  unfold takeRegRM
  repeat' first
    | (simp; done)
    | exact isLocal_ok _
    | (refine isLocal_takeModRM _ fun _ _ => ?_)
    | (refine isLocal_takeSpecial fun _ _ => ?_)
    | (refine isLocal_takeImm _ _ fun _ => ?_)
    | (refine isLocal_takeFull _ fun _ => ?_)
    | (refine isLocal_take16 fun _ => ?_)
    | (refine isLocal_take8 fun _ => ?_)
    | (refine isLocal_ite ?_ ?_)
    | (dsimp only)
    | split

@[simp] theorem isLocal_takeRegMem (c : Ctx) (k : Reg → Mem → Instr) : IsLocal (fun bs => takeRegMem c bs k) := by
  unfold takeRegMem
  repeat' first
    | (simp; done)
    | exact isLocal_ok _
    | (refine isLocal_takeModRM _ fun _ _ => ?_)
    | (refine isLocal_takeSpecial fun _ _ => ?_)
    | (refine isLocal_takeImm _ _ fun _ => ?_)
    | (refine isLocal_takeFull _ fun _ => ?_)
    | (refine isLocal_take16 fun _ => ?_)
    | (refine isLocal_take8 fun _ => ?_)
    | (refine isLocal_ite ?_ ?_)
    | (dsimp only)
    | split

@[simp] theorem isLocal_memOnly (rm : RM) (k : Mem → Instr) : IsLocal (fun bs => memOnly rm bs k) := by
  unfold memOnly
  repeat' first
    | (simp; done)
    | exact isLocal_ok _
    | (refine isLocal_takeModRM _ fun _ _ => ?_)
    | (refine isLocal_takeSpecial fun _ _ => ?_)
    | (refine isLocal_takeImm _ _ fun _ => ?_)
    | (refine isLocal_takeFull _ fun _ => ?_)
    | (refine isLocal_take16 fun _ => ?_)
    | (refine isLocal_take8 fun _ => ?_)
    | (refine isLocal_ite ?_ ?_)
    | (dsimp only)
    | split

@[simp] theorem isLocal_group1 (c : Ctx) (s w : Bool) : IsLocal (fun bs => group1 c s w bs) := by
  unfold group1
  repeat' first
    | (simp; done)
    | exact isLocal_ok _
    | (refine isLocal_takeModRM _ fun _ _ => ?_)
    | (refine isLocal_takeSpecial fun _ _ => ?_)
    | (refine isLocal_takeImm _ _ fun _ => ?_)
    | (refine isLocal_takeFull _ fun _ => ?_)
    | (refine isLocal_take16 fun _ => ?_)
    | (refine isLocal_take8 fun _ => ?_)
    | (refine isLocal_ite ?_ ?_)
    | (dsimp only)
    | split

@[simp] theorem isLocal_group2One (c : Ctx) (w : Bool) : IsLocal (fun bs => group2One c w bs) := by
  unfold group2One
  repeat' first
    | (simp; done)
    | exact isLocal_ok _
    | (refine isLocal_takeModRM _ fun _ _ => ?_)
    | (refine isLocal_takeSpecial fun _ _ => ?_)
    | (refine isLocal_takeImm _ _ fun _ => ?_)
    | (refine isLocal_takeFull _ fun _ => ?_)
    | (refine isLocal_take16 fun _ => ?_)
    | (refine isLocal_take8 fun _ => ?_)
    | (refine isLocal_ite ?_ ?_)
    | (dsimp only)
    | split

@[simp] theorem isLocal_group2Cl (c : Ctx) (w : Bool) : IsLocal (fun bs => group2Cl c w bs) := by
  unfold group2Cl
  repeat' first
    | (simp; done)
    | exact isLocal_ok _
    | (refine isLocal_takeModRM _ fun _ _ => ?_)
    | (refine isLocal_takeSpecial fun _ _ => ?_)
    | (refine isLocal_takeImm _ _ fun _ => ?_)
    | (refine isLocal_takeFull _ fun _ => ?_)
    | (refine isLocal_take16 fun _ => ?_)
    | (refine isLocal_take8 fun _ => ?_)
    | (refine isLocal_ite ?_ ?_)
    | (dsimp only)
    | split

@[simp] theorem isLocal_group2Imm (c : Ctx) (w : Bool) : IsLocal (fun bs => group2Imm c w bs) := by
  unfold group2Imm
  repeat' first
    | (simp; done)
    | exact isLocal_ok _
    | (refine isLocal_takeModRM _ fun _ _ => ?_)
    | (refine isLocal_takeSpecial fun _ _ => ?_)
    | (refine isLocal_takeImm _ _ fun _ => ?_)
    | (refine isLocal_takeFull _ fun _ => ?_)
    | (refine isLocal_take16 fun _ => ?_)
    | (refine isLocal_take8 fun _ => ?_)
    | (refine isLocal_ite ?_ ?_)
    | (dsimp only)
    | split

@[simp] theorem isLocal_group3 (c : Ctx) (w : Bool) : IsLocal (fun bs => group3 c w bs) := by
  unfold group3
  repeat' first
    | (simp; done)
    | exact isLocal_ok _
    | (refine isLocal_takeModRM _ fun _ _ => ?_)
    | (refine isLocal_takeSpecial fun _ _ => ?_)
    | (refine isLocal_takeImm _ _ fun _ => ?_)
    | (refine isLocal_takeFull _ fun _ => ?_)
    | (refine isLocal_take16 fun _ => ?_)
    | (refine isLocal_take8 fun _ => ?_)
    | (refine isLocal_ite ?_ ?_)
    | (dsimp only)
    | split

@[simp] theorem isLocal_group4 (c : Ctx) : IsLocal (fun bs => group4 c bs) := by
  unfold group4
  repeat' first
    | (simp; done)
    | exact isLocal_ok _
    | (refine isLocal_takeModRM _ fun _ _ => ?_)
    | (refine isLocal_takeSpecial fun _ _ => ?_)
    | (refine isLocal_takeImm _ _ fun _ => ?_)
    | (refine isLocal_takeFull _ fun _ => ?_)
    | (refine isLocal_take16 fun _ => ?_)
    | (refine isLocal_take8 fun _ => ?_)
    | (refine isLocal_ite ?_ ?_)
    | (dsimp only)
    | split

@[simp] theorem isLocal_group5 (c : Ctx) : IsLocal (fun bs => group5 c bs) := by
  unfold group5
  repeat' first
    | (simp; done)
    | exact isLocal_ok _
    | (refine isLocal_takeModRM _ fun _ _ => ?_)
    | (refine isLocal_takeSpecial fun _ _ => ?_)
    | (refine isLocal_takeImm _ _ fun _ => ?_)
    | (refine isLocal_takeFull _ fun _ => ?_)
    | (refine isLocal_take16 fun _ => ?_)
    | (refine isLocal_take8 fun _ => ?_)
    | (refine isLocal_ite ?_ ?_)
    | (dsimp only)
    | split

@[simp] theorem isLocal_group6 (c : Ctx) : IsLocal (fun bs => group6 c bs) := by
  unfold group6
  repeat' first
    | (simp; done)
    | exact isLocal_ok _
    | (refine isLocal_takeModRM _ fun _ _ => ?_)
    | (refine isLocal_takeSpecial fun _ _ => ?_)
    | (refine isLocal_takeImm _ _ fun _ => ?_)
    | (refine isLocal_takeFull _ fun _ => ?_)
    | (refine isLocal_take16 fun _ => ?_)
    | (refine isLocal_take8 fun _ => ?_)
    | (refine isLocal_ite ?_ ?_)
    | (dsimp only)
    | split

@[simp] theorem isLocal_group7 (c : Ctx) : IsLocal (fun bs => group7 c bs) := by
  unfold group7
  repeat' first
    | (simp; done)
    | exact isLocal_ok _
    | (refine isLocal_takeModRM _ fun _ _ => ?_)
    | (refine isLocal_takeSpecial fun _ _ => ?_)
    | (refine isLocal_takeImm _ _ fun _ => ?_)
    | (refine isLocal_takeFull _ fun _ => ?_)
    | (refine isLocal_take16 fun _ => ?_)
    | (refine isLocal_take8 fun _ => ?_)
    | (refine isLocal_ite ?_ ?_)
    | (dsimp only)
    | split

@[simp] theorem isLocal_group8 (c : Ctx) : IsLocal (fun bs => group8 c bs) := by
  unfold group8
  repeat' first
    | (simp; done)
    | exact isLocal_ok _
    | (refine isLocal_takeModRM _ fun _ _ => ?_)
    | (refine isLocal_takeSpecial fun _ _ => ?_)
    | (refine isLocal_takeImm _ _ fun _ => ?_)
    | (refine isLocal_takeFull _ fun _ => ?_)
    | (refine isLocal_take16 fun _ => ?_)
    | (refine isLocal_take8 fun _ => ?_)
    | (refine isLocal_ite ?_ ?_)
    | (dsimp only)
    | split

@[simp] theorem isLocal_twoByte00 (c : Ctx) (lo : Nat) : IsLocal (fun bs => twoByte00 c lo bs) := by
  unfold twoByte00
  repeat' first
    | (simp; done)
    | exact isLocal_ok _
    | (refine isLocal_takeModRM _ fun _ _ => ?_)
    | (refine isLocal_takeSpecial fun _ _ => ?_)
    | (refine isLocal_takeImm _ _ fun _ => ?_)
    | (refine isLocal_takeFull _ fun _ => ?_)
    | (refine isLocal_take16 fun _ => ?_)
    | (refine isLocal_take8 fun _ => ?_)
    | (refine isLocal_ite ?_ ?_)
    | (dsimp only)
    | split

@[simp] theorem isLocal_twoByte20 (lo : Nat) : IsLocal (fun bs => twoByte20 lo bs) := by
  unfold twoByte20
  repeat' first
    | (simp; done)
    | exact isLocal_ok _
    | (refine isLocal_takeModRM _ fun _ _ => ?_)
    | (refine isLocal_takeSpecial fun _ _ => ?_)
    | (refine isLocal_takeImm _ _ fun _ => ?_)
    | (refine isLocal_takeFull _ fun _ => ?_)
    | (refine isLocal_take16 fun _ => ?_)
    | (refine isLocal_take8 fun _ => ?_)
    | (refine isLocal_ite ?_ ?_)
    | (dsimp only)
    | split

@[simp] theorem isLocal_twoByteA0 (c : Ctx) (lo : Nat) : IsLocal (fun bs => twoByteA0 c lo bs) := by
  unfold twoByteA0
  repeat' first
    | (simp; done)
    | exact isLocal_ok _
    | (refine isLocal_takeModRM _ fun _ _ => ?_)
    | (refine isLocal_takeSpecial fun _ _ => ?_)
    | (refine isLocal_takeImm _ _ fun _ => ?_)
    | (refine isLocal_takeFull _ fun _ => ?_)
    | (refine isLocal_take16 fun _ => ?_)
    | (refine isLocal_take8 fun _ => ?_)
    | (refine isLocal_ite ?_ ?_)
    | (dsimp only)
    | split

@[simp] theorem isLocal_twoByteA8 (c : Ctx) (lo : Nat) : IsLocal (fun bs => twoByteA8 c lo bs) := by
  unfold twoByteA8
  repeat' first
    | (simp; done)
    | exact isLocal_ok _
    | (refine isLocal_takeModRM _ fun _ _ => ?_)
    | (refine isLocal_takeSpecial fun _ _ => ?_)
    | (refine isLocal_takeImm _ _ fun _ => ?_)
    | (refine isLocal_takeFull _ fun _ => ?_)
    | (refine isLocal_take16 fun _ => ?_)
    | (refine isLocal_take8 fun _ => ?_)
    | (refine isLocal_ite ?_ ?_)
    | (dsimp only)
    | split

@[simp] theorem isLocal_twoByteB0 (c : Ctx) (lo : Nat) : IsLocal (fun bs => twoByteB0 c lo bs) := by
  unfold twoByteB0
  repeat' first
    | (simp; done)
    | exact isLocal_ok _
    | (refine isLocal_takeModRM _ fun _ _ => ?_)
    | (refine isLocal_takeSpecial fun _ _ => ?_)
    | (refine isLocal_takeImm _ _ fun _ => ?_)
    | (refine isLocal_takeFull _ fun _ => ?_)
    | (refine isLocal_take16 fun _ => ?_)
    | (refine isLocal_take8 fun _ => ?_)
    | (refine isLocal_ite ?_ ?_)
    | (dsimp only)
    | split

@[simp] theorem isLocal_twoByteB8 (c : Ctx) (lo : Nat) : IsLocal (fun bs => twoByteB8 c lo bs) := by
  unfold twoByteB8
  repeat' first
    | (simp; done)
    | exact isLocal_ok _
    | (refine isLocal_takeModRM _ fun _ _ => ?_)
    | (refine isLocal_takeSpecial fun _ _ => ?_)
    | (refine isLocal_takeImm _ _ fun _ => ?_)
    | (refine isLocal_takeFull _ fun _ => ?_)
    | (refine isLocal_take16 fun _ => ?_)
    | (refine isLocal_take8 fun _ => ?_)
    | (refine isLocal_ite ?_ ?_)
    | (dsimp only)
    | split

@[simp] theorem isLocal_decodeTwoByte (c : Ctx) (b : Byte) : IsLocal (fun bs => decodeTwoByte c b bs) := by
  unfold decodeTwoByte
  repeat' first
    | (simp; done)
    | exact isLocal_ok _
    | (refine isLocal_takeModRM _ fun _ _ => ?_)
    | (refine isLocal_takeSpecial fun _ _ => ?_)
    | (refine isLocal_takeImm _ _ fun _ => ?_)
    | (refine isLocal_takeFull _ fun _ => ?_)
    | (refine isLocal_take16 fun _ => ?_)
    | (refine isLocal_take8 fun _ => ?_)
    | (refine isLocal_ite ?_ ?_)
    | (dsimp only)
    | split

@[simp] theorem isLocal_oneByteAluTail (c : Ctx) (hi lo : Nat) : IsLocal (fun bs => oneByteAluTail c hi lo bs) := by
  unfold oneByteAluTail
  repeat' first
    | (simp; done)
    | exact isLocal_ok _
    | (refine isLocal_takeModRM _ fun _ _ => ?_)
    | (refine isLocal_takeSpecial fun _ _ => ?_)
    | (refine isLocal_takeImm _ _ fun _ => ?_)
    | (refine isLocal_takeFull _ fun _ => ?_)
    | (refine isLocal_take16 fun _ => ?_)
    | (refine isLocal_take8 fun _ => ?_)
    | (refine isLocal_ite ?_ ?_)
    | (dsimp only)
    | split

@[simp] theorem isLocal_oneByteAlu (c : Ctx) (ooo : BitVec 3) (lo : Nat) : IsLocal (fun bs => oneByteAlu c ooo lo bs) := by
  unfold oneByteAlu
  repeat' first
    | (simp; done)
    | exact isLocal_ok _
    | (refine isLocal_takeModRM _ fun _ _ => ?_)
    | (refine isLocal_takeSpecial fun _ _ => ?_)
    | (refine isLocal_takeImm _ _ fun _ => ?_)
    | (refine isLocal_takeFull _ fun _ => ?_)
    | (refine isLocal_take16 fun _ => ?_)
    | (refine isLocal_take8 fun _ => ?_)
    | (refine isLocal_ite ?_ ?_)
    | (dsimp only)
    | split

@[simp] theorem isLocal_oneByte60 (c : Ctx) (lo : Nat) : IsLocal (fun bs => oneByte60 c lo bs) := by
  unfold oneByte60
  repeat' first
    | (simp; done)
    | exact isLocal_ok _
    | (refine isLocal_takeModRM _ fun _ _ => ?_)
    | (refine isLocal_takeSpecial fun _ _ => ?_)
    | (refine isLocal_takeImm _ _ fun _ => ?_)
    | (refine isLocal_takeFull _ fun _ => ?_)
    | (refine isLocal_take16 fun _ => ?_)
    | (refine isLocal_take8 fun _ => ?_)
    | (refine isLocal_ite ?_ ?_)
    | (dsimp only)
    | split

@[simp] theorem isLocal_oneByte68 (c : Ctx) (lo : Nat) : IsLocal (fun bs => oneByte68 c lo bs) := by
  unfold oneByte68
  repeat' first
    | (simp; done)
    | exact isLocal_ok _
    | (refine isLocal_takeModRM _ fun _ _ => ?_)
    | (refine isLocal_takeSpecial fun _ _ => ?_)
    | (refine isLocal_takeImm _ _ fun _ => ?_)
    | (refine isLocal_takeFull _ fun _ => ?_)
    | (refine isLocal_take16 fun _ => ?_)
    | (refine isLocal_take8 fun _ => ?_)
    | (refine isLocal_ite ?_ ?_)
    | (dsimp only)
    | split

@[simp] theorem isLocal_oneByte80 (c : Ctx) (lo : Nat) : IsLocal (fun bs => oneByte80 c lo bs) := by
  unfold oneByte80
  repeat' first
    | (simp; done)
    | exact isLocal_ok _
    | (refine isLocal_takeModRM _ fun _ _ => ?_)
    | (refine isLocal_takeSpecial fun _ _ => ?_)
    | (refine isLocal_takeImm _ _ fun _ => ?_)
    | (refine isLocal_takeFull _ fun _ => ?_)
    | (refine isLocal_take16 fun _ => ?_)
    | (refine isLocal_take8 fun _ => ?_)
    | (refine isLocal_ite ?_ ?_)
    | (dsimp only)
    | split

@[simp] theorem isLocal_oneByte88 (c : Ctx) (lo : Nat) : IsLocal (fun bs => oneByte88 c lo bs) := by
  unfold oneByte88
  repeat' first
    | (simp; done)
    | exact isLocal_ok _
    | (refine isLocal_takeModRM _ fun _ _ => ?_)
    | (refine isLocal_takeSpecial fun _ _ => ?_)
    | (refine isLocal_takeImm _ _ fun _ => ?_)
    | (refine isLocal_takeFull _ fun _ => ?_)
    | (refine isLocal_take16 fun _ => ?_)
    | (refine isLocal_take8 fun _ => ?_)
    | (refine isLocal_ite ?_ ?_)
    | (dsimp only)
    | split

@[simp] theorem isLocal_oneByte98 (c : Ctx) (lo : Nat) : IsLocal (fun bs => oneByte98 c lo bs) := by
  unfold oneByte98
  repeat' first
    | (simp; done)
    | exact isLocal_ok _
    | (refine isLocal_takeModRM _ fun _ _ => ?_)
    | (refine isLocal_takeSpecial fun _ _ => ?_)
    | (refine isLocal_takeImm _ _ fun _ => ?_)
    | (refine isLocal_takeFull _ fun _ => ?_)
    | (refine isLocal_take16 fun _ => ?_)
    | (refine isLocal_take8 fun _ => ?_)
    | (refine isLocal_ite ?_ ?_)
    | (dsimp only)
    | split

@[simp] theorem isLocal_oneByteA0 (c : Ctx) (lo : Nat) : IsLocal (fun bs => oneByteA0 c lo bs) := by
  unfold oneByteA0
  repeat' first
    | (simp; done)
    | exact isLocal_ok _
    | (refine isLocal_takeModRM _ fun _ _ => ?_)
    | (refine isLocal_takeSpecial fun _ _ => ?_)
    | (refine isLocal_takeImm _ _ fun _ => ?_)
    | (refine isLocal_takeFull _ fun _ => ?_)
    | (refine isLocal_take16 fun _ => ?_)
    | (refine isLocal_take8 fun _ => ?_)
    | (refine isLocal_ite ?_ ?_)
    | (dsimp only)
    | split

@[simp] theorem isLocal_oneByteA8 (c : Ctx) (lo : Nat) : IsLocal (fun bs => oneByteA8 c lo bs) := by
  unfold oneByteA8
  repeat' first
    | (simp; done)
    | exact isLocal_ok _
    | (refine isLocal_takeModRM _ fun _ _ => ?_)
    | (refine isLocal_takeSpecial fun _ _ => ?_)
    | (refine isLocal_takeImm _ _ fun _ => ?_)
    | (refine isLocal_takeFull _ fun _ => ?_)
    | (refine isLocal_take16 fun _ => ?_)
    | (refine isLocal_take8 fun _ => ?_)
    | (refine isLocal_ite ?_ ?_)
    | (dsimp only)
    | split

@[simp] theorem isLocal_oneByteC0 (c : Ctx) (lo : Nat) : IsLocal (fun bs => oneByteC0 c lo bs) := by
  unfold oneByteC0
  repeat' first
    | (simp; done)
    | exact isLocal_ok _
    | (refine isLocal_takeModRM _ fun _ _ => ?_)
    | (refine isLocal_takeSpecial fun _ _ => ?_)
    | (refine isLocal_takeImm _ _ fun _ => ?_)
    | (refine isLocal_takeFull _ fun _ => ?_)
    | (refine isLocal_take16 fun _ => ?_)
    | (refine isLocal_take8 fun _ => ?_)
    | (refine isLocal_ite ?_ ?_)
    | (dsimp only)
    | split

@[simp] theorem isLocal_oneByteC8 (lo : Nat) : IsLocal (fun bs => oneByteC8 lo bs) := by
  unfold oneByteC8
  repeat' first
    | (simp; done)
    | exact isLocal_ok _
    | (refine isLocal_takeModRM _ fun _ _ => ?_)
    | (refine isLocal_takeSpecial fun _ _ => ?_)
    | (refine isLocal_takeImm _ _ fun _ => ?_)
    | (refine isLocal_takeFull _ fun _ => ?_)
    | (refine isLocal_take16 fun _ => ?_)
    | (refine isLocal_take8 fun _ => ?_)
    | (refine isLocal_ite ?_ ?_)
    | (dsimp only)
    | split

@[simp] theorem isLocal_oneByteD0 (c : Ctx) (lo : Nat) : IsLocal (fun bs => oneByteD0 c lo bs) := by
  unfold oneByteD0
  repeat' first
    | (simp; done)
    | exact isLocal_ok _
    | (refine isLocal_takeModRM _ fun _ _ => ?_)
    | (refine isLocal_takeSpecial fun _ _ => ?_)
    | (refine isLocal_takeImm _ _ fun _ => ?_)
    | (refine isLocal_takeFull _ fun _ => ?_)
    | (refine isLocal_take16 fun _ => ?_)
    | (refine isLocal_take8 fun _ => ?_)
    | (refine isLocal_ite ?_ ?_)
    | (dsimp only)
    | split

@[simp] theorem isLocal_oneByteE0 (lo : Nat) : IsLocal (fun bs => oneByteE0 lo bs) := by
  unfold oneByteE0
  repeat' first
    | (simp; done)
    | exact isLocal_ok _
    | (refine isLocal_takeModRM _ fun _ _ => ?_)
    | (refine isLocal_takeSpecial fun _ _ => ?_)
    | (refine isLocal_takeImm _ _ fun _ => ?_)
    | (refine isLocal_takeFull _ fun _ => ?_)
    | (refine isLocal_take16 fun _ => ?_)
    | (refine isLocal_take8 fun _ => ?_)
    | (refine isLocal_ite ?_ ?_)
    | (dsimp only)
    | split

@[simp] theorem isLocal_oneByteE8 (c : Ctx) (lo : Nat) : IsLocal (fun bs => oneByteE8 c lo bs) := by
  unfold oneByteE8
  repeat' first
    | (simp; done)
    | exact isLocal_ok _
    | (refine isLocal_takeModRM _ fun _ _ => ?_)
    | (refine isLocal_takeSpecial fun _ _ => ?_)
    | (refine isLocal_takeImm _ _ fun _ => ?_)
    | (refine isLocal_takeFull _ fun _ => ?_)
    | (refine isLocal_take16 fun _ => ?_)
    | (refine isLocal_take8 fun _ => ?_)
    | (refine isLocal_ite ?_ ?_)
    | (dsimp only)
    | split

@[simp] theorem isLocal_oneByteF0 (c : Ctx) (lo : Nat) : IsLocal (fun bs => oneByteF0 c lo bs) := by
  unfold oneByteF0
  repeat' first
    | (simp; done)
    | exact isLocal_ok _
    | (refine isLocal_takeModRM _ fun _ _ => ?_)
    | (refine isLocal_takeSpecial fun _ _ => ?_)
    | (refine isLocal_takeImm _ _ fun _ => ?_)
    | (refine isLocal_takeFull _ fun _ => ?_)
    | (refine isLocal_take16 fun _ => ?_)
    | (refine isLocal_take8 fun _ => ?_)
    | (refine isLocal_ite ?_ ?_)
    | (dsimp only)
    | split

@[simp] theorem isLocal_oneByteF8 (c : Ctx) (lo : Nat) : IsLocal (fun bs => oneByteF8 c lo bs) := by
  unfold oneByteF8
  repeat' first
    | (simp; done)
    | exact isLocal_ok _
    | (refine isLocal_takeModRM _ fun _ _ => ?_)
    | (refine isLocal_takeSpecial fun _ _ => ?_)
    | (refine isLocal_takeImm _ _ fun _ => ?_)
    | (refine isLocal_takeFull _ fun _ => ?_)
    | (refine isLocal_take16 fun _ => ?_)
    | (refine isLocal_take8 fun _ => ?_)
    | (refine isLocal_ite ?_ ?_)
    | (dsimp only)
    | split

@[simp] theorem isLocal_decodeOneByte (c : Ctx) (b : Byte) : IsLocal (fun bs => decodeOneByte c b bs) := by
  unfold decodeOneByte
  repeat' first
    | (simp; done)
    | exact isLocal_ok _
    | (refine isLocal_takeModRM _ fun _ _ => ?_)
    | (refine isLocal_takeSpecial fun _ _ => ?_)
    | (refine isLocal_takeImm _ _ fun _ => ?_)
    | (refine isLocal_takeFull _ fun _ => ?_)
    | (refine isLocal_take16 fun _ => ?_)
    | (refine isLocal_take8 fun _ => ?_)
    | (refine isLocal_ite ?_ ?_)
    | (dsimp only)
    | split

/-- The decoder's answer other than `more` stands whatever bytes follow. -/
theorem decode_append {c : Ctx} {bs : List Byte} (h : decode c bs ≠ .more) (more : List Byte) :
    decode c (bs ++ more) = decode c bs := by
  have hl : IsLocal (fun bs => take8 bs (decodeOneByte c)) := isLocal_take8 fun b => isLocal_decodeOneByte c b
  unfold decode at h ⊢
  have h2 : take8 bs (decodeOneByte c) ≠ .more → ∀ more, take8 (bs ++ more) (decodeOneByte c) =
      (take8 bs (decodeOneByte c)).append more := (hl bs).2
  cases hp : take8 bs (decodeOneByte c) with
  | more => rw [hp] at h; exact (h rfl).elim
  | ok i rest => rw [h2 (by rw [hp]; exact fun hh => nomatch hh), hp]; simp [Parse.append]; omega
  | undefinedOpcode => rw [h2 (by rw [hp]; exact fun hh => nomatch hh), hp]; rfl
  | refused r => rw [h2 (by rw [hp]; exact fun hh => nomatch hh), hp]; rfl

/-- The length the decoder answers is at most the number of bytes it was given. -/
theorem decode_length_le {c : Ctx} {bs : List Byte} {i : Instr} {n : Nat} (h : decode c bs = .ok i n) : n ≤ bs.length := by
  unfold decode at h
  split at h <;> cases h
  exact Nat.sub_le _ _

/-! ## Fields are read back -/

@[simp] theorem Reg.ofNum_num (r : Reg) : Reg.ofNum r.num = r := by cases r <;> rfl
@[simp] theorem SReg.ofNum?_num (r : SReg) : SReg.ofNum? r.num = some r := by cases r <;> rfl
@[simp] theorem CReg.ofNum?_num (r : CReg) : CReg.ofNum? r.num = some r := by cases r <;> rfl
@[simp] theorem DReg.ofNum_num (r : DReg) : DReg.ofNum r.num = r := by cases r <;> rfl
@[simp] theorem TReg.ofNum?_num (r : TReg) : TReg.ofNum? r.num = some r := by cases r <;> rfl
@[simp] theorem Cond.ofNum_num (c : Cond) : Cond.ofNum c.num = c := by cases c <;> rfl
@[simp] theorem Base16.ofNum_num (b : Base16) : Base16.ofNum b.num = b := by cases b <;> rfl
@[simp] theorem Scale.ofNum_num (s : Scale) : Scale.ofNum s.num = s := by cases s <;> rfl

@[simp] theorem take8_cons (b : Byte) (rest : List Byte) (k : Byte → List Byte → Parse) : take8 (b :: rest) k = k b rest := rfl

/-- A word is read back. -/
@[simp] theorem take16_bytes16 (v : Word) (rest : List Byte) (k : Word → List Byte → Parse) :
    take16 (bytes16 v ++ rest) k = k v rest := by
  show k (v.extractLsb' 8 8 ++ v.extractLsb' 0 8) rest = k v rest
  rw [BitVec.extractLsb'_append_extractLsb'_eq_extractLsb' (by omega)]
  simp

/-- A dword is read back. -/
@[simp] theorem take32_bytes32 (v : Dword) (rest : List Byte) (k : Dword → List Byte → Parse) :
    take32 (bytes32 v ++ rest) k = k v rest := by
  show k (v.extractLsb' 24 8 ++ v.extractLsb' 16 8 ++ v.extractLsb' 8 8 ++ v.extractLsb' 0 8) rest = k v rest
  rw [BitVec.extractLsb'_append_extractLsb'_eq_extractLsb' (by omega),
    BitVec.extractLsb'_append_extractLsb'_eq_extractLsb' (by omega),
    BitVec.extractLsb'_append_extractLsb'_eq_extractLsb' (by omega)]
  simp

/-- A datum of the full size is read back. -/
theorem takeFull_bytes {wide : Bool} {v : Imm} (h : v.isFull wide = true) (rest : List Byte) (k : Imm → List Byte → Parse) :
    takeFull wide (v.bytes ++ rest) k = k v rest := by
  cases v <;> cases wide <;> simp_all [Imm.isFull, takeFull, Imm.bytes]

/-- An immediate is read back. -/
theorem takeImm_bytes {c : Ctx} {w : Bool} {v : Imm} (h : v.fits c w = true) (rest : List Byte) (k : Imm → List Byte → Parse) :
    takeImm c w (v.bytes ++ rest) k = k v rest := by
  cases w
  · cases v <;> simp_all [Imm.fits, Imm.isByte, takeImm, Imm.bytes]
  · simp only [Imm.fits, if_true] at h
    simp only [takeImm, if_true]
    exact takeFull_bytes h rest k

/-- The three fields of a byte. -/
theorem modRMByte_fields (md : BitVec 2) (reg rm : BitVec 3) :
    (modRMByte md reg rm).extractLsb' 6 2 = md ∧ (modRMByte md reg rm).extractLsb' 3 3 = reg ∧
      (modRMByte md reg rm).extractLsb' 0 3 = rm := by
  revert md reg rm; decide

theorem sibByte_fields (scale : Scale) (index : Option Reg) (base : BitVec 3) (h : index ≠ some .esp) :
    Scale.ofNum ((sibByte scale index base).extractLsb' 6 2) = scale ∧
      indexOfNum ((sibByte scale index base).extractLsb' 3 3) = index ∧ (sibByte scale index base).extractLsb' 0 3 = base := by
  obtain ⟨h1, h2, h3⟩ := modRMByte_fields scale.num (indexNum index) base
  refine ⟨?_, ?_, h3⟩
  · exact (congrArg _ h1).trans (Scale.ofNum_num scale)
  · refine (congrArg _ h2).trans ?_
    cases index with
    | none => rfl
    | some r => cases r <;> first | rfl | exact (h rfl).elim

/-- The operand a mod r/m byte names. -/
theorem takeModRM_cons (c : Ctx) (md : BitVec 2) (reg rm : BitVec 3) (rest : List Byte) (k : BitVec 3 → RM → List Byte → Parse) :
    takeModRM c (modRMByte md reg rm :: rest) k =
      if md = 3 then k reg (.reg (Reg.ofNum rm)) rest
      else if c.as32 then takeMem32 md rm rest (fun m => k reg (.mem m))
      else takeMem16 md rm rest (fun m => k reg (.mem m)) := by
  obtain ⟨h1, h2, h3⟩ := modRMByte_fields md reg rm
  unfold takeModRM
  rw [take8_cons]
  dsimp only
  rw [h1, h2, h3]

/-- The operand an s-i-b byte names. -/
theorem takeSib_cons (md : BitVec 2) (s : Scale) (x : Option Reg) (base : BitVec 3) (h : x ≠ some .esp) (bs : List Byte)
    (k : Mem → List Byte → Parse) : takeSib md (sibByte s x base) bs k =
      match md.toNat with
      | 0 => if base = 5 then take32 bs (fun d => k (.sibNoBase s x d)) else k (.sib s x (Reg.ofNum base) .none) bs
      | 1 => take8 bs (fun d => k (.sib s x (Reg.ofNum base) (.d8 d)))
      | _ => take32 bs (fun d => k (.sib s x (Reg.ofNum base) (.d32 d))) := by
  obtain ⟨g1, g2, g3⟩ := sibByte_fields s x base h
  unfold takeSib
  rw [g1, g2, g3]
  all_goals rfl

/-- The mod r/m byte of an r/m operand with its s-i-b byte and displacement is read back. -/
theorem takeModRM_bytes {c : Ctx} {rm : RM} (h : rm.wf c = true) (reg : BitVec 3) (rest : List Byte)
    (k : BitVec 3 → RM → List Byte → Parse) : takeModRM c (rm.bytes reg ++ rest) k = k reg rm rest := by
  cases rm with
  | reg r => simp [RM.bytes, takeModRM_cons]
  | mem m =>
    cases m with
    | direct16 d =>
      simp [RM.wf, Mem.wf] at h
      simp [RM.bytes, Mem.bytes, takeModRM_cons, h, takeMem16]
    | base16 b d =>
      simp [RM.wf, Mem.wf] at h
      cases d <;> simp [RM.bytes, Mem.bytes, takeModRM_cons, h, takeMem16]
      intro hb
      cases b <;> simp_all [Base16.num]
    | direct32 d =>
      simp [RM.wf, Mem.wf] at h
      simp [RM.bytes, Mem.bytes, takeModRM_cons, h, takeMem32]
    | base32 b d =>
      simp [RM.wf, Mem.wf] at h
      have h4 : b.num ≠ 4#3 := by cases b <;> first | decide | exact (h.1.2 rfl).elim
      cases d <;> simp [RM.bytes, Mem.bytes, takeModRM_cons, h, takeMem32, h4]
      intro hb
      cases b <;> simp_all [Reg.num]
    | sib s x b d =>
      simp [RM.wf, Mem.wf] at h
      have hx : x ≠ some .esp := h.1.2
      cases d <;> simp [RM.bytes, Mem.bytes, takeModRM_cons, h, takeMem32, takeSib_cons _ _ _ _ hx]
      intro hb
      cases b <;> simp_all [Reg.num]
    | sibNoBase s x d =>
      simp [RM.wf, Mem.wf] at h
      have hx : x ≠ some .esp := h.2
      simp [RM.bytes, Mem.bytes, takeModRM_cons, h, takeMem32, takeSib_cons _ _ _ _ hx]

end Sys2Proof
end

