-- ==== Sys2Proof/Laws/Memory.lean ====
section
/-! SUPPORT. Physical memory: a read after a write, and the canonical form, which every memory operation keeps. -/

namespace Sys2Proof.Machine

/-! ## Lists of cells -/

theorem cellsWf_mono {low low' : Nat} {cs : List Host.Cell} (h : cellsWf low cs = true) (hl : low' ≤ low) :
    cellsWf low' cs = true := by
  cases cs with
  | nil => rfl
  | cons c rest =>
    simp only [cellsWf, Bool.and_eq_true, decide_eq_true_eq] at h ⊢
    exact ⟨⟨⟨by omega, h.1.1.2⟩, h.1.2⟩, h.2⟩

/-- Writing a byte keeps the canonical form. -/
theorem cellsWf_cellsWrite {cs : List Host.Cell} {low x : Nat} {v : Byte} (h : cellsWf low cs = true) (hl : low ≤ x)
    (hx : x < 0x1000000) : cellsWf low (cellsWrite cs x v) = true := by
  induction cs generalizing low with
  | nil => by_cases hv : v = unlistedByte <;> simp [cellsWrite, cellsWf, hv, hl, hx]
  | cons c rest ih =>
    obtain ⟨a, b⟩ := c
    have h0 := h
    simp only [cellsWf, Bool.and_eq_true, decide_eq_true_eq] at h
    obtain ⟨⟨⟨h1, h2⟩, h3⟩, h4⟩ := h
    simp only [cellsWrite]
    split
    · split
      · exact h0
      · rename_i hv
        simp only [cellsWf, Bool.and_eq_true, decide_eq_true_eq, bne_iff_ne, ne_eq]
        exact ⟨⟨⟨hl, hx⟩, hv⟩, ⟨⟨by omega, h2⟩, by simpa using h3⟩, h4⟩
    · split
      · split
        · exact cellsWf_mono h4 (by omega)
        · rename_i he hv
          simp only [cellsWf, Bool.and_eq_true, decide_eq_true_eq, bne_iff_ne, ne_eq]
          exact ⟨⟨⟨hl, hx⟩, hv⟩, cellsWf_mono h4 (by omega)⟩
      · simp only [cellsWf, Bool.and_eq_true, decide_eq_true_eq]
        exact ⟨⟨⟨h1, h2⟩, h3⟩, ih h4 (by omega)⟩

/-- Below its first address a list of cells gives the value of an unlisted byte. -/
theorem cellsRead_below {cs : List Host.Cell} {low x : Nat} (h : cellsWf low cs = true) (hx : x < low) :
    cellsRead cs x = unlistedByte := by
  cases cs with
  | nil => rfl
  | cons c rest =>
    simp only [cellsWf, Bool.and_eq_true, decide_eq_true_eq] at h
    rw [cellsRead, if_pos (by omega)]

/-- Reading after writing one byte. -/
theorem cellsRead_cellsWrite {cs : List Host.Cell} {low x y : Nat} {v : Byte} (h : cellsWf low cs = true) :
    cellsRead (cellsWrite cs x v) y = if y = x then v else cellsRead cs y := by
  induction cs generalizing low with
  | nil =>
    by_cases hv : v = unlistedByte
    · simp [cellsWrite, cellsRead, hv]
    · simp only [cellsWrite, hv, if_false, cellsRead]
      by_cases h1 : y = x
      · simp [h1]
      · simp [h1, Ne.symm h1]
  | cons c rest ih =>
    obtain ⟨a, b⟩ := c
    simp only [cellsWf, Bool.and_eq_true, decide_eq_true_eq] at h
    obtain ⟨⟨⟨-, -⟩, -⟩, h4⟩ := h
    have hb : ∀ z, z < a + 1 → cellsRead rest z = unlistedByte := fun z hz => cellsRead_below h4 hz
    have ih := ih h4
    simp only [cellsWrite]
    repeat' split
    all_goals (try subst_vars) <;> (try simp only [cellsRead, ih]) <;> repeat' split
    all_goals first | rfl | omega | (rw [hb] <;> omega) | (symm; apply hb; omega) | (exfalso; simp_all)

/-! ## Memory -/

/-- A byte after a write. -/
theorem Memory.read_write {m : Memory} (h : m.wf = true) (a b : PAddr) (v : Byte) :
    (m.write a v).read b = if b = a then v else m.read b := by
  rw [Memory.read, Memory.write, cellsRead_cellsWrite h, Memory.read]
  simp [BitVec.toNat_inj]

theorem Memory.read_write_same {m : Memory} (h : m.wf = true) (a : PAddr) (v : Byte) : (m.write a v).read a = v := by
  simp [m.read_write h]

theorem Memory.read_write_ne {m : Memory} (h : m.wf = true) {a b : PAddr} (v : Byte) (hn : b ≠ a) :
    (m.write a v).read b = m.read b := by
  simp [m.read_write h, hn]

/-- A write keeps the canonical form. -/
theorem Memory.wf_write {m : Memory} (h : m.wf = true) (a : PAddr) (v : Byte) : (m.write a v).wf = true :=
  cellsWf_cellsWrite h (Nat.zero_le _) a.isLt

/-- Writes keep the canonical form. -/
theorem Memory.wf_writeAll {m : Memory} (h : m.wf = true) (as : List PAddr) (bs : List Byte) :
    (m.writeAll as bs).wf = true := by
  induction as generalizing m bs with
  | nil => exact h
  | cons a as ih =>
    cases bs with
    | nil => exact h
    | cons b bs => exact ih (Memory.wf_write h a b) bs

/-- The writes of bus events keep the canonical form (R702). -/
theorem Memory.wf_replay {m : Memory} (h : m.wf = true) (es : List BusEvent) : (m.replay es).wf = true := by
  induction es generalizing m with
  | nil => exact h
  | cons e es ih => cases e <;> first | exact ih h | exact ih (Memory.wf_writeAll h _ _)

/-- Writes leave the other bytes alone. -/
theorem Memory.read_writeAll_of_notMem {m : Memory} (h : m.wf = true) (as : List PAddr) (bs : List Byte) {x : PAddr}
    (hx : x ∉ as) : (m.writeAll as bs).read x = m.read x := by
  induction as generalizing m bs with
  | nil => rfl
  | cons a as ih =>
    cases bs with
    | nil => rfl
    | cons b bs =>
      simp only [List.mem_cons, not_or] at hx
      rw [Memory.writeAll, ih (Memory.wf_write h a b) bs hx.2, Memory.read_write_ne h b hx.1]

/-- Memory after reset has the canonical form. -/
theorem reset_mem_wf : State.reset.mem.wf = true := rfl

/-! ## Stores of the machine -/

/-- A store leaves the bytes it does not name alone. -/
theorem State.storeAll_read_of_notMem {s : State} (h : s.mem.wf = true) (as : List PAddr) (bs : List Byte) {x : PAddr}
    (hx : x ∉ as) : (s.storeAll as bs).mem.read x = s.mem.read x := by
  rw [State.storeAll_mem, Memory.read_writeAll_of_notMem h as bs hx]

/-- A store at a linear address leaves the other bytes alone. -/
theorem State.storedAt_read_of_notMem {s : State} (h : s.mem.wf = true) (la : Dword) (sz : Sz) (v : BitVec sz.bits) {x : PAddr}
    (hx : x ∉ physBytes la sz.bytes) : (s.storedAt la sz v).mem.read x = s.mem.read x := by
  rw [State.storedAt_mem, Memory.read_writeAll_of_notMem h _ _ hx]

/-- A store at a linear address keeps the canonical form. -/
theorem State.storedAt_mem_wf {s : State} (h : s.mem.wf = true) (la : Dword) (sz : Sz) (v : BitVec sz.bits) :
    (s.storedAt la sz v).mem.wf = true := by
  rw [State.storedAt_mem]
  exact Memory.wf_writeAll h _ _

/-- Placing code keeps the canonical form. -/
theorem State.placeCode_mem_wf {s : State} (h : s.mem.wf = true) (k : Nat) (bs : List Byte) :
    (s.placeCode k bs).mem.wf = true := by
  induction bs generalizing s k with
  | nil => exact h
  | cons b bs ih => exact ih (s := { s with mem := s.mem.write (s.fetchPlace k) b }) (Memory.wf_write h _ b) (k + 1)

/-- The bytes of a value give it back (R104). -/
theorem ofBytes_toBytes (sz : Sz) (v : BitVec sz.bits) : ofBytes sz (toBytes sz v) = v := by
  cases sz
  · rfl
  · show (BitVec.extractLsb' 8 8 (v : BitVec 16) ++ BitVec.extractLsb' 0 8 (v : BitVec 16) : BitVec 16) = v
    rw [BitVec.extractLsb'_append_extractLsb'_eq_extractLsb' (by omega)]
    simp
  · show (BitVec.extractLsb' 24 8 (v : BitVec 32) ++ BitVec.extractLsb' 16 8 (v : BitVec 32) ++
      BitVec.extractLsb' 8 8 (v : BitVec 32) ++ BitVec.extractLsb' 0 8 (v : BitVec 32) : BitVec 32) = v
    rw [BitVec.extractLsb'_append_extractLsb'_eq_extractLsb' (by omega),
      BitVec.extractLsb'_append_extractLsb'_eq_extractLsb' (by omega),
      BitVec.extractLsb'_append_extractLsb'_eq_extractLsb' (by omega)]
    simp

end Sys2Proof.Machine
end

