-- ==== Sys2Proof/Laws/Steady.lean ====
section
/-! SUPPORT. What the shared operations leave alone whatever their outcome: CR0, CR3, VM, CPL, and the canonical form of memory
and the bound of the TLB. An invariant over these needs no more about an operation than its lemma here. -/

namespace Sys2Proof.Machine

set_option linter.all false

/-- CR0, CR3, VM and CPL are the same; memory stays canonical, the TLB and the prefetch queue bounded. -/
structure State.Steady (s t : State) : Prop where
  cr0 : t.cpu.cr0 = s.cpu.cr0
  cr3 : t.cpu.cr3 = s.cpu.cr3
  vm : t.cpu.flags.vm = s.cpu.flags.vm
  cpl : t.cpu.cpl = s.cpu.cpl
  mem : s.mem.wf = true → t.mem.wf = true
  tlb : s.tlb.length ≤ Config.tlbSize → t.tlb.length ≤ Config.tlbSize
  queue : s.queue.length * Config.fetchBytes ≤ Config.queueBytes → t.queue.length * Config.fetchBytes ≤ Config.queueBytes

theorem State.Steady.refl (s : State) : s.Steady s := ⟨rfl, rfl, rfl, rfl, id, id, id⟩

theorem State.Steady.trans {s t u : State} (h : s.Steady t) (h' : t.Steady u) : s.Steady u :=
  ⟨h'.cr0.trans h.cr0, h'.cr3.trans h.cr3, h'.vm.trans h.vm, h'.cpl.trans h.cpl, h'.mem ∘ h.mem, h'.tlb ∘ h.tlb,
    h'.queue ∘ h.queue⟩

theorem State.Steady.wf {s t : State} (h : s.Steady t) (hs : s.wf = true) : t.wf = true := by
  simp only [State.wf, Bool.and_eq_true, decide_eq_true_eq] at hs ⊢
  exact ⟨⟨⟨h.mem hs.1.1.1, h.tlb hs.1.1.2⟩, h.queue hs.1.2⟩, by rw [h.cr3]; exact hs.2⟩

theorem State.Steady.legalMode {s t : State} (h : s.Steady t) : t.cpu.legalMode = s.cpu.legalMode := by
  simp only [Cpu.legalMode, h.cr0, h.vm, h.cpl]

theorem State.Steady.prot {s t : State} (h : s.Steady t) : t.cpu.prot = s.cpu.prot := by
  simp only [Cpu.prot, h.cr0, h.vm]

/-- The state a meaning ends in, whether it answers or stops. -/
def M.after {α : Type} (m : M α) (s : State) : State :=
  match m s with
  | .ok _ t => t
  | .error _ t => t

/-- A meaning that is steady from every state. -/
def IsSteady {α : Type} (m : M α) : Prop := ∀ s : State, s.Steady (M.after m s)

/-- A meaning that keeps a property of the state, whether it answers or stops. -/
def Keeps {α : Type} (P : State → Prop) (m : M α) : Prop := ∀ s, P s → P (M.after m s)

theorem after_of_ok {α : Type} {m : M α} {s t : State} {a : α} (h : m s = .ok a t) : M.after m s = t := by
  rw [M.after, h]

theorem after_of_error {α : Type} {m : M α} {s t : State} {e : Stop} (h : m s = .error e t) : M.after m s = t := by
  rw [M.after, h]

/-! ## Keeping a property -/

theorem keeps_bind {α β : Type} {P : State → Prop} {m : M α} {f : α → M β} (h : Keeps P m) (h' : ∀ a, Keeps P (f a)) :
    Keeps P (m >>= f) := by
  intro s hs
  have h1 := h s hs
  rw [M.after, bind_run]
  rw [M.after] at h1
  cases hm : m s with
  | ok a t => rw [hm] at h1; exact h' a t h1
  | error e t => rw [hm] at h1; exact h1

theorem IsSteady.keeps {α : Type} {P : State → Prop} {m : M α} (h : IsSteady m) (hP : ∀ s t : State, s.Steady t → P s → P t) :
    Keeps P m := fun s hs => hP s _ (h s) hs

theorem IsSteady.keeps_wf {α : Type} {m : M α} (h : IsSteady m) : Keeps (fun s => s.wf = true) m :=
  h.keeps fun _ _ h1 h2 => h1.wf h2

/-! ## The primitives -/

theorem steady_bind {α β : Type} {m : M α} {f : α → M β} (h : IsSteady m) (h' : ∀ a, IsSteady (f a)) : IsSteady (m >>= f) := by
  intro s
  have h1 := h s
  rw [M.after, bind_run]
  rw [M.after] at h1
  cases hm : m s with
  | ok a t => rw [hm] at h1; exact h1.trans (h' a t)
  | error e t => rw [hm] at h1; exact h1

theorem steady_map {α β : Type} {m : M α} {f : α → β} (h : IsSteady m) : IsSteady (f <$> m) := by
  intro s
  have h1 := h s
  rw [M.after, map_run]
  rw [M.after] at h1
  cases hm : m s <;> rw [hm] at h1 <;> exact h1

@[simp] theorem steady_pure {α : Type} (a : α) : IsSteady (pure a) := fun s => .refl s
@[simp] theorem steady_getCpu : IsSteady getCpu := fun s => .refl s
@[simp] theorem steady_getState : IsSteady getState := fun s => .refl s
@[simp] theorem steady_raiseExc {α : Type} (e : Exc) : IsSteady (raiseExc e : M α) := fun s => .refl s
@[simp] theorem steady_raiseCommitted {α : Type} (e : Exc) : IsSteady (raiseCommitted e : M α) := fun s => .refl s
@[simp] theorem steady_refuse {α : Type} (r : Refusal) : IsSteady (refuse r : M α) := fun s => .refl s
@[simp] theorem steady_shutdown {α : Type} : IsSteady (shutdown : M α) := fun s => .refl s
@[simp] theorem steady_draw : IsSteady draw := fun _ => ⟨rfl, rfl, rfl, rfl, id, id, id⟩
@[simp] theorem steady_modifyEnv (f : Env → Env) : IsSteady (modifyEnv f) := fun _ => ⟨rfl, rfl, rfl, rfl, id, id, id⟩
@[simp] theorem steady_emit (e : BusEvent) : IsSteady (emit e) := fun _ => ⟨rfl, rfl, rfl, rfl, id, id, id⟩
@[simp] theorem steady_flushPrefetch : IsSteady flushPrefetch := fun _ => ⟨rfl, rfl, rfl, rfl, id, id, fun _ => Nat.zero_le _⟩
@[simp] theorem steady_require (c : Bool) (e : Exc) : IsSteady (require c e) := by
  unfold require; split <;> simp

/-- A change of the processor that leaves CR0, CR3, VM and CPL alone. -/
theorem steady_modifyCpu {f : Cpu → Cpu} (h : ∀ c, (f c).cr0 = c.cr0 ∧ (f c).cr3 = c.cr3 ∧ (f c).flags.vm = c.flags.vm ∧
    (f c).cpl = c.cpl) : IsSteady (modifyCpu f) :=
  fun s => ⟨(h s.cpu).1, (h s.cpu).2.1, (h s.cpu).2.2.1, (h s.cpu).2.2.2, id, id, id⟩

theorem steady_modifyFlags {f : EFlags → EFlags} (h : ∀ g, (f g).vm = g.vm) : IsSteady (modifyFlags f) :=
  steady_modifyCpu fun c => ⟨rfl, rfl, h c.flags, rfl⟩

@[simp] theorem steady_flushTlb : IsSteady flushTlb := fun _ => ⟨rfl, rfl, rfl, rfl, id, fun _ => by simp [M.after, flushTlb], id⟩

@[simp] theorem steady_writeAll (as : List PAddr) (bs : List Byte) : IsSteady (writeAll as bs) := fun s => by
  refine ⟨?_, ?_, ?_, ?_, fun h => ?_, fun h => ?_, fun h => ?_⟩ <;> simp only [M.after, writeAll, State.traced_cpu,
    State.traced_tlb, State.traced_queue, State.traced_mem, State.storeAll_cpu, State.storeAll_tlb, State.storeAll_queue,
    State.storeAll_mem]
  · exact Memory.wf_writeAll h _ _
  · exact h
  · exact h

@[simp] theorem steady_setEntryBits (a : PAddr) (bits : Byte) : IsSteady (setEntryBits a bits) := fun s => by
  simp only [M.after, setEntryBits]
  split
  · exact .refl s
  · exact ⟨rfl, rfl, rfl, rfl, fun h => Memory.wf_write h _ _, id, id⟩

@[simp] theorem steady_tlbDrop (page : BitVec 20) : IsSteady (tlbDrop page) := fun _ =>
  ⟨rfl, rfl, rfl, rfl, id, fun h => Nat.le_trans (List.length_filter_le _ _) h, id⟩

@[simp] theorem steady_tlbInsert (e : TlbEntry) : IsSteady (tlbInsert e) := fun s => by
  by_cases h : s.tlb.length < Config.tlbSize
  · rw [after_of_ok (a := ()) (t := { s with tlb := e :: s.tlb }) (by simp [tlbInsert, bind_run, h])]
    exact ⟨rfl, rfl, rfl, rfl, id, fun _ => h, id⟩
  · rw [after_of_ok (a := ()) (t := { s.drawn with tlb :=
        e :: (s.tlb.eraseIdx (s.freeVal.toNat % Config.tlbSize)).take (Config.tlbSize - 1) })
        (by simp [tlbInsert, bind_run, h, State.drawn]; rfl)]
    refine ⟨rfl, rfl, rfl, rfl, id, fun _ => ?_, id⟩
    simp only [List.length_cons, List.length_take, Config.tlbSize]
    omega

/-- An attempt ends where the meaning ends. -/
@[simp] theorem after_attempt {α : Type} (m : M α) (s : State) : M.after (attempt m) s = M.after m s := by
  simp only [M.after, attempt]
  cases m s with
  | ok a t => rfl
  | error e t => cases e <;> rfl

/-- So does a committed meaning. -/
@[simp] theorem after_commit {α : Type} (m : M α) (s : State) : M.after (commit m) s = M.after m s := by
  simp only [M.after, commit]
  cases m s with
  | ok a t => rfl
  | error e t => cases e <;> rfl

theorem steady_attempt {α : Type} {m : M α} (h : IsSteady m) : IsSteady (attempt m) := fun s => by
  rw [after_attempt]; exact h s

theorem steady_commit {α : Type} {m : M α} (h : IsSteady m) : IsSteady (commit m) := fun s => by
  rw [after_commit]; exact h s

theorem keeps_commit {α : Type} {P : State → Prop} {m : M α} (h : Keeps P m) : Keeps P (commit m) := fun s hs => by
  rw [after_commit]; exact h s hs

/-! ## Machine/Effect.lean -/

@[simp] theorem steady_drawBit : IsSteady drawBit := by
  unfold drawBit
  repeat' first
    | with_reducible refine steady_bind ?_ fun _ => ?_
    | ((with_reducible refine steady_modifyCpu ?_); exact fun _ => ⟨rfl, rfl, rfl, rfl⟩)
    | ((with_reducible refine steady_modifyFlags ?_); exact fun _ => rfl)
    | (simp; done)
    | (dsimp only)
    | split

@[simp] theorem steady_opSize (w : Bool) :
    IsSteady (opSize w) := by
  unfold opSize
  repeat' first
    | with_reducible refine steady_bind ?_ fun _ => ?_
    | ((with_reducible refine steady_modifyCpu ?_); exact fun _ => ⟨rfl, rfl, rfl, rfl⟩)
    | ((with_reducible refine steady_modifyFlags ?_); exact fun _ => rfl)
    | (simp; done)
    | (dsimp only)
    | split

@[simp] theorem steady_readReg (sz : Sz) (r : Reg) :
    IsSteady (readReg sz r) := by
  unfold readReg
  repeat' first
    | with_reducible refine steady_bind ?_ fun _ => ?_
    | ((with_reducible refine steady_modifyCpu ?_); exact fun _ => ⟨rfl, rfl, rfl, rfl⟩)
    | ((with_reducible refine steady_modifyFlags ?_); exact fun _ => rfl)
    | (simp; done)
    | (dsimp only)
    | split

@[simp] theorem steady_writeReg (sz : Sz) (r : Reg) (v : BitVec sz.bits) :
    IsSteady (writeReg sz r v) := by
  unfold writeReg
  repeat' first
    | with_reducible refine steady_bind ?_ fun _ => ?_
    | ((with_reducible refine steady_modifyCpu ?_); exact fun _ => ⟨rfl, rfl, rfl, rfl⟩)
    | ((with_reducible refine steady_modifyFlags ?_); exact fun _ => rfl)
    | (simp; done)
    | (dsimp only)
    | split

@[simp] theorem steady_writeAh (v : Byte) :
    IsSteady (writeAh v) := by
  unfold writeAh
  repeat' first
    | with_reducible refine steady_bind ?_ fun _ => ?_
    | ((with_reducible refine steady_modifyCpu ?_); exact fun _ => ⟨rfl, rfl, rfl, rfl⟩)
    | ((with_reducible refine steady_modifyFlags ?_); exact fun _ => rfl)
    | (simp; done)
    | (dsimp only)
    | split

@[simp] theorem steady_setSeg (r : SReg) (v : SegReg) :
    IsSteady (setSeg r v) := by
  unfold setSeg
  repeat' first
    | with_reducible refine steady_bind ?_ fun _ => ?_
    | ((with_reducible refine steady_modifyCpu ?_); exact fun _ => ⟨rfl, rfl, rfl, rfl⟩)
    | ((with_reducible refine steady_modifyFlags ?_); exact fun _ => rfl)
    | (simp; done)
    | (dsimp only)
    | split

/-! ## Machine/Memory.lean -/

@[simp] theorem steady_pageFault {α : Type} (la : Dword) (present : Bool) (acc : Access) (user : Bool) :
    IsSteady ((pageFault la present acc user : M α)) := by
  unfold pageFault
  repeat' first
    | with_reducible refine steady_bind ?_ fun _ => ?_
    | ((with_reducible refine steady_modifyCpu ?_); exact fun _ => ⟨rfl, rfl, rfl, rfl⟩)
    | ((with_reducible refine steady_modifyFlags ?_); exact fun _ => rfl)
    | (simp; done)
    | (dsimp only)
    | split

@[simp] theorem steady_readEntry (a : PAddr) : IsSteady (readEntry a) := by
  unfold readEntry
  repeat' first
    | with_reducible refine steady_bind ?_ fun _ => ?_
    | (simp; done)

@[simp] theorem steady_walk (la : Dword) (acc : Access) (user : Bool) :
    IsSteady (walk la acc user) := by
  unfold walk
  repeat' first
    | with_reducible refine steady_bind ?_ fun _ => ?_
    | ((with_reducible refine steady_modifyCpu ?_); exact fun _ => ⟨rfl, rfl, rfl, rfl⟩)
    | ((with_reducible refine steady_modifyFlags ?_); exact fun _ => rfl)
    | (simp; done)
    | (dsimp only)
    | split

@[simp] theorem steady_walkAndCache (la : Dword) (acc : Access) (user : Bool) :
    IsSteady (walkAndCache la acc user) := by
  unfold walkAndCache
  repeat' first
    | with_reducible refine steady_bind ?_ fun _ => ?_
    | ((with_reducible refine steady_modifyCpu ?_); exact fun _ => ⟨rfl, rfl, rfl, rfl⟩)
    | ((with_reducible refine steady_modifyFlags ?_); exact fun _ => rfl)
    | (simp; done)
    | (dsimp only)
    | split

@[simp] theorem steady_tlbLookup (la : Dword) (acc : Access) (user : Bool) :
    IsSteady (tlbLookup la acc user) := by
  unfold tlbLookup
  repeat' first
    | with_reducible refine steady_bind ?_ fun _ => ?_
    | ((with_reducible refine steady_modifyCpu ?_); exact fun _ => ⟨rfl, rfl, rfl, rfl⟩)
    | ((with_reducible refine steady_modifyFlags ?_); exact fun _ => rfl)
    | (simp; done)
    | (dsimp only)
    | split

@[simp] theorem steady_translate (la : Dword) (n : Nat) (acc : Access) (user : Bool) :
    IsSteady (translate la n acc user) := by
  unfold translate
  repeat' first
    | with_reducible refine steady_bind ?_ fun _ => ?_
    | ((with_reducible refine steady_modifyCpu ?_); exact fun _ => ⟨rfl, rfl, rfl, rfl⟩)
    | ((with_reducible refine steady_modifyFlags ?_); exact fun _ => rfl)
    | (simp; done)
    | (dsimp only)
    | split

@[simp] theorem steady_readAll (as : List PAddr) :
    IsSteady (readAll as) := by
  unfold readAll
  repeat' first
    | with_reducible refine steady_bind ?_ fun _ => ?_
    | ((with_reducible refine steady_modifyCpu ?_); exact fun _ => ⟨rfl, rfl, rfl, rfl⟩)
    | ((with_reducible refine steady_modifyFlags ?_); exact fun _ => rfl)
    | (simp; done)
    | (dsimp only)
    | split

@[simp] theorem steady_linRead (la : Dword) (sz : Sz) (user : Bool) :
    IsSteady (linRead la sz user) := by
  unfold linRead
  repeat' first
    | with_reducible refine steady_bind ?_ fun _ => ?_
    | ((with_reducible refine steady_modifyCpu ?_); exact fun _ => ⟨rfl, rfl, rfl, rfl⟩)
    | ((with_reducible refine steady_modifyFlags ?_); exact fun _ => rfl)
    | (simp; done)
    | (dsimp only)
    | split

@[simp] theorem steady_linWrite (la : Dword) (sz : Sz) (v : BitVec sz.bits) (user : Bool) :
    IsSteady (linWrite la sz v user) := by
  unfold linWrite
  repeat' first
    | with_reducible refine steady_bind ?_ fun _ => ?_
    | ((with_reducible refine steady_modifyCpu ?_); exact fun _ => ⟨rfl, rfl, rfl, rfl⟩)
    | ((with_reducible refine steady_modifyFlags ?_); exact fun _ => rfl)
    | (simp; done)
    | (dsimp only)
    | split

@[simp] theorem steady_sysRead (la : Dword) (sz : Sz) :
    IsSteady (sysRead la sz) := by
  unfold sysRead
  repeat' first
    | with_reducible refine steady_bind ?_ fun _ => ?_
    | ((with_reducible refine steady_modifyCpu ?_); exact fun _ => ⟨rfl, rfl, rfl, rfl⟩)
    | ((with_reducible refine steady_modifyFlags ?_); exact fun _ => rfl)
    | (simp; done)
    | with_reducible exact steady_linRead _ _ _
    | (dsimp only)
    | split

@[simp] theorem steady_sysWrite (la : Dword) (sz : Sz) (v : BitVec sz.bits) :
    IsSteady (sysWrite la sz v) := by
  unfold sysWrite
  repeat' first
    | with_reducible refine steady_bind ?_ fun _ => ?_
    | ((with_reducible refine steady_modifyCpu ?_); exact fun _ => ⟨rfl, rfl, rfl, rfl⟩)
    | ((with_reducible refine steady_modifyFlags ?_); exact fun _ => rfl)
    | (simp; done)
    | (dsimp only)
    | split

/-! ## Machine/Segment.lean -/

@[simp] theorem steady_noteData (la : Dword) (n : Nat) (write : Bool) :
    IsSteady (noteData la n write) := by
  unfold noteData
  repeat' first
    | with_reducible refine steady_bind ?_ fun _ => ?_
    | ((with_reducible refine steady_modifyCpu ?_); exact fun _ => ⟨rfl, rfl, rfl, rfl⟩)
    | ((with_reducible refine steady_modifyFlags ?_); exact fun _ => rfl)
    | (simp; done)
    | (dsimp only)
    | split

@[simp] theorem steady_segCheck (r : SReg) (off : Dword) (n : Nat) (acc : Access) :
    IsSteady (segCheck r off n acc) := by
  unfold segCheck
  repeat' first
    | with_reducible refine steady_bind ?_ fun _ => ?_
    | ((with_reducible refine steady_modifyCpu ?_); exact fun _ => ⟨rfl, rfl, rfl, rfl⟩)
    | ((with_reducible refine steady_modifyFlags ?_); exact fun _ => rfl)
    | (simp; done)
    | (dsimp only)
    | split

@[simp] theorem steady_segRead (r : SReg) (off : Dword) (sz : Sz) :
    IsSteady (segRead r off sz) := by
  unfold segRead
  repeat' first
    | with_reducible refine steady_bind ?_ fun _ => ?_
    | ((with_reducible refine steady_modifyCpu ?_); exact fun _ => ⟨rfl, rfl, rfl, rfl⟩)
    | ((with_reducible refine steady_modifyFlags ?_); exact fun _ => rfl)
    | (simp; done)
    | with_reducible exact steady_linRead _ _ _
    | (dsimp only)
    | split

@[simp] theorem steady_segWrite (r : SReg) (off : Dword) (sz : Sz) (v : BitVec sz.bits) :
    IsSteady (segWrite r off sz v) := by
  unfold segWrite
  repeat' first
    | with_reducible refine steady_bind ?_ fun _ => ?_
    | ((with_reducible refine steady_modifyCpu ?_); exact fun _ => ⟨rfl, rfl, rfl, rfl⟩)
    | ((with_reducible refine steady_modifyFlags ?_); exact fun _ => rfl)
    | (simp; done)
    | (dsimp only)
    | split

@[simp] theorem steady_segVerify (r : SReg) (off : Dword) (n : Nat) :
    IsSteady (segVerify r off n) := by
  unfold segVerify
  repeat' first
    | with_reducible refine steady_bind ?_ fun _ => ?_
    | ((with_reducible refine steady_modifyCpu ?_); exact fun _ => ⟨rfl, rfl, rfl, rfl⟩)
    | ((with_reducible refine steady_modifyFlags ?_); exact fun _ => rfl)
    | (simp; done)
    | (dsimp only)
    | split

@[simp] theorem steady_readDescriptorAt (la : Dword) :
    IsSteady (readDescriptorAt la) := by
  unfold readDescriptorAt
  repeat' first
    | with_reducible refine steady_bind ?_ fun _ => ?_
    | ((with_reducible refine steady_modifyCpu ?_); exact fun _ => ⟨rfl, rfl, rfl, rfl⟩)
    | ((with_reducible refine steady_modifyFlags ?_); exact fun _ => rfl)
    | (simp; done)
    | with_reducible exact steady_sysRead _ _
    | (dsimp only)
    | split

@[simp] theorem steady_readDescriptor (sel : Word) (bad : Exc) :
    IsSteady (readDescriptor sel bad) := by
  unfold readDescriptor
  repeat' first
    | with_reducible refine steady_bind ?_ fun _ => ?_
    | ((with_reducible refine steady_modifyCpu ?_); exact fun _ => ⟨rfl, rfl, rfl, rfl⟩)
    | ((with_reducible refine steady_modifyFlags ?_); exact fun _ => rfl)
    | (simp; done)
    | (dsimp only)
    | split

@[simp] theorem steady_setRights (sel : Word) (d : Desc) (f : Byte → Byte) :
    IsSteady (setRights sel d f) := by
  unfold setRights
  repeat' first
    | with_reducible refine steady_bind ?_ fun _ => ?_
    | ((with_reducible refine steady_modifyCpu ?_); exact fun _ => ⟨rfl, rfl, rfl, rfl⟩)
    | ((with_reducible refine steady_modifyFlags ?_); exact fun _ => rfl)
    | (simp; done)
    | (dsimp only)
    | split

@[simp] theorem steady_setAccessed (sel : Word) (d : Desc) :
    IsSteady (setAccessed sel d) := by
  unfold setAccessed
  repeat' first
    | with_reducible refine steady_bind ?_ fun _ => ?_
    | ((with_reducible refine steady_modifyCpu ?_); exact fun _ => ⟨rfl, rfl, rfl, rfl⟩)
    | ((with_reducible refine steady_modifyFlags ?_); exact fun _ => rfl)
    | (simp; done)
    | (dsimp only)
    | split

@[simp] theorem steady_requireSettledMode : IsSteady requireSettledMode := by
  unfold requireSettledMode
  repeat' first
    | with_reducible refine steady_bind ?_ fun _ => ?_
    | ((with_reducible refine steady_modifyCpu ?_); exact fun _ => ⟨rfl, rfl, rfl, rfl⟩)
    | ((with_reducible refine steady_modifyFlags ?_); exact fun _ => rfl)
    | (simp; done)
    | (dsimp only)
    | split

@[simp] theorem steady_loadData (bad : Word → Exc) (r : SReg) (sel : Word) :
    IsSteady (loadData bad r sel) := by
  unfold loadData
  repeat' first
    | with_reducible refine steady_bind ?_ fun _ => ?_
    | ((with_reducible refine steady_modifyCpu ?_); exact fun _ => ⟨rfl, rfl, rfl, rfl⟩)
    | ((with_reducible refine steady_modifyFlags ?_); exact fun _ => rfl)
    | (simp; done)
    | (dsimp only)
    | split

@[simp] theorem steady_loadStack (bad : Word → Exc) (level : BitVec 2) (sel : Word) :
    IsSteady (loadStack bad level sel) := by
  unfold loadStack
  repeat' first
    | with_reducible refine steady_bind ?_ fun _ => ?_
    | ((with_reducible refine steady_modifyCpu ?_); exact fun _ => ⟨rfl, rfl, rfl, rfl⟩)
    | ((with_reducible refine steady_modifyFlags ?_); exact fun _ => rfl)
    | (simp; done)
    | (dsimp only)
    | split

@[simp] theorem steady_loadSegment (r : SReg) (sel : Word) :
    IsSteady (loadSegment r sel) := by
  unfold loadSegment
  repeat' first
    | with_reducible refine steady_bind ?_ fun _ => ?_
    | ((with_reducible refine steady_modifyCpu ?_); exact fun _ => ⟨rfl, rfl, rfl, rfl⟩)
    | ((with_reducible refine steady_modifyFlags ?_); exact fun _ => rfl)
    | (simp; done)
    | (dsimp only)
    | split

@[simp] theorem steady_push (sz : Sz) (v : BitVec sz.bits) :
    IsSteady (push sz v) := by
  unfold push
  repeat' first
    | with_reducible refine steady_bind ?_ fun _ => ?_
    | ((with_reducible refine steady_modifyCpu ?_); exact fun _ => ⟨rfl, rfl, rfl, rfl⟩)
    | ((with_reducible refine steady_modifyFlags ?_); exact fun _ => rfl)
    | (simp; done)
    | (dsimp only)
    | split

@[simp] theorem steady_pop (sz : Sz) :
    IsSteady (pop sz) := by
  unfold pop
  repeat' first
    | with_reducible refine steady_bind ?_ fun _ => ?_
    | ((with_reducible refine steady_modifyCpu ?_); exact fun _ => ⟨rfl, rfl, rfl, rfl⟩)
    | ((with_reducible refine steady_modifyFlags ?_); exact fun _ => rfl)
    | (simp; done)
    | with_reducible exact steady_segRead _ _ _
    | (dsimp only)
    | split

@[simp] theorem steady_stackItem (sz : Sz) (i : Nat) :
    IsSteady (stackItem sz i) := by
  unfold stackItem
  repeat' first
    | with_reducible refine steady_bind ?_ fun _ => ?_
    | ((with_reducible refine steady_modifyCpu ?_); exact fun _ => ⟨rfl, rfl, rfl, rfl⟩)
    | ((with_reducible refine steady_modifyFlags ?_); exact fun _ => rfl)
    | (simp; done)
    | with_reducible exact steady_segRead _ _ _
    | (dsimp only)
    | split

@[simp] theorem steady_requireStack (k : Dword) (n : Nat) :
    IsSteady (requireStack k n) := by
  unfold requireStack
  repeat' first
    | with_reducible refine steady_bind ?_ fun _ => ?_
    | ((with_reducible refine steady_modifyCpu ?_); exact fun _ => ⟨rfl, rfl, rfl, rfl⟩)
    | ((with_reducible refine steady_modifyFlags ?_); exact fun _ => rfl)
    | (simp; done)
    | (dsimp only)
    | split

@[simp] theorem steady_selectorItem (sz : Sz) (sel : Word) :
    IsSteady (selectorItem sz sel) := by
  unfold selectorItem
  repeat' first
    | with_reducible refine steady_bind ?_ fun _ => ?_
    | ((with_reducible refine steady_modifyCpu ?_); exact fun _ => ⟨rfl, rfl, rfl, rfl⟩)
    | ((with_reducible refine steady_modifyFlags ?_); exact fun _ => rfl)
    | (simp; done)
    | (dsimp only)
    | split

@[simp] theorem steady_pushSelector (sz : Sz) (sel : Word) :
    IsSteady (pushSelector sz sel) := by
  unfold pushSelector
  repeat' first
    | with_reducible refine steady_bind ?_ fun _ => ?_
    | ((with_reducible refine steady_modifyCpu ?_); exact fun _ => ⟨rfl, rfl, rfl, rfl⟩)
    | ((with_reducible refine steady_modifyFlags ?_); exact fun _ => rfl)
    | (simp; done)
    | with_reducible exact steady_selectorItem _ _
    | (dsimp only)
    | split

/-! ## Machine/Flags.lean -/

@[simp] theorem steady_getFlags : IsSteady getFlags := by
  unfold getFlags
  repeat' first
    | with_reducible refine steady_bind ?_ fun _ => ?_
    | ((with_reducible refine steady_modifyCpu ?_); exact fun _ => ⟨rfl, rfl, rfl, rfl⟩)
    | ((with_reducible refine steady_modifyFlags ?_); exact fun _ => rfl)
    | (simp; done)
    | (dsimp only)
    | split

/-! ## Machine/Operands.lean -/

@[simp] theorem steady_readMem (sz : Sz) (m : Mem) (k : Dword) :
    IsSteady (readMem sz m k) := by
  unfold readMem
  repeat' first
    | with_reducible refine steady_bind ?_ fun _ => ?_
    | ((with_reducible refine steady_modifyCpu ?_); exact fun _ => ⟨rfl, rfl, rfl, rfl⟩)
    | ((with_reducible refine steady_modifyFlags ?_); exact fun _ => rfl)
    | (simp; done)
    | with_reducible exact steady_segRead _ _ _
    | (dsimp only)
    | split

@[simp] theorem steady_writeMem (sz : Sz) (m : Mem) (k : Dword) (v : BitVec sz.bits) :
    IsSteady (writeMem sz m k v) := by
  unfold writeMem
  repeat' first
    | with_reducible refine steady_bind ?_ fun _ => ?_
    | ((with_reducible refine steady_modifyCpu ?_); exact fun _ => ⟨rfl, rfl, rfl, rfl⟩)
    | ((with_reducible refine steady_modifyFlags ?_); exact fun _ => rfl)
    | (simp; done)
    | (dsimp only)
    | split

@[simp] theorem steady_readRM (sz : Sz) (x : RM) :
    IsSteady (readRM sz x) := by
  unfold readRM
  repeat' first
    | with_reducible refine steady_bind ?_ fun _ => ?_
    | ((with_reducible refine steady_modifyCpu ?_); exact fun _ => ⟨rfl, rfl, rfl, rfl⟩)
    | ((with_reducible refine steady_modifyFlags ?_); exact fun _ => rfl)
    | (simp; done)
    | with_reducible exact steady_readReg _ _
    | with_reducible exact steady_readMem _ _ _
    | (dsimp only)
    | split

@[simp] theorem steady_writeRM (sz : Sz) (rm : RM) (v : BitVec sz.bits) :
    IsSteady (writeRM sz rm v) := by
  unfold writeRM
  repeat' first
    | with_reducible refine steady_bind ?_ fun _ => ?_
    | ((with_reducible refine steady_modifyCpu ?_); exact fun _ => ⟨rfl, rfl, rfl, rfl⟩)
    | ((with_reducible refine steady_modifyFlags ?_); exact fun _ => rfl)
    | (simp; done)
    | (dsimp only)
    | split

@[simp] theorem steady_verifyRM (sz : Sz) (x : RM) :
    IsSteady (verifyRM sz x) := by
  unfold verifyRM
  repeat' first
    | with_reducible refine steady_bind ?_ fun _ => ?_
    | ((with_reducible refine steady_modifyCpu ?_); exact fun _ => ⟨rfl, rfl, rfl, rfl⟩)
    | ((with_reducible refine steady_modifyFlags ?_); exact fun _ => rfl)
    | (simp; done)
    | (dsimp only)
    | split

@[simp] theorem steady_readDest (sz : Sz) (rm : RM) :
    IsSteady (readDest sz rm) := by
  unfold readDest
  repeat' first
    | with_reducible refine steady_bind ?_ fun _ => ?_
    | ((with_reducible refine steady_modifyCpu ?_); exact fun _ => ⟨rfl, rfl, rfl, rfl⟩)
    | ((with_reducible refine steady_modifyFlags ?_); exact fun _ => rfl)
    | (simp; done)
    | with_reducible exact steady_readRM _ _
    | (dsimp only)
    | split

@[simp] theorem steady_writeSelector (rm : RM) (v : Word) :
    IsSteady (writeSelector rm v) := by
  unfold writeSelector
  repeat' first
    | with_reducible refine steady_bind ?_ fun _ => ?_
    | ((with_reducible refine steady_modifyCpu ?_); exact fun _ => ⟨rfl, rfl, rfl, rfl⟩)
    | ((with_reducible refine steady_modifyFlags ?_); exact fun _ => rfl)
    | (simp; done)
    | with_reducible exact steady_selectorItem _ _
    | (dsimp only)
    | split

@[simp] theorem steady_readFarPointer (m : Mem) :
    IsSteady (readFarPointer m) := by
  unfold readFarPointer
  repeat' first
    | with_reducible refine steady_bind ?_ fun _ => ?_
    | ((with_reducible refine steady_modifyCpu ?_); exact fun _ => ⟨rfl, rfl, rfl, rfl⟩)
    | ((with_reducible refine steady_modifyFlags ?_); exact fun _ => rfl)
    | (simp; done)
    | with_reducible exact steady_readMem _ _ _
    | (dsimp only)
    | split

@[simp] theorem steady_readBitOperand (sz : Sz) (rm : RM) (k : Dword) :
    IsSteady (readBitOperand sz rm k) := by
  unfold readBitOperand
  repeat' first
    | with_reducible refine steady_bind ?_ fun _ => ?_
    | ((with_reducible refine steady_modifyCpu ?_); exact fun _ => ⟨rfl, rfl, rfl, rfl⟩)
    | ((with_reducible refine steady_modifyFlags ?_); exact fun _ => rfl)
    | (simp; done)
    | with_reducible exact steady_readReg _ _
    | with_reducible exact steady_readMem _ _ _
    | (dsimp only)
    | split

@[simp] theorem steady_verifyBitOperand (sz : Sz) (rm : RM) (k : Dword) :
    IsSteady (verifyBitOperand sz rm k) := by
  unfold verifyBitOperand
  repeat' first
    | with_reducible refine steady_bind ?_ fun _ => ?_
    | ((with_reducible refine steady_modifyCpu ?_); exact fun _ => ⟨rfl, rfl, rfl, rfl⟩)
    | ((with_reducible refine steady_modifyFlags ?_); exact fun _ => rfl)
    | (simp; done)
    | (dsimp only)
    | split

@[simp] theorem steady_writeBitOperand (sz : Sz) (rm : RM) (k : Dword) (v : BitVec sz.bits) :
    IsSteady (writeBitOperand sz rm k v) := by
  unfold writeBitOperand
  repeat' first
    | with_reducible refine steady_bind ?_ fun _ => ?_
    | ((with_reducible refine steady_modifyCpu ?_); exact fun _ => ⟨rfl, rfl, rfl, rfl⟩)
    | ((with_reducible refine steady_modifyFlags ?_); exact fun _ => rfl)
    | (simp; done)
    | (dsimp only)
    | split

@[simp] theorem steady_stepIndex (r : Reg) (sz : Sz) :
    IsSteady (stepIndex r sz) := by
  unfold stepIndex
  repeat' first
    | with_reducible refine steady_bind ?_ fun _ => ?_
    | ((with_reducible refine steady_modifyCpu ?_); exact fun _ => ⟨rfl, rfl, rfl, rfl⟩)
    | ((with_reducible refine steady_modifyFlags ?_); exact fun _ => rfl)
    | (simp; done)
    | (dsimp only)
    | split

/-! ## Machine/Io.lean -/

@[simp] theorem steady_ioBitClear (base : Word) (port : Nat) :
    IsSteady (ioBitClear base port) := by
  unfold ioBitClear
  repeat' first
    | with_reducible refine steady_bind ?_ fun _ => ?_
    | ((with_reducible refine steady_modifyCpu ?_); exact fun _ => ⟨rfl, rfl, rfl, rfl⟩)
    | ((with_reducible refine steady_modifyFlags ?_); exact fun _ => rfl)
    | (simp; done)
    | with_reducible exact steady_sysRead _ _
    | (dsimp only)
    | split

@[simp] theorem steady_ioBitsClear (base : Word) (port : Nat) (x : Nat) :
    IsSteady (ioBitsClear base port x) := by
  induction x generalizing port with
  | zero => unfold ioBitsClear; simp
  | succ k ih =>
    unfold ioBitsClear
    repeat' first
      | with_reducible refine steady_bind ?_ fun _ => ?_
      | exact ih _
      | (simp; done)
      | (dsimp only)
      | split


@[simp] theorem steady_ioPermitted (port : Word) (n : Nat) :
    IsSteady (ioPermitted port n) := by
  unfold ioPermitted
  repeat' first
    | with_reducible refine steady_bind ?_ fun _ => ?_
    | ((with_reducible refine steady_modifyCpu ?_); exact fun _ => ⟨rfl, rfl, rfl, rfl⟩)
    | ((with_reducible refine steady_modifyFlags ?_); exact fun _ => rfl)
    | (simp; done)
    | with_reducible exact steady_sysRead _ _
    | (dsimp only)
    | split

@[simp] theorem steady_requireIo (port : Word) (n : Nat) :
    IsSteady (requireIo port n) := by
  unfold requireIo
  repeat' first
    | with_reducible refine steady_bind ?_ fun _ => ?_
    | ((with_reducible refine steady_modifyCpu ?_); exact fun _ => ⟨rfl, rfl, rfl, rfl⟩)
    | ((with_reducible refine steady_modifyFlags ?_); exact fun _ => rfl)
    | (simp; done)
    | (dsimp only)
    | split

@[simp] theorem steady_requirePorts (port : Word) (n : Nat) :
    IsSteady (requirePorts port n) := by
  unfold requirePorts
  repeat' first
    | with_reducible refine steady_bind ?_ fun _ => ?_
    | ((with_reducible refine steady_modifyCpu ?_); exact fun _ => ⟨rfl, rfl, rfl, rfl⟩)
    | ((with_reducible refine steady_modifyFlags ?_); exact fun _ => rfl)
    | (simp; done)
    | (dsimp only)
    | split

@[simp] theorem steady_nextIoAnswer : IsSteady nextIoAnswer := by
  unfold nextIoAnswer
  repeat' first
    | with_reducible refine steady_bind ?_ fun _ => ?_
    | ((with_reducible refine steady_modifyCpu ?_); exact fun _ => ⟨rfl, rfl, rfl, rfl⟩)
    | ((with_reducible refine steady_modifyFlags ?_); exact fun _ => rfl)
    | (simp; done)
    | (dsimp only)
    | split

@[simp] theorem steady_ioRead (port : Word) (sz : Sz) :
    IsSteady (ioRead port sz) := by
  unfold ioRead
  repeat' first
    | with_reducible refine steady_bind ?_ fun _ => ?_
    | ((with_reducible refine steady_modifyCpu ?_); exact fun _ => ⟨rfl, rfl, rfl, rfl⟩)
    | ((with_reducible refine steady_modifyFlags ?_); exact fun _ => rfl)
    | (simp; done)
    | (dsimp only)
    | split

@[simp] theorem steady_ioWrite (port : Word) (sz : Sz) (v : BitVec sz.bits) :
    IsSteady (ioWrite port sz v) := by
  unfold ioWrite
  repeat' first
    | with_reducible refine steady_bind ?_ fun _ => ?_
    | ((with_reducible refine steady_modifyCpu ?_); exact fun _ => ⟨rfl, rfl, rfl, rfl⟩)
    | ((with_reducible refine steady_modifyFlags ?_); exact fun _ => rfl)
    | (simp; done)
    | (dsimp only)
    | split

@[simp] theorem steady_intAck : IsSteady intAck := by
  unfold intAck
  repeat' first
    | with_reducible refine steady_bind ?_ fun _ => ?_
    | ((with_reducible refine steady_modifyCpu ?_); exact fun _ => ⟨rfl, rfl, rfl, rfl⟩)
    | ((with_reducible refine steady_modifyFlags ?_); exact fun _ => rfl)
    | (simp; done)
    | (dsimp only)
    | split

/-! ## Machine/Task.lean -/

@[simp] theorem steady_saveTask386 (base : Dword) (c : Cpu) (eip : Dword) (flags : EFlags) :
    IsSteady (saveTask386 base c eip flags) := by
  unfold saveTask386
  repeat' first
    | with_reducible refine steady_bind ?_ fun _ => ?_
    | ((with_reducible refine steady_modifyCpu ?_); exact fun _ => ⟨rfl, rfl, rfl, rfl⟩)
    | ((with_reducible refine steady_modifyFlags ?_); exact fun _ => rfl)
    | (simp; done)
    | (dsimp only)
    | split

@[simp] theorem steady_saveTask286 (base : Dword) (c : Cpu) (eip : Dword) (flags : EFlags) :
    IsSteady (saveTask286 base c eip flags) := by
  unfold saveTask286
  repeat' first
    | with_reducible refine steady_bind ?_ fun _ => ?_
    | ((with_reducible refine steady_modifyCpu ?_); exact fun _ => ⟨rfl, rfl, rfl, rfl⟩)
    | ((with_reducible refine steady_modifyFlags ?_); exact fun _ => rfl)
    | (simp; done)
    | (dsimp only)
    | split

@[simp] theorem steady_readTask386 (base : Dword) :
    IsSteady (readTask386 base) := by
  unfold readTask386
  repeat' first
    | with_reducible refine steady_bind ?_ fun _ => ?_
    | ((with_reducible refine steady_modifyCpu ?_); exact fun _ => ⟨rfl, rfl, rfl, rfl⟩)
    | ((with_reducible refine steady_modifyFlags ?_); exact fun _ => rfl)
    | (simp; done)
    | with_reducible exact steady_sysRead _ _
    | (dsimp only)
    | split

@[simp] theorem steady_wideImage (la : Dword) :
    IsSteady (wideImage la) := by
  unfold wideImage
  repeat' first
    | with_reducible refine steady_bind ?_ fun _ => ?_
    | ((with_reducible refine steady_modifyCpu ?_); exact fun _ => ⟨rfl, rfl, rfl, rfl⟩)
    | ((with_reducible refine steady_modifyFlags ?_); exact fun _ => rfl)
    | (simp; done)
    | with_reducible exact steady_sysRead _ _
    | (dsimp only)
    | split

@[simp] theorem steady_readTask286 (base : Dword) :
    IsSteady (readTask286 base) := by
  unfold readTask286
  repeat' first
    | with_reducible refine steady_bind ?_ fun _ => ?_
    | ((with_reducible refine steady_modifyCpu ?_); exact fun _ => ⟨rfl, rfl, rfl, rfl⟩)
    | ((with_reducible refine steady_modifyFlags ?_); exact fun _ => rfl)
    | (simp; done)
    | with_reducible exact steady_sysRead _ _
    | with_reducible exact steady_wideImage _
    | (dsimp only)
    | split

@[simp] theorem steady_touchNewTss (nests : Bool) (base : Dword) (n : Nat) :
    IsSteady (touchNewTss nests base n) := by
  unfold touchNewTss
  repeat' first
    | with_reducible refine steady_bind ?_ fun _ => ?_
    | exact steady_attempt (steady_translate _ _ _ _)
    | (simp; done)
    | (dsimp only)
    | split


@[simp] theorem steady_loadTaskLdt (sel : Word) :
    IsSteady (loadTaskLdt sel) := by
  unfold loadTaskLdt
  repeat' first
    | with_reducible refine steady_bind ?_ fun _ => ?_
    | ((with_reducible refine steady_modifyCpu ?_); exact fun _ => ⟨rfl, rfl, rfl, rfl⟩)
    | ((with_reducible refine steady_modifyFlags ?_); exact fun _ => rfl)
    | (simp; done)
    | (dsimp only)
    | split

@[simp] theorem steady_loadTaskCode (sel : Word) :
    IsSteady (loadTaskCode sel) := by
  unfold loadTaskCode
  repeat' first
    | with_reducible refine steady_bind ?_ fun _ => ?_
    | ((with_reducible refine steady_modifyCpu ?_); exact fun _ => ⟨rfl, rfl, rfl, rfl⟩)
    | ((with_reducible refine steady_modifyFlags ?_); exact fun _ => rfl)
    | (simp; done)
    | (dsimp only)
    | split

@[simp] theorem steady_requireTaskEip (im : TaskImage) :
    IsSteady (requireTaskEip im) := by
  unfold requireTaskEip
  repeat' first
    | with_reducible refine steady_bind ?_ fun _ => ?_
    | ((with_reducible refine steady_modifyCpu ?_); exact fun _ => ⟨rfl, rfl, rfl, rfl⟩)
    | ((with_reducible refine steady_modifyFlags ?_); exact fun _ => rfl)
    | (simp; done)
    | (dsimp only)
    | split

@[simp] theorem steady_changeTssRights (sel : Word) (f : Byte → Byte) :
    IsSteady (changeTssRights sel f) := by
  unfold changeTssRights
  repeat' first
    | with_reducible refine steady_bind ?_ fun _ => ?_
    | ((with_reducible refine steady_modifyCpu ?_); exact fun _ => ⟨rfl, rfl, rfl, rfl⟩)
    | ((with_reducible refine steady_modifyFlags ?_); exact fun _ => rfl)
    | (simp; done)
    | with_reducible exact steady_sysRead _ _
    | (dsimp only)
    | split

@[simp] theorem steady_saveTask (old : TaskReg) (c : Cpu) (eip : Dword) (flags : EFlags) :
    IsSteady (saveTask old c eip flags) := by
  unfold saveTask
  repeat' first
    | with_reducible refine steady_bind ?_ fun _ => ?_
    | ((with_reducible refine steady_modifyCpu ?_); exact fun _ => ⟨rfl, rfl, rfl, rfl⟩)
    | ((with_reducible refine steady_modifyFlags ?_); exact fun _ => rfl)
    | (simp; done)
    | (dsimp only)
    | split

@[simp] theorem steady_releaseOldTask (kind : TaskKind) (old : Word) :
    IsSteady (releaseOldTask kind old) := by
  unfold releaseOldTask
  repeat' first
    | with_reducible refine steady_bind ?_ fun _ => ?_
    | ((with_reducible refine steady_modifyCpu ?_); exact fun _ => ⟨rfl, rfl, rfl, rfl⟩)
    | ((with_reducible refine steady_modifyFlags ?_); exact fun _ => rfl)
    | (simp; done)
    | (dsimp only)
    | split

@[simp] theorem steady_linkTasks (kind : TaskKind) (base : Dword) (old : Word) :
    IsSteady (linkTasks kind base old) := by
  unfold linkTasks
  repeat' first
    | with_reducible refine steady_bind ?_ fun _ => ?_
    | ((with_reducible refine steady_modifyCpu ?_); exact fun _ => ⟨rfl, rfl, rfl, rfl⟩)
    | ((with_reducible refine steady_modifyFlags ?_); exact fun _ => rfl)
    | (simp; done)
    | (dsimp only)
    | split

@[simp] theorem steady_markNewTask (kind : TaskKind) (sel : Word) :
    IsSteady (markNewTask kind sel) := by
  unfold markNewTask
  repeat' first
    | with_reducible refine steady_bind ?_ fun _ => ?_
    | ((with_reducible refine steady_modifyCpu ?_); exact fun _ => ⟨rfl, rfl, rfl, rfl⟩)
    | ((with_reducible refine steady_modifyFlags ?_); exact fun _ => rfl)
    | (simp; done)
    | (dsimp only)
    | split

@[simp] theorem steady_readTask (is386 : Bool) (base : Dword) :
    IsSteady (readTask is386 base) := by
  unfold readTask
  repeat' first
    | with_reducible refine steady_bind ?_ fun _ => ?_
    | ((with_reducible refine steady_modifyCpu ?_); exact fun _ => ⟨rfl, rfl, rfl, rfl⟩)
    | ((with_reducible refine steady_modifyFlags ?_); exact fun _ => rfl)
    | (simp; done)
    | (dsimp only)
    | split

@[simp] theorem steady_flushForTask (reload : Bool) :
    IsSteady (flushForTask reload) := by
  unfold flushForTask
  repeat' first
    | with_reducible refine steady_bind ?_ fun _ => ?_
    | ((with_reducible refine steady_modifyCpu ?_); exact fun _ => ⟨rfl, rfl, rfl, rfl⟩)
    | ((with_reducible refine steady_modifyFlags ?_); exact fun _ => rfl)
    | (simp; done)
    | (dsimp only)
    | split

/-! ## Machine/Transfer.lean -/

@[simp] theorem steady_setEip (t : Dword) :
    IsSteady (setEip t) := by
  unfold setEip
  repeat' first
    | with_reducible refine steady_bind ?_ fun _ => ?_
    | ((with_reducible refine steady_modifyCpu ?_); exact fun _ => ⟨rfl, rfl, rfl, rfl⟩)
    | ((with_reducible refine steady_modifyFlags ?_); exact fun _ => rfl)
    | (simp; done)
    | (dsimp only)
    | split

@[simp] theorem steady_requireTarget (t : Dword) :
    IsSteady (requireTarget t) := by
  unfold requireTarget
  repeat' first
    | with_reducible refine steady_bind ?_ fun _ => ?_
    | ((with_reducible refine steady_modifyCpu ?_); exact fun _ => ⟨rfl, rfl, rfl, rfl⟩)
    | ((with_reducible refine steady_modifyFlags ?_); exact fun _ => rfl)
    | (simp; done)
    | (dsimp only)
    | split

@[simp] theorem steady_jumpTo (t : Dword) :
    IsSteady (jumpTo t) := by
  unfold jumpTo
  repeat' first
    | with_reducible refine steady_bind ?_ fun _ => ?_
    | ((with_reducible refine steady_modifyCpu ?_); exact fun _ => ⟨rfl, rfl, rfl, rfl⟩)
    | ((with_reducible refine steady_modifyFlags ?_); exact fun _ => rfl)
    | (simp; done)
    | (dsimp only)
    | split

@[simp] theorem steady_jumpRel (disp : Dword) :
    IsSteady (jumpRel disp) := by
  unfold jumpRel
  repeat' first
    | with_reducible refine steady_bind ?_ fun _ => ?_
    | ((with_reducible refine steady_modifyCpu ?_); exact fun _ => ⟨rfl, rfl, rfl, rfl⟩)
    | ((with_reducible refine steady_modifyFlags ?_); exact fun _ => rfl)
    | (simp; done)
    | (dsimp only)
    | split

@[simp] theorem steady_callTo (t : Dword) :
    IsSteady (callTo t) := by
  unfold callTo
  repeat' first
    | with_reducible refine steady_bind ?_ fun _ => ?_
    | ((with_reducible refine steady_modifyCpu ?_); exact fun _ => ⟨rfl, rfl, rfl, rfl⟩)
    | ((with_reducible refine steady_modifyFlags ?_); exact fun _ => rfl)
    | (simp; done)
    | (dsimp only)
    | split

@[simp] theorem steady_returnNear (bytes : Dword) :
    IsSteady (returnNear bytes) := by
  unfold returnNear
  repeat' first
    | with_reducible refine steady_bind ?_ fun _ => ?_
    | ((with_reducible refine steady_modifyCpu ?_); exact fun _ => ⟨rfl, rfl, rfl, rfl⟩)
    | ((with_reducible refine steady_modifyFlags ?_); exact fun _ => rfl)
    | (simp; done)
    | with_reducible exact steady_pop _
    | (dsimp only)
    | split

@[simp] theorem steady_checkReturnCode (sel : Word) :
    IsSteady (checkReturnCode sel) := by
  unfold checkReturnCode
  repeat' first
    | with_reducible refine steady_bind ?_ fun _ => ?_
    | ((with_reducible refine steady_modifyCpu ?_); exact fun _ => ⟨rfl, rfl, rfl, rfl⟩)
    | ((with_reducible refine steady_modifyFlags ?_); exact fun _ => rfl)
    | (simp; done)
    | (dsimp only)
    | split

@[simp] theorem steady_checkOuterStack (sel : Word) (level : BitVec 2) :
    IsSteady (checkOuterStack sel level) := by
  unfold checkOuterStack
  repeat' first
    | with_reducible refine steady_bind ?_ fun _ => ?_
    | ((with_reducible refine steady_modifyCpu ?_); exact fun _ => ⟨rfl, rfl, rfl, rfl⟩)
    | ((with_reducible refine steady_modifyFlags ?_); exact fun _ => rfl)
    | (simp; done)
    | (dsimp only)
    | split

@[simp] theorem steady_dropSegments : IsSteady dropSegments := by
  unfold dropSegments
  repeat' first
    | with_reducible refine steady_bind ?_ fun _ => ?_
    | ((with_reducible refine steady_modifyCpu ?_); exact fun _ => ⟨rfl, rfl, rfl, rfl⟩)
    | ((with_reducible refine steady_modifyFlags ?_); exact fun _ => rfl)
    | (simp; done)
    | (dsimp only)
    | split

@[simp] theorem steady_innerStackPointer (level : BitVec 2) :
    IsSteady (innerStackPointer level) := by
  unfold innerStackPointer
  repeat' first
    | with_reducible refine steady_bind ?_ fun _ => ?_
    | ((with_reducible refine steady_modifyCpu ?_); exact fun _ => ⟨rfl, rfl, rfl, rfl⟩)
    | ((with_reducible refine steady_modifyFlags ?_); exact fun _ => rfl)
    | (simp; done)
    | with_reducible exact steady_sysRead _ _
    | (dsimp only)
    | split

@[simp] theorem steady_checkInnerStack (sel : Word) (level : BitVec 2) :
    IsSteady (checkInnerStack sel level) := by
  unfold checkInnerStack
  repeat' first
    | with_reducible refine steady_bind ?_ fun _ => ?_
    | ((with_reducible refine steady_modifyCpu ?_); exact fun _ => ⟨rfl, rfl, rfl, rfl⟩)
    | ((with_reducible refine steady_modifyFlags ?_); exact fun _ => rfl)
    | (simp; done)
    | (dsimp only)
    | split

@[simp] theorem steady_loadCodeReal (sel : Word) :
    IsSteady (loadCodeReal sel) := by
  unfold loadCodeReal
  repeat' first
    | with_reducible refine steady_bind ?_ fun _ => ?_
    | ((with_reducible refine steady_modifyCpu ?_); exact fun _ => ⟨rfl, rfl, rfl, rfl⟩)
    | ((with_reducible refine steady_modifyFlags ?_); exact fun _ => rfl)
    | (simp; done)
    | (dsimp only)
    | split

@[simp] theorem steady_settleMode : IsSteady settleMode := by
  unfold settleMode
  repeat' first
    | with_reducible refine steady_bind ?_ fun _ => ?_
    | ((with_reducible refine steady_modifyCpu ?_); exact fun _ => ⟨rfl, rfl, rfl, rfl⟩)
    | ((with_reducible refine steady_modifyFlags ?_); exact fun _ => rfl)
    | (simp; done)
    | (dsimp only)
    | split

@[simp] theorem steady_pushReturn (sz : Sz) :
    IsSteady (pushReturn sz) := by
  unfold pushReturn
  repeat' first
    | with_reducible refine steady_bind ?_ fun _ => ?_
    | ((with_reducible refine steady_modifyCpu ?_); exact fun _ => ⟨rfl, rfl, rfl, rfl⟩)
    | ((with_reducible refine steady_modifyFlags ?_); exact fun _ => rfl)
    | (simp; done)
    | (dsimp only)
    | split

@[simp] theorem steady_requireRoom (k : Nat) (sz : Sz) :
    IsSteady (requireRoom k sz) := by
  unfold requireRoom
  repeat' first
    | with_reducible refine steady_bind ?_ fun _ => ?_
    | ((with_reducible refine steady_modifyCpu ?_); exact fun _ => ⟨rfl, rfl, rfl, rfl⟩)
    | ((with_reducible refine steady_modifyFlags ?_); exact fun _ => rfl)
    | (simp; done)
    | (dsimp only)
    | split

@[simp] theorem steady_pushAll (sz : Sz) (x : List (BitVec sz.bits)) :
    IsSteady (pushAll sz x) := by
  induction x with
  | nil => unfold pushAll; simp
  | cons v rest ih =>
    unfold pushAll
    repeat' first
      | with_reducible refine steady_bind ?_ fun _ => ?_
      | exact ih
      | (simp; done)
      | (dsimp only)
      | split


@[simp] theorem steady_stackItems (sz : Sz) (x : Nat) (y : Nat) :
    IsSteady (stackItems sz x y) := by
  induction y generalizing x with
  | zero => unfold stackItems; simp
  | succ k ih =>
    unfold stackItems
    repeat' first
      | with_reducible refine steady_bind ?_ fun _ => ?_
      | exact ih _
      | exact steady_stackItem _ _
      | (simp; done)
      | (dsimp only)
      | split


@[simp] theorem steady_taskGateTarget (tsel : Word) :
    IsSteady (taskGateTarget tsel) := by
  unfold taskGateTarget
  repeat' first
    | with_reducible refine steady_bind ?_ fun _ => ?_
    | ((with_reducible refine steady_modifyCpu ?_); exact fun _ => ⟨rfl, rfl, rfl, rfl⟩)
    | ((with_reducible refine steady_modifyFlags ?_); exact fun _ => rfl)
    | (simp; done)
    | (dsimp only)
    | split

@[simp] theorem steady_loadEsp (sz : Sz) (v : Dword) :
    IsSteady (loadEsp sz v) := by
  unfold loadEsp
  repeat' first
    | with_reducible refine steady_bind ?_ fun _ => ?_
    | ((with_reducible refine steady_modifyCpu ?_); exact fun _ => ⟨rfl, rfl, rfl, rfl⟩)
    | ((with_reducible refine steady_modifyFlags ?_); exact fun _ => rfl)
    | (simp; done)
    | (dsimp only)
    | split

/-! ## Machine/Ops.lean -/

@[simp] theorem steady_applyExc (e : Exc) :
    IsSteady (applyExc e) := by
  unfold applyExc
  repeat' first
    | with_reducible refine steady_bind ?_ fun _ => ?_
    | ((with_reducible refine steady_modifyCpu ?_); exact fun _ => ⟨rfl, rfl, rfl, rfl⟩)
    | ((with_reducible refine steady_modifyFlags ?_); exact fun _ => rfl)
    | (simp; done)
    | (dsimp only)
    | split

@[simp] theorem steady_deliverReal (ev : Event) :
    IsSteady (deliverReal ev) := by
  unfold deliverReal
  repeat' first
    | with_reducible refine steady_bind ?_ fun _ => ?_
    | ((with_reducible refine steady_modifyCpu ?_); exact fun _ => ⟨rfl, rfl, rfl, rfl⟩)
    | ((with_reducible refine steady_modifyFlags ?_); exact fun _ => rfl)
    | (simp; done)
    | with_reducible exact steady_sysRead _ _
    | (dsimp only)
    | split

@[simp] theorem steady_pushFrame (ev : Event) (sz : Sz) (old : Cpu) :
    IsSteady (pushFrame ev sz old) := by
  unfold pushFrame
  repeat' first
    | with_reducible refine steady_bind ?_ fun _ => ?_
    | ((with_reducible refine steady_modifyCpu ?_); exact fun _ => ⟨rfl, rfl, rfl, rfl⟩)
    | ((with_reducible refine steady_modifyFlags ?_); exact fun _ => rfl)
    | (simp; done)
    | (dsimp only)
    | split

@[simp] theorem steady_pushV86Segments (old : Cpu) :
    IsSteady (pushV86Segments old) := by
  unfold pushV86Segments
  repeat' first
    | with_reducible refine steady_bind ?_ fun _ => ?_
    | ((with_reducible refine steady_modifyCpu ?_); exact fun _ => ⟨rfl, rfl, rfl, rfl⟩)
    | ((with_reducible refine steady_modifyFlags ?_); exact fun _ => rfl)
    | (simp; done)
    | (dsimp only)
    | split

@[simp] theorem steady_endNmiService : IsSteady endNmiService := by
  unfold endNmiService
  repeat' first
    | with_reducible refine steady_bind ?_ fun _ => ?_
    | ((with_reducible refine steady_modifyCpu ?_); exact fun _ => ⟨rfl, rfl, rfl, rfl⟩)
    | ((with_reducible refine steady_modifyFlags ?_); exact fun _ => rfl)
    | (simp; done)
    | (dsimp only)
    | split

@[simp] theorem steady_iretReal : IsSteady iretReal := by
  unfold iretReal
  repeat' first
    | with_reducible refine steady_bind ?_ fun _ => ?_
    | (refine steady_modifyFlags fun _ => ?_; simp [EFlags.loadImage, EFlags.loadCommon]; done)
    | exact steady_modifyCpu fun _ => ⟨rfl, rfl, rfl, rfl⟩
    | (simp; done)
    | with_reducible exact steady_stackItem _ _
    | (dsimp only)


/-! ## Machine/Checks.lean -/

@[simp] theorem steady_decodeChecks (i : Instr) :
    IsSteady (decodeChecks i) := by
  unfold decodeChecks
  repeat' first
    | with_reducible refine steady_bind ?_ fun _ => ?_
    | ((with_reducible refine steady_modifyCpu ?_); exact fun _ => ⟨rfl, rfl, rfl, rfl⟩)
    | ((with_reducible refine steady_modifyFlags ?_); exact fun _ => rfl)
    | (simp; done)
    | (dsimp only)
    | split

@[simp] theorem steady_refuseReservedDebug (r : DReg) :
    IsSteady (refuseReservedDebug r) := by
  unfold refuseReservedDebug
  repeat' first
    | with_reducible refine steady_bind ?_ fun _ => ?_
    | ((with_reducible refine steady_modifyCpu ?_); exact fun _ => ⟨rfl, rfl, rfl, rfl⟩)
    | ((with_reducible refine steady_modifyFlags ?_); exact fun _ => rfl)
    | (simp; done)
    | (dsimp only)
    | split

/-! ## Machine/Fetch.lean -/

@[simp] theorem steady_chooseStale (now : Byte) (x : List Byte) :
    IsSteady (chooseStale now x) := by
  induction x with
  | nil => unfold chooseStale; simp
  | cons v rest ih =>
    unfold chooseStale
    repeat' first
      | with_reducible refine steady_bind ?_ fun _ => ?_
      | exact ih
      | (simp; done)
      | (dsimp only)
      | split


@[simp] theorem steady_notePaging (pg : Bool) : IsSteady (notePaging pg) := fun _ => ⟨rfl, rfl, rfl, rfl, id, id, id⟩

@[simp] theorem steady_fetchAddress (pg : Bool) (la : Dword) (user : Bool) : IsSteady (fetchAddress pg la user) := by
  unfold fetchAddress
  split
  · exact steady_bind (by simp) fun _ => by simp
  · simp

@[simp] theorem steady_translateCode (la : Dword) : IsSteady (translateCode la) := by
  unfold translateCode
  repeat' first
    | with_reducible refine steady_bind ?_ fun _ => ?_
    | with_reducible refine steady_attempt ?_
    | (simp; done)
    | (dsimp only)
    | split

@[simp] theorem steady_queueWord (a : PAddr) (b : Byte) : IsSteady (queueWord a b) := fun s => by
  simp only [M.after, queueWord, State.wordQueued]
  split
  · exact .refl s
  · refine ⟨rfl, rfl, rfl, rfl, id, id, fun _ => ?_⟩
    simp only [List.length_take, Config.queueBytes, Config.fetchBytes]
    omega

@[simp] theorem steady_fetchPhysical (a : PAddr) :
    IsSteady (fetchPhysical a) := by
  unfold fetchPhysical
  repeat' first
    | with_reducible refine steady_bind ?_ fun _ => ?_
    | ((with_reducible refine steady_modifyCpu ?_); exact fun _ => ⟨rfl, rfl, rfl, rfl⟩)
    | ((with_reducible refine steady_modifyFlags ?_); exact fun _ => rfl)
    | (simp; done)
    | (dsimp only)
    | split

theorem steady_limitBeforePage {α : Type} (bs : List Byte) {m : M α} (h : IsSteady m) : IsSteady (limitBeforePage bs m) := by
  intro s
  have h1 := h s
  simp only [M.after, limitBeforePage] at h1 ⊢
  cases hm : m s with
  | ok a t => rw [hm] at h1; exact h1
  | error e t =>
    rw [hm] at h1
    cases e with
    | exc e =>
      by_cases hl : s.cpu.fetchOffset (fewestBytes s.cpu bs - 1) ≤ s.cpu.segs.cs.limit.toNat
      · simp only [hl, if_true]; exact h1
      · simp only [hl, if_false]; exact .refl s
    | committed e => exact h1
    | refuse r => exact h1
    | shutdown => exact h1

@[simp] theorem steady_refuseEncoding {α : Type} (r : DecodeRefusal) : IsSteady (refuseEncoding r : M α) := by
  unfold refuseEncoding
  repeat' first
    | with_reducible refine steady_bind ?_ fun _ => ?_
    | (simp; done)
    | split

@[simp] theorem steady_fetchByte (bs : List Byte) :
    IsSteady (fetchByte bs) := by
  unfold fetchByte
  repeat' first
    | with_reducible refine steady_limitBeforePage _ ?_
    | with_reducible refine steady_bind ?_ fun _ => ?_
    | ((with_reducible refine steady_modifyCpu ?_); exact fun _ => ⟨rfl, rfl, rfl, rfl⟩)
    | ((with_reducible refine steady_modifyFlags ?_); exact fun _ => rfl)
    | (simp; done)
    | (dsimp only)
    | split

@[simp] theorem steady_tooLong (bs : List Byte) :
    IsSteady (tooLong bs) := by
  unfold tooLong
  repeat' first
    | with_reducible refine steady_bind ?_ fun _ => ?_
    | ((with_reducible refine steady_modifyCpu ?_); exact fun _ => ⟨rfl, rfl, rfl, rfl⟩)
    | ((with_reducible refine steady_modifyFlags ?_); exact fun _ => rfl)
    | (simp; done)
    | (dsimp only)
    | split

@[simp] theorem steady_fetchFrom (bs : List Byte) (x : Nat) :
    IsSteady (fetchFrom bs x) := by
  induction x generalizing bs with
  | zero => unfold fetchFrom; simp
  | succ k ih =>
    unfold fetchFrom
    repeat' first
      | with_reducible refine steady_bind ?_ fun _ => ?_
      | exact ih _
      | (simp; done)
      | (dsimp only)
      | split


@[simp] theorem steady_fetchInstr : IsSteady fetchInstr := by
  unfold fetchInstr
  repeat' first
    | with_reducible refine steady_bind ?_ fun _ => ?_
    | ((with_reducible refine steady_modifyCpu ?_); exact fun _ => ⟨rfl, rfl, rfl, rfl⟩)
    | ((with_reducible refine steady_modifyFlags ?_); exact fun _ => rfl)
    | (simp; done)
    | (dsimp only)
    | split
end Sys2Proof.Machine
end

