-- ==== Sys2Proof/Laws/Keeps.lean ====
section
/-! SUPPORT. The shared operations keep `State.wf`: memory in its canonical form, the TLB within its size, the low bits of CR3
zero. -/

namespace Sys2Proof.Machine

set_option linter.all false

/-- A meaning that keeps `State.wf`, whether it answers or stops. -/
abbrev KeepsWf {α : Type} (m : M α) : Prop := Keeps (fun s => s.wf = true) m

/-- A steady meaning keeps `State.wf`. -/
@[simp] theorem keepsWf_of_steady {α : Type} {m : M α} (h : IsSteady m) : KeepsWf m := h.keeps_wf

theorem State.wf_mapCpu {s : State} {f : Cpu → Cpu} (h : s.wf = true)
    (hf : (s.cpu.cr3.extractLsb' 0 12 == 0) = true → ((f s.cpu).cr3.extractLsb' 0 12 == 0) = true) :
    (s.mapCpu f).wf = true := by
  simp only [State.wf, Bool.and_eq_true] at h ⊢
  exact ⟨h.1, hf h.2⟩

theorem keepsWf_modifyCpu {f : Cpu → Cpu} (h : ∀ c : Cpu, c.cr3 = c.cr3 → (f c).cr3 = c.cr3) : KeepsWf (modifyCpu f) :=
  fun s hs => State.wf_mapCpu (f := f) hs fun h3 => by rw [h s.cpu rfl]; exact h3

theorem keepsWf_modifyFlags (f : EFlags → EFlags) : KeepsWf (modifyFlags f) := keepsWf_modifyCpu fun _ _ => rfl

theorem keepsWf_enterTask (im : TaskImage) (kind : TaskKind) (sel : Word) (t : Desc) (is386 : Bool) :
    KeepsWf (modifyCpu (enterTask im kind sel t is386)) := fun s hs => by
  refine State.wf_mapCpu (f := enterTask im kind sel t is386) hs fun h3 => ?_
  simp only [enterTask]
  split
  · split
    · rename_i v _ _
      rw [beq_iff_eq]
      apply BitVec.eq_of_getLsbD_eq
      intro i hi
      simp only [BitVec.getLsbD_extractLsb', BitVec.getLsbD_and]
      have : ∀ j : Fin 12, (0xFFFFF000#32).getLsbD (0 + j.val) = false := by decide
      have hb : BitVec.getLsbD (4294963200 : Dword) (0 + i) = false := this ⟨i, hi⟩
      rw [hb]
      simp
    · exact h3
  · exact h3

@[simp] theorem keepsWf_loadTaskSegments (im : TaskImage) :
    KeepsWf (loadTaskSegments im) := by
  unfold loadTaskSegments
  repeat' first
    | with_reducible refine keeps_bind ?_ fun _ => ?_
    | ((with_reducible refine keepsWf_modifyCpu ?_); exact fun _ _ => rfl)
    | (with_reducible refine keepsWf_modifyFlags _)
    | (simp; done)
    | ((with_reducible refine IsSteady.keeps_wf ?_); simp; done)
    | with_reducible exact (steady_stackItem _ _).keeps_wf
    | with_reducible exact (steady_segRead _ _ _).keeps_wf
    | with_reducible exact (steady_sysRead _ _).keeps_wf
    | (dsimp only)
    | split

@[simp] theorem keepsWf_taskSwitch (sel : Word) (t : Desc) (kind : TaskKind) (ret : Dword) (rf : Bool) :
    KeepsWf (taskSwitch sel t kind ret rf) := by
  unfold taskSwitch
  repeat' first
    | with_reducible refine keeps_bind ?_ fun _ => ?_
    | ((with_reducible refine keepsWf_modifyCpu ?_); exact fun _ _ => rfl)
    | (with_reducible refine keepsWf_modifyFlags _)
    | with_reducible exact keepsWf_enterTask _ _ _ _ _
    | (with_reducible refine keeps_commit ?_)
    | (simp; done)
    | ((with_reducible refine IsSteady.keeps_wf ?_); simp; done)
    | with_reducible exact (steady_stackItem _ _).keeps_wf
    | with_reducible exact (steady_segRead _ _ _).keeps_wf
    | with_reducible exact (steady_sysRead _ _).keeps_wf
    | (dsimp only)
    | split

@[simp] theorem keepsWf_enterInnerStack (sel : Word) (d : Desc) (esp : Dword) (level : BitVec 2) :
    KeepsWf (enterInnerStack sel d esp level) := by
  unfold enterInnerStack
  repeat' first
    | with_reducible refine keeps_bind ?_ fun _ => ?_
    | ((with_reducible refine keepsWf_modifyCpu ?_); exact fun _ _ => rfl)
    | (with_reducible refine keepsWf_modifyFlags _)
    | (simp; done)
    | ((with_reducible refine IsSteady.keeps_wf ?_); simp; done)
    | with_reducible exact (steady_stackItem _ _).keeps_wf
    | with_reducible exact (steady_segRead _ _ _).keeps_wf
    | with_reducible exact (steady_sysRead _ _).keeps_wf
    | (dsimp only)
    | split

@[simp] theorem keepsWf_enterCode (sel : Word) (d : Desc) (level : BitVec 2) (off : Dword) :
    KeepsWf (enterCode sel d level off) := by
  unfold enterCode
  repeat' first
    | with_reducible refine keeps_bind ?_ fun _ => ?_
    | ((with_reducible refine keepsWf_modifyCpu ?_); exact fun _ _ => rfl)
    | (with_reducible refine keepsWf_modifyFlags _)
    | (simp; done)
    | ((with_reducible refine IsSteady.keeps_wf ?_); simp; done)
    | with_reducible exact (steady_stackItem _ _).keeps_wf
    | with_reducible exact (steady_segRead _ _ _).keeps_wf
    | with_reducible exact (steady_sysRead _ _).keeps_wf
    | (dsimp only)
    | split

@[simp] theorem keepsWf_farSameLevel (call : Bool) (sz : Sz) (sel : Word) (d : Desc) (off : Dword) :
    KeepsWf (farSameLevel call sz sel d off) := by
  unfold farSameLevel
  repeat' first
    | with_reducible refine keeps_bind ?_ fun _ => ?_
    | ((with_reducible refine keepsWf_modifyCpu ?_); exact fun _ _ => rfl)
    | (with_reducible refine keepsWf_modifyFlags _)
    | (simp; done)
    | ((with_reducible refine IsSteady.keeps_wf ?_); simp; done)
    | with_reducible exact (steady_stackItem _ _).keeps_wf
    | with_reducible exact (steady_segRead _ _ _).keeps_wf
    | with_reducible exact (steady_sysRead _ _).keeps_wf
    | (dsimp only)
    | split

@[simp] theorem keepsWf_callInner (g : Desc) (csel : Word) (d : Desc) (off : Dword) (sz : Sz) :
    KeepsWf (callInner g csel d off sz) := by
  unfold callInner
  repeat' first
    | with_reducible refine keeps_bind ?_ fun _ => ?_
    | ((with_reducible refine keepsWf_modifyCpu ?_); exact fun _ _ => rfl)
    | (with_reducible refine keepsWf_modifyFlags _)
    | (simp; done)
    | ((with_reducible refine IsSteady.keeps_wf ?_); simp; done)
    | with_reducible exact (steady_stackItem _ _).keeps_wf
    | with_reducible exact (steady_segRead _ _ _).keeps_wf
    | with_reducible exact (steady_sysRead _ _).keeps_wf
    | (dsimp only)
    | split

@[simp] theorem keepsWf_farGate (call : Bool) (g : Desc) (gsel : Word) :
    KeepsWf (farGate call g gsel) := by
  unfold farGate
  repeat' first
    | with_reducible refine keeps_bind ?_ fun _ => ?_
    | ((with_reducible refine keepsWf_modifyCpu ?_); exact fun _ _ => rfl)
    | (with_reducible refine keepsWf_modifyFlags _)
    | (simp; done)
    | ((with_reducible refine IsSteady.keeps_wf ?_); simp; done)
    | with_reducible exact (steady_stackItem _ _).keeps_wf
    | with_reducible exact (steady_segRead _ _ _).keeps_wf
    | with_reducible exact (steady_sysRead _ _).keeps_wf
    | (dsimp only)
    | split

@[simp] theorem keepsWf_farTss (call : Bool) (t : Desc) (sel : Word) :
    KeepsWf (farTss call t sel) := by
  unfold farTss
  repeat' first
    | with_reducible refine keeps_bind ?_ fun _ => ?_
    | ((with_reducible refine keepsWf_modifyCpu ?_); exact fun _ _ => rfl)
    | (with_reducible refine keepsWf_modifyFlags _)
    | (simp; done)
    | ((with_reducible refine IsSteady.keeps_wf ?_); simp; done)
    | with_reducible exact (steady_stackItem _ _).keeps_wf
    | with_reducible exact (steady_segRead _ _ _).keeps_wf
    | with_reducible exact (steady_sysRead _ _).keeps_wf
    | (dsimp only)
    | split

@[simp] theorem keepsWf_farTaskGate (call : Bool) (g : Desc) (gsel : Word) :
    KeepsWf (farTaskGate call g gsel) := by
  unfold farTaskGate
  repeat' first
    | with_reducible refine keeps_bind ?_ fun _ => ?_
    | ((with_reducible refine keepsWf_modifyCpu ?_); exact fun _ _ => rfl)
    | (with_reducible refine keepsWf_modifyFlags _)
    | (simp; done)
    | ((with_reducible refine IsSteady.keeps_wf ?_); simp; done)
    | with_reducible exact (steady_stackItem _ _).keeps_wf
    | with_reducible exact (steady_segRead _ _ _).keeps_wf
    | with_reducible exact (steady_sysRead _ _).keeps_wf
    | (dsimp only)
    | split

@[simp] theorem keepsWf_farProtected (call : Bool) (off : Dword) (sel : Word) :
    KeepsWf (farProtected call off sel) := by
  unfold farProtected
  repeat' first
    | with_reducible refine keeps_bind ?_ fun _ => ?_
    | ((with_reducible refine keepsWf_modifyCpu ?_); exact fun _ _ => rfl)
    | (with_reducible refine keepsWf_modifyFlags _)
    | (simp; done)
    | ((with_reducible refine IsSteady.keeps_wf ?_); simp; done)
    | with_reducible exact (steady_stackItem _ _).keeps_wf
    | with_reducible exact (steady_segRead _ _ _).keeps_wf
    | with_reducible exact (steady_sysRead _ _).keeps_wf
    | (dsimp only)
    | split

@[simp] theorem keepsWf_farJump (off : Dword) (sel : Word) :
    KeepsWf (farJump off sel) := by
  unfold farJump
  repeat' first
    | with_reducible refine keeps_bind ?_ fun _ => ?_
    | ((with_reducible refine keepsWf_modifyCpu ?_); exact fun _ _ => rfl)
    | (with_reducible refine keepsWf_modifyFlags _)
    | (simp; done)
    | ((with_reducible refine IsSteady.keeps_wf ?_); simp; done)
    | with_reducible exact (steady_stackItem _ _).keeps_wf
    | with_reducible exact (steady_segRead _ _ _).keeps_wf
    | with_reducible exact (steady_sysRead _ _).keeps_wf
    | (dsimp only)
    | split

@[simp] theorem keepsWf_farCall (off : Dword) (sel : Word) :
    KeepsWf (farCall off sel) := by
  unfold farCall
  repeat' first
    | with_reducible refine keeps_bind ?_ fun _ => ?_
    | ((with_reducible refine keepsWf_modifyCpu ?_); exact fun _ _ => rfl)
    | (with_reducible refine keepsWf_modifyFlags _)
    | (simp; done)
    | ((with_reducible refine IsSteady.keeps_wf ?_); simp; done)
    | with_reducible exact (steady_stackItem _ _).keeps_wf
    | with_reducible exact (steady_segRead _ _ _).keeps_wf
    | with_reducible exact (steady_sysRead _ _).keeps_wf
    | (dsimp only)
    | split

@[simp] theorem keepsWf_returnFar (bytes : Dword) :
    KeepsWf (returnFar bytes) := by
  unfold returnFar
  repeat' first
    | with_reducible refine keeps_bind ?_ fun _ => ?_
    | ((with_reducible refine keepsWf_modifyCpu ?_); exact fun _ _ => rfl)
    | (with_reducible refine keepsWf_modifyFlags _)
    | (simp; done)
    | ((with_reducible refine IsSteady.keeps_wf ?_); simp; done)
    | with_reducible exact (steady_stackItem _ _).keeps_wf
    | with_reducible exact (steady_segRead _ _ _).keeps_wf
    | with_reducible exact (steady_sysRead _ _).keeps_wf
    | (dsimp only)
    | split

@[simp] theorem keepsWf_enterSame (ev : Event) (sz : Sz) (csel : Word) (d : Desc) (off : Dword) :
    KeepsWf (enterSame ev sz csel d off) := by
  unfold enterSame
  repeat' first
    | with_reducible refine keeps_bind ?_ fun _ => ?_
    | ((with_reducible refine keepsWf_modifyCpu ?_); exact fun _ _ => rfl)
    | (with_reducible refine keepsWf_modifyFlags _)
    | (simp; done)
    | ((with_reducible refine IsSteady.keeps_wf ?_); simp; done)
    | with_reducible exact (steady_stackItem _ _).keeps_wf
    | with_reducible exact (steady_segRead _ _ _).keeps_wf
    | with_reducible exact (steady_sysRead _ _).keeps_wf
    | (dsimp only)
    | split

@[simp] theorem keepsWf_enterInner (ev : Event) (sz : Sz) (csel : Word) (d : Desc) (off : Dword) :
    KeepsWf (enterInner ev sz csel d off) := by
  unfold enterInner
  repeat' first
    | with_reducible refine keeps_bind ?_ fun _ => ?_
    | ((with_reducible refine keepsWf_modifyCpu ?_); exact fun _ _ => rfl)
    | (with_reducible refine keepsWf_modifyFlags _)
    | (simp; done)
    | ((with_reducible refine IsSteady.keeps_wf ?_); simp; done)
    | with_reducible exact (steady_stackItem _ _).keeps_wf
    | with_reducible exact (steady_segRead _ _ _).keeps_wf
    | with_reducible exact (steady_sysRead _ _).keeps_wf
    | (dsimp only)
    | split

@[simp] theorem keepsWf_enterGate (ev : Event) (g : Desc) :
    KeepsWf (enterGate ev g) := by
  unfold enterGate
  repeat' first
    | with_reducible refine keeps_bind ?_ fun _ => ?_
    | ((with_reducible refine keepsWf_modifyCpu ?_); exact fun _ _ => rfl)
    | (with_reducible refine keepsWf_modifyFlags _)
    | (simp; done)
    | ((with_reducible refine IsSteady.keeps_wf ?_); simp; done)
    | with_reducible exact (steady_stackItem _ _).keeps_wf
    | with_reducible exact (steady_segRead _ _ _).keeps_wf
    | with_reducible exact (steady_sysRead _ _).keeps_wf
    | (dsimp only)
    | split

@[simp] theorem keepsWf_enterTaskGate (ev : Event) (g : Desc) :
    KeepsWf (enterTaskGate ev g) := by
  unfold enterTaskGate
  repeat' first
    | with_reducible refine keeps_bind ?_ fun _ => ?_
    | ((with_reducible refine keepsWf_modifyCpu ?_); exact fun _ _ => rfl)
    | (with_reducible refine keepsWf_modifyFlags _)
    | (with_reducible refine keeps_commit ?_)
    | (simp; done)
    | ((with_reducible refine IsSteady.keeps_wf ?_); simp; done)
    | with_reducible exact (steady_stackItem _ _).keeps_wf
    | with_reducible exact (steady_segRead _ _ _).keeps_wf
    | with_reducible exact (steady_sysRead _ _).keeps_wf
    | (dsimp only)
    | split

@[simp] theorem keepsWf_deliverProtected (ev : Event) :
    KeepsWf (deliverProtected ev) := by
  unfold deliverProtected
  repeat' first
    | with_reducible refine keeps_bind ?_ fun _ => ?_
    | ((with_reducible refine keepsWf_modifyCpu ?_); exact fun _ _ => rfl)
    | (with_reducible refine keepsWf_modifyFlags _)
    | (simp; done)
    | ((with_reducible refine IsSteady.keeps_wf ?_); simp; done)
    | with_reducible exact (steady_stackItem _ _).keeps_wf
    | with_reducible exact (steady_segRead _ _ _).keeps_wf
    | with_reducible exact (steady_sysRead _ _).keeps_wf
    | (dsimp only)
    | split

@[simp] theorem keepsWf_deliverOnce (ev : Event) :
    KeepsWf (deliverOnce ev) := by
  unfold deliverOnce
  repeat' first
    | with_reducible refine keeps_bind ?_ fun _ => ?_
    | ((with_reducible refine keepsWf_modifyCpu ?_); exact fun _ _ => rfl)
    | (with_reducible refine keepsWf_modifyFlags _)
    | (simp; done)
    | ((with_reducible refine IsSteady.keeps_wf ?_); simp; done)
    | with_reducible exact (steady_stackItem _ _).keeps_wf
    | with_reducible exact (steady_segRead _ _ _).keeps_wf
    | with_reducible exact (steady_sysRead _ _).keeps_wf
    | (dsimp only)
    | split

@[simp] theorem keepsWf_iretTask :
    KeepsWf (iretTask) := by
  unfold iretTask
  repeat' first
    | with_reducible refine keeps_bind ?_ fun _ => ?_
    | ((with_reducible refine keepsWf_modifyCpu ?_); exact fun _ _ => rfl)
    | (with_reducible refine keepsWf_modifyFlags _)
    | (simp; done)
    | ((with_reducible refine IsSteady.keeps_wf ?_); simp; done)
    | with_reducible exact (steady_stackItem _ _).keeps_wf
    | with_reducible exact (steady_segRead _ _ _).keeps_wf
    | with_reducible exact (steady_sysRead _ _).keeps_wf
    | (dsimp only)
    | split

@[simp] theorem keepsWf_iretV86 (off : Dword) (sel : Word) (f : Dword) :
    KeepsWf (iretV86 off sel f) := by
  unfold iretV86
  repeat' first
    | with_reducible refine keeps_bind ?_ fun _ => ?_
    | ((with_reducible refine keepsWf_modifyCpu ?_); exact fun _ _ => rfl)
    | (with_reducible refine keepsWf_modifyFlags _)
    | (simp; done)
    | ((with_reducible refine IsSteady.keeps_wf ?_); simp; done)
    | with_reducible exact (steady_stackItem _ _).keeps_wf
    | with_reducible exact (steady_segRead _ _ _).keeps_wf
    | with_reducible exact (steady_sysRead _ _).keeps_wf
    | (dsimp only)
    | split

@[simp] theorem keepsWf_iretProtected (sz : Sz) (off : Dword) (sel : Word) (f : Dword) :
    KeepsWf (iretProtected sz off sel f) := by
  unfold iretProtected
  repeat' first
    | with_reducible refine keeps_bind ?_ fun _ => ?_
    | ((with_reducible refine keepsWf_modifyCpu ?_); exact fun _ _ => rfl)
    | (with_reducible refine keepsWf_modifyFlags _)
    | (simp; done)
    | ((with_reducible refine IsSteady.keeps_wf ?_); simp; done)
    | with_reducible exact (steady_stackItem _ _).keeps_wf
    | with_reducible exact (steady_segRead _ _ _).keeps_wf
    | with_reducible exact (steady_sysRead _ _).keeps_wf
    | (dsimp only)
    | split

@[simp] theorem keepsWf_deliver (n : Nat) (ev : Event) : KeepsWf (deliver n ev) := by
  induction n generalizing ev with
  | zero => exact IsSteady.keeps_wf steady_shutdown
  | succ n ih =>
    intro s hs
    have h1 := keepsWf_deliverOnce ev s hs
    simp only [M.after, deliver] at h1 ⊢
    cases hm : deliverOnce ev s with
    | ok a t => rw [hm] at h1; exact h1
    | error e t =>
      rw [hm] at h1
      have h2 : ({ t with cpu := s.cpu } : State).wf = true := by
        simp only [State.wf, Bool.and_eq_true] at h1 hs ⊢
        exact ⟨h1.1, hs.2⟩
      have h3 : ∀ o : Option Event, KeepsWf (match o with | some ev2 => deliver n ev2 | none => shutdown) := fun o => by
        cases o with
        | none => exact steady_shutdown.keeps_wf
        | some ev2 => exact ih ev2
      cases e with
      | exc e => exact keeps_bind (P := fun s => s.wf = true) (steady_applyExc e).keeps_wf (fun _ => h3 _) _ h2
      | committed e => exact keeps_bind (P := fun s => s.wf = true) (steady_applyExc e).keeps_wf (fun _ => h3 _) _ h1
      | refuse r => exact h1
      | shutdown => exact h1

@[simp] theorem keepsWf_softwareInterrupt (v : Byte) : KeepsWf (softwareInterrupt v) := by
  unfold softwareInterrupt
  repeat' first
    | with_reducible refine keeps_bind ?_ fun _ => ?_
    | (with_reducible refine keepsWf_modifyFlags _)
    | (simp; done)
    | (dsimp only)
    | split

@[simp] theorem keepsWf_interruptReturn : KeepsWf interruptReturn := by
  unfold interruptReturn
  repeat' first
    | with_reducible refine keeps_bind ?_ fun _ => ?_
    | (simp; done)
    | with_reducible exact (steady_stackItem _ _).keeps_wf
    | (dsimp only)
    | split

/-! ## Whole steps -/

/-- Entering shutdown keeps `State.wf`. -/
theorem enterShutdown_wf {s : State} (h : s.wf = true) : (enterShutdown s).wf = true := by
  simp only [State.wf, Bool.and_eq_true] at h ⊢
  exact ⟨⟨h.1.1, by simp [enterShutdown]⟩, h.2⟩

/-- A delivery at a boundary keeps `State.wf`. -/
theorem deliverAt_wf {ev : Event} {s t : State} (hs : s.wf = true) (h : deliverAt ev s = .next t) : t.wf = true := by
  have h1 := keepsWf_deliver deliverDepth ev s hs
  simp only [M.after] at h1
  simp only [deliverAt] at h
  cases hm : deliver deliverDepth ev s with
  | ok a u => rw [hm] at h h1; cases h; exact h1
  | error e u =>
    rw [hm] at h h1
    cases e
    case refuse => cases h
    all_goals cases h; exact enterShutdown_wf h1

/-- Taking an exception keeps `State.wf`. -/
theorem takeException_wf {e : Exc} {s t : State} (hs : s.wf = true) (h : takeException e s = .next t) : t.wf = true :=
  deliverAt_wf (s := s.mapCpu fun c => { c with cr2 := e.cr2.getD c.cr2, dbg := c.dbg.afterExc e.dr6 })
    (State.wf_mapCpu hs id) h

/-- The registers of one state over another that is well-formed. -/
theorem State.wf_restored {s t : State} (hs : s.wf = true) (ht : t.wf = true) : ({ t with cpu := s.cpu } : State).wf = true := by
  simp only [State.wf, Bool.and_eq_true] at hs ht ⊢
  exact ⟨ht.1, hs.2⟩

/-- An instruction that stops keeps `State.wf`. -/
theorem stopped_wf {b s t : State} {stop : Stop} (hb : b.wf = true) (hs : s.wf = true) (h : stopped b stop s = .next t) :
    t.wf = true := by
  cases stop with
  | exc e => exact takeException_wf (State.wf_restored (t := s) hb hs) h
  | committed e => exact takeException_wf hs h
  | refuse r => cases h
  | shutdown => cases h; exact enterShutdown_wf hs

/-- The outcome of a meaning that keeps `State.wf`. -/
theorem outcome_wf {m : M Ending} {s t : State} (hm : KeepsWf m) (hs : s.wf = true) (h : outcome s m = .next t) :
    t.wf = true := by
  have h1 := hm s hs
  simp only [M.after] at h1
  simp only [outcome] at h
  cases hr : m s with
  | ok e u =>
    rw [hr] at h h1
    simp only [complete] at h
    split at h
    · cases h
    · cases h; exact h1
  | error e u => rw [hr] at h h1; exact stopped_wf hs h1 h

/-- The outcome of an instruction whose body keeps `State.wf`. -/
theorem run_wf {i : Instr} {body : M Ending} {s t : State} (hb : KeepsWf body) (hs : s.wf = true) (h : run i body s = .next t) :
    t.wf = true :=
  outcome_wf (keeps_bind (by simp) fun _ => hb) hs h

end Sys2Proof.Machine
end

