-- ==== Sys2Proof/Laws/Families.lean ====
section
/-! SUPPORT. The operations the instructions of a family share are steady: CR0, CR3, VM and CPL stay, memory stays canonical. -/

namespace Sys2Proof.Machine

set_option linter.all false

/-- Shifts and rotates leave VM alone. -/
theorem Shift.flags_vm {n : Nat} (op : Shift) (f : EFlags) (x : BitVec n) (c : Nat) (j : Dword) :
    (op.flags f x c j).vm = f.vm := by
  cases op <;> (simp only [Shift.flags, Shift.isRotate]; split <;> rfl)

/-- A flag operation that leaves VM alone. -/
theorem steady_flagOp {f : EFlags → EFlags} (h : ∀ g, (f g).vm = g.vm) : IsSteady (flagOp f) :=
  steady_bind (steady_modifyFlags h) fun _ => steady_pure _

/-- A repetition of a steady element. -/
theorem steady_repeated (comparing : Bool) {element : M Unit} (h : IsSteady element) :
    IsSteady (repeated comparing element) := by
  unfold repeated
  repeat' first
    | exact h
    | with_reducible refine steady_bind ?_ fun _ => ?_
    | exact steady_modifyCpu fun _ => ⟨rfl, rfl, rfl, rfl⟩
    | (simp; done)
    | (dsimp only)
    | split

/-! ## Machine/Arithmetic.lean -/

@[simp] theorem steady_aluRmReg (op : Alu) (d w : Bool) (rm : RM) (reg : Reg) :
    IsSteady (aluRmReg op d w rm reg) := by
  unfold aluRmReg
  repeat' first
    | with_reducible refine steady_bind ?_ fun _ => ?_
    | ((with_reducible refine steady_modifyCpu ?_); exact fun _ => ⟨rfl, rfl, rfl, rfl⟩)
    | ((with_reducible refine steady_modifyFlags ?_); exact fun _ => rfl)
    | with_reducible exact steady_readMem _ _ _
    | (simp; done)
    | ((with_reducible refine steady_modifyFlags fun _ => ?_); first | exact Shift.flags_vm _ _ _ _ _ | (cases op <;> rfl))
    | (dsimp only)
    | split

@[simp] theorem steady_aluRmImm (op : Alu) (w : Bool) (rm : RM) (imm : Imm) :
    IsSteady (aluRmImm op w rm imm) := by
  unfold aluRmImm
  repeat' first
    | with_reducible refine steady_bind ?_ fun _ => ?_
    | ((with_reducible refine steady_modifyCpu ?_); exact fun _ => ⟨rfl, rfl, rfl, rfl⟩)
    | ((with_reducible refine steady_modifyFlags ?_); exact fun _ => rfl)
    | with_reducible exact steady_readMem _ _ _
    | (simp; done)
    | ((with_reducible refine steady_modifyFlags fun _ => ?_); first | exact Shift.flags_vm _ _ _ _ _ | (cases op <;> rfl))
    | (dsimp only)
    | split

@[simp] theorem steady_aluAccImm (op : Alu) (w : Bool) (imm : Imm) :
    IsSteady (aluAccImm op w imm) := by
  unfold aluAccImm
  repeat' first
    | with_reducible refine steady_bind ?_ fun _ => ?_
    | ((with_reducible refine steady_modifyCpu ?_); exact fun _ => ⟨rfl, rfl, rfl, rfl⟩)
    | ((with_reducible refine steady_modifyFlags ?_); exact fun _ => rfl)
    | with_reducible exact steady_readMem _ _ _
    | (simp; done)
    | ((with_reducible refine steady_modifyFlags fun _ => ?_); first | exact Shift.flags_vm _ _ _ _ _ | (cases op <;> rfl))
    | (dsimp only)
    | split

@[simp] theorem steady_compareFlags {n : Nat} (a b : BitVec n) :
    IsSteady (compareFlags a b) := by
  unfold compareFlags
  repeat' first
    | with_reducible refine steady_bind ?_ fun _ => ?_
    | ((with_reducible refine steady_modifyCpu ?_); exact fun _ => ⟨rfl, rfl, rfl, rfl⟩)
    | ((with_reducible refine steady_modifyFlags ?_); exact fun _ => rfl)
    | with_reducible exact steady_readMem _ _ _
    | (simp; done)
    | (dsimp only)
    | split

@[simp] theorem steady_afterMul (wide : Bool) :
    IsSteady (afterMul wide) := by
  unfold afterMul
  repeat' first
    | with_reducible refine steady_bind ?_ fun _ => ?_
    | ((with_reducible refine steady_modifyCpu ?_); exact fun _ => ⟨rfl, rfl, rfl, rfl⟩)
    | ((with_reducible refine steady_modifyFlags ?_); exact fun _ => rfl)
    | with_reducible exact steady_readMem _ _ _
    | (simp; done)
    | (dsimp only)
    | split

@[simp] theorem steady_signedProduct {sz : Sz} (dst : Reg) (a b : BitVec sz.bits) :
    IsSteady (signedProduct dst a b) := by
  unfold signedProduct
  repeat' first
    | with_reducible refine steady_bind ?_ fun _ => ?_
    | ((with_reducible refine steady_modifyCpu ?_); exact fun _ => ⟨rfl, rfl, rfl, rfl⟩)
    | ((with_reducible refine steady_modifyFlags ?_); exact fun _ => rfl)
    | with_reducible exact steady_readMem _ _ _
    | (simp; done)
    | (dsimp only)
    | split

/-! ## Machine/BitOps.lean -/

@[simp] theorem steady_bitFlags (b : Bool) :
    IsSteady (bitFlags b) := by
  unfold bitFlags
  repeat' first
    | with_reducible refine steady_bind ?_ fun _ => ?_
    | ((with_reducible refine steady_modifyCpu ?_); exact fun _ => ⟨rfl, rfl, rfl, rfl⟩)
    | ((with_reducible refine steady_modifyFlags ?_); exact fun _ => rfl)
    | with_reducible exact steady_readMem _ _ _
    | (simp; done)
    | (dsimp only)
    | split

@[simp] theorem steady_testBit (sz : Sz) (rm : RM) (k : Nat) (disp : Dword) :
    IsSteady (testBit sz rm k disp) := by
  unfold testBit
  repeat' first
    | with_reducible refine steady_bind ?_ fun _ => ?_
    | ((with_reducible refine steady_modifyCpu ?_); exact fun _ => ⟨rfl, rfl, rfl, rfl⟩)
    | ((with_reducible refine steady_modifyFlags ?_); exact fun _ => rfl)
    | with_reducible exact steady_readMem _ _ _
    | (simp; done)
    | (dsimp only)
    | split

@[simp] theorem steady_changeBit (f : Bool → Bool) (sz : Sz) (rm : RM) (k : Nat) (disp : Dword) :
    IsSteady (changeBit f sz rm k disp) := by
  unfold changeBit
  repeat' first
    | with_reducible refine steady_bind ?_ fun _ => ?_
    | ((with_reducible refine steady_modifyCpu ?_); exact fun _ => ⟨rfl, rfl, rfl, rfl⟩)
    | ((with_reducible refine steady_modifyFlags ?_); exact fun _ => rfl)
    | with_reducible exact steady_readMem _ _ _
    | (simp; done)
    | (dsimp only)
    | split

@[simp] theorem steady_scanBits (index : (sz : Sz) → BitVec sz.bits → Nat) (dst : Reg) (src : RM) :
    IsSteady (scanBits index dst src) := by
  unfold scanBits
  repeat' first
    | with_reducible refine steady_bind ?_ fun _ => ?_
    | ((with_reducible refine steady_modifyCpu ?_); exact fun _ => ⟨rfl, rfl, rfl, rfl⟩)
    | ((with_reducible refine steady_modifyFlags ?_); exact fun _ => rfl)
    | with_reducible exact steady_readMem _ _ _
    | (simp; done)
    | (dsimp only)
    | split

/-! ## Machine/ControlTransfer.lean -/

@[simp] theorem steady_loopWhile (cond : EFlags → Bool) (disp : Byte) :
    IsSteady (loopWhile cond disp) := by
  unfold loopWhile
  repeat' first
    | with_reducible refine steady_bind ?_ fun _ => ?_
    | ((with_reducible refine steady_modifyCpu ?_); exact fun _ => ⟨rfl, rfl, rfl, rfl⟩)
    | ((with_reducible refine steady_modifyFlags ?_); exact fun _ => rfl)
    | with_reducible exact steady_readMem _ _ _
    | (simp; done)
    | (dsimp only)
    | split

/-! ## Machine/DataTransfer.lean -/

@[simp] theorem steady_pushRegisters (sz : Sz) (g : Gpr) :
    IsSteady (pushRegisters sz g) := by
  unfold pushRegisters
  repeat' first
    | with_reducible refine steady_bind ?_ fun _ => ?_
    | ((with_reducible refine steady_modifyCpu ?_); exact fun _ => ⟨rfl, rfl, rfl, rfl⟩)
    | ((with_reducible refine steady_modifyFlags ?_); exact fun _ => rfl)
    | with_reducible exact steady_readMem _ _ _
    | (simp; done)
    | (dsimp only)
    | split

@[simp] theorem steady_popInto (sz : Sz) (r : Reg) :
    IsSteady (popInto sz r) := by
  unfold popInto
  repeat' first
    | with_reducible refine steady_bind ?_ fun _ => ?_
    | ((with_reducible refine steady_modifyCpu ?_); exact fun _ => ⟨rfl, rfl, rfl, rfl⟩)
    | ((with_reducible refine steady_modifyFlags ?_); exact fun _ => rfl)
    | with_reducible exact steady_readMem _ _ _
    | (simp; done)
    | (dsimp only)
    | split

@[simp] theorem steady_pushSegment (r : SReg) :
    IsSteady (pushSegment r) := by
  unfold pushSegment
  repeat' first
    | with_reducible refine steady_bind ?_ fun _ => ?_
    | ((with_reducible refine steady_modifyCpu ?_); exact fun _ => ⟨rfl, rfl, rfl, rfl⟩)
    | ((with_reducible refine steady_modifyFlags ?_); exact fun _ => rfl)
    | with_reducible exact steady_readMem _ _ _
    | (simp; done)
    | (dsimp only)
    | split

@[simp] theorem steady_popSegment (r : SReg) :
    IsSteady (popSegment r) := by
  unfold popSegment
  repeat' first
    | with_reducible refine steady_bind ?_ fun _ => ?_
    | ((with_reducible refine steady_modifyCpu ?_); exact fun _ => ⟨rfl, rfl, rfl, rfl⟩)
    | ((with_reducible refine steady_modifyFlags ?_); exact fun _ => rfl)
    | with_reducible exact steady_readMem _ _ _
    | (simp; done)
    | (dsimp only)
    | split

@[simp] theorem steady_inPort (w : Bool) (port : Word) :
    IsSteady (inPort w port) := by
  unfold inPort
  repeat' first
    | with_reducible refine steady_bind ?_ fun _ => ?_
    | ((with_reducible refine steady_modifyCpu ?_); exact fun _ => ⟨rfl, rfl, rfl, rfl⟩)
    | ((with_reducible refine steady_modifyFlags ?_); exact fun _ => rfl)
    | with_reducible exact steady_readMem _ _ _
    | (simp; done)
    | (dsimp only)
    | split

@[simp] theorem steady_outPort (w : Bool) (port : Word) :
    IsSteady (outPort w port) := by
  unfold outPort
  repeat' first
    | with_reducible refine steady_bind ?_ fun _ => ?_
    | ((with_reducible refine steady_modifyCpu ?_); exact fun _ => ⟨rfl, rfl, rfl, rfl⟩)
    | ((with_reducible refine steady_modifyFlags ?_); exact fun _ => rfl)
    | with_reducible exact steady_readMem _ _ _
    | (simp; done)
    | (dsimp only)
    | split

/-! ## Machine/FlagControl.lean -/

@[simp] theorem steady_requireIopl : IsSteady requireIopl := by
  unfold requireIopl
  repeat' first
    | with_reducible refine steady_bind ?_ fun _ => ?_
    | ((with_reducible refine steady_modifyCpu ?_); exact fun _ => ⟨rfl, rfl, rfl, rfl⟩)
    | ((with_reducible refine steady_modifyFlags ?_); exact fun _ => rfl)
    | with_reducible exact steady_readMem _ _ _
    | (simp; done)
    | (dsimp only)
    | split

@[simp] theorem steady_requireV86Iopl : IsSteady requireV86Iopl := by
  unfold requireV86Iopl
  repeat' first
    | with_reducible refine steady_bind ?_ fun _ => ?_
    | ((with_reducible refine steady_modifyCpu ?_); exact fun _ => ⟨rfl, rfl, rfl, rfl⟩)
    | ((with_reducible refine steady_modifyFlags ?_); exact fun _ => rfl)
    | with_reducible exact steady_readMem _ _ _
    | (simp; done)
    | (dsimp only)
    | split

/-! ## Machine/Logic.lean -/

@[simp] theorem steady_shiftRm (op : Shift) (w : Bool) (rm : RM) (count : Byte) :
    IsSteady (shiftRm op w rm count) := by
  unfold shiftRm
  repeat' first
    | with_reducible refine steady_bind ?_ fun _ => ?_
    | ((with_reducible refine steady_modifyCpu ?_); exact fun _ => ⟨rfl, rfl, rfl, rfl⟩)
    | ((with_reducible refine steady_modifyFlags ?_); exact fun _ => rfl)
    | with_reducible exact steady_readMem _ _ _
    | (simp; done)
    | ((with_reducible refine steady_modifyFlags fun _ => ?_); first | exact Shift.flags_vm _ _ _ _ _ | (cases op <;> rfl))
    | (dsimp only)
    | split

@[simp] theorem steady_doubleShift (left : Bool) (rm : RM) (reg : Reg) (count : Byte) :
    IsSteady (doubleShift left rm reg count) := by
  unfold doubleShift
  repeat' first
    | with_reducible refine steady_bind ?_ fun _ => ?_
    | ((with_reducible refine steady_modifyCpu ?_); exact fun _ => ⟨rfl, rfl, rfl, rfl⟩)
    | ((with_reducible refine steady_modifyFlags ?_); exact fun _ => rfl)
    | with_reducible exact steady_readMem _ _ _
    | (simp; done)
    | (dsimp only)
    | split

@[simp] theorem steady_logicFlags {n : Nat} (r : BitVec n) :
    IsSteady (logicFlags r) := by
  unfold logicFlags
  repeat' first
    | with_reducible refine steady_bind ?_ fun _ => ?_
    | ((with_reducible refine steady_modifyCpu ?_); exact fun _ => ⟨rfl, rfl, rfl, rfl⟩)
    | ((with_reducible refine steady_modifyFlags ?_); exact fun _ => rfl)
    | with_reducible exact steady_readMem _ _ _
    | (simp; done)
    | (dsimp only)
    | split

@[simp] theorem steady_logicRmReg (op : Logic) (d w : Bool) (rm : RM) (reg : Reg) :
    IsSteady (logicRmReg op d w rm reg) := by
  unfold logicRmReg
  repeat' first
    | with_reducible refine steady_bind ?_ fun _ => ?_
    | ((with_reducible refine steady_modifyCpu ?_); exact fun _ => ⟨rfl, rfl, rfl, rfl⟩)
    | ((with_reducible refine steady_modifyFlags ?_); exact fun _ => rfl)
    | with_reducible exact steady_readMem _ _ _
    | (simp; done)
    | (dsimp only)
    | split

@[simp] theorem steady_logicRmImm (op : Logic) (w : Bool) (rm : RM) (imm : Imm) :
    IsSteady (logicRmImm op w rm imm) := by
  unfold logicRmImm
  repeat' first
    | with_reducible refine steady_bind ?_ fun _ => ?_
    | ((with_reducible refine steady_modifyCpu ?_); exact fun _ => ⟨rfl, rfl, rfl, rfl⟩)
    | ((with_reducible refine steady_modifyFlags ?_); exact fun _ => rfl)
    | with_reducible exact steady_readMem _ _ _
    | (simp; done)
    | (dsimp only)
    | split

/-! ## Machine/Procedure.lean -/

@[simp] theorem steady_copyFrames (sz : Sz) (x : Nat) :
    IsSteady (copyFrames sz x) := by
  induction x with
  | zero => unfold copyFrames; simp
  | succ k ih =>
    unfold copyFrames
    repeat' first
      | with_reducible refine steady_bind ?_ fun _ => ?_
      | ((with_reducible refine steady_modifyCpu ?_); exact fun _ => ⟨rfl, rfl, rfl, rfl⟩)
      | exact ih
      | (simp; done)

@[simp] theorem steady_setFrame (sz : Sz) (frame : Dword) :
    IsSteady (setFrame sz frame) := by
  unfold setFrame
  repeat' first
    | with_reducible refine steady_bind ?_ fun _ => ?_
    | ((with_reducible refine steady_modifyCpu ?_); exact fun _ => ⟨rfl, rfl, rfl, rfl⟩)
    | ((with_reducible refine steady_modifyFlags ?_); exact fun _ => rfl)
    | with_reducible exact steady_readMem _ _ _
    | (simp; done)
    | (dsimp only)
    | split

@[simp] theorem steady_pushFramePointer (sz : Sz) (frame : Dword) :
    IsSteady (pushFramePointer sz frame) := by
  unfold pushFramePointer
  repeat' first
    | with_reducible refine steady_bind ?_ fun _ => ?_
    | (simp; done)
    | split

/-! ## Machine/ProcessorControl.lean -/

@[simp] theorem steady_afterSpecialMove : IsSteady afterSpecialMove := by
  unfold afterSpecialMove
  repeat' first
    | with_reducible refine steady_bind ?_ fun _ => ?_
    | ((with_reducible refine steady_modifyCpu ?_); exact fun _ => ⟨rfl, rfl, rfl, rfl⟩)
    | ((with_reducible refine steady_modifyFlags ?_); exact fun _ => rfl)
    | with_reducible exact steady_readMem _ _ _
    | (simp; done)
    | (dsimp only)
    | split

@[simp] theorem steady_requireNoGd : IsSteady requireNoGd := by
  unfold requireNoGd
  repeat' first
    | with_reducible refine steady_bind ?_ fun _ => ?_
    | ((with_reducible refine steady_modifyCpu ?_); exact fun _ => ⟨rfl, rfl, rfl, rfl⟩)
    | ((with_reducible refine steady_modifyFlags ?_); exact fun _ => rfl)
    | with_reducible exact steady_readMem _ _ _
    | (simp; done)
    | (dsimp only)
    | split

@[simp] theorem steady_setDebugReg (r : DReg) (v : Dword) :
    IsSteady (setDebugReg r v) := by
  unfold setDebugReg
  repeat' first
    | with_reducible refine steady_bind ?_ fun _ => ?_
    | ((with_reducible refine steady_modifyCpu ?_); exact fun _ => ⟨rfl, rfl, rfl, rfl⟩)
    | ((with_reducible refine steady_modifyFlags ?_); exact fun _ => rfl)
    | with_reducible exact steady_readMem _ _ _
    | (simp; done)
    | (dsimp only)
    | split

@[simp] theorem steady_checkCoOperand (rm : RM) (reqs : List CoRequest) :
    IsSteady (checkCoOperand rm reqs) := by
  unfold checkCoOperand
  repeat' first
    | with_reducible refine steady_bind ?_ fun _ => ?_
    | ((with_reducible refine steady_modifyCpu ?_); exact fun _ => ⟨rfl, rfl, rfl, rfl⟩)
    | ((with_reducible refine steady_modifyFlags ?_); exact fun _ => rfl)
    | with_reducible exact steady_readMem _ _ _
    | (simp; done)
    | (dsimp only)
    | split

@[simp] theorem steady_escChecks (exempt : Bool) (rm : RM) : IsSteady (escChecks exempt rm) := by
  unfold escChecks
  repeat' first
    | with_reducible refine steady_bind ?_ fun _ => ?_
    | (simp; done)

@[simp] theorem steady_moveWord (m : Mem) (k : Dword) (x : CoRequest) :
    IsSteady (moveWord m k x) := by
  cases x <;> unfold moveWord
  · exact steady_bind (by simp) fun _ => steady_writeMem _ _ _ _
  · exact steady_bind (steady_readMem _ _ _) fun _ => by simp


@[simp] theorem steady_moveRest (m : Mem) (n : Nat) (x : Dword) (y : List CoRequest) :
    IsSteady (moveRest m n x y) := by
  induction y generalizing x with
  | nil => unfold moveRest; simp
  | cons r rest ih =>
    unfold moveRest
    repeat' first
      | with_reducible refine steady_bind ?_ fun _ => ?_
      | exact ih _
      | exact steady_attempt (steady_moveWord _ _ _)
      | exact steady_modifyCpu fun _ => ⟨rfl, rfl, rfl, rfl⟩
      | (simp; done)
      | (dsimp only)
      | split


@[simp] theorem steady_moveOperand (m : Mem) (reqs : List CoRequest) :
    IsSteady (moveOperand m reqs) := by
  unfold moveOperand
  repeat' first
    | with_reducible refine steady_bind ?_ fun _ => ?_
    | ((with_reducible refine steady_modifyCpu ?_); exact fun _ => ⟨rfl, rfl, rfl, rfl⟩)
    | ((with_reducible refine steady_modifyFlags ?_); exact fun _ => rfl)
    | with_reducible exact steady_readMem _ _ _
    | (simp; done)
    | (dsimp only)
    | split

@[simp] theorem steady_storeStatusWord (ttt lll : BitVec 3) (r : Reg) (x : List CoRequest) :
    IsSteady (storeStatusWord ttt lll r x) := by
  unfold storeStatusWord
  repeat' first
    | with_reducible refine steady_bind ?_ fun _ => ?_
    | ((with_reducible refine steady_modifyCpu ?_); exact fun _ => ⟨rfl, rfl, rfl, rfl⟩)
    | ((with_reducible refine steady_modifyFlags ?_); exact fun _ => rfl)
    | with_reducible exact steady_readMem _ _ _
    | (simp; done)
    | (dsimp only)
    | split

/-! ## Machine/ProtectionControl.lean -/

@[simp] theorem steady_testSelector (sel : Word) :
    IsSteady (testSelector sel) := by
  unfold testSelector
  repeat' first
    | with_reducible refine steady_bind ?_ fun _ => ?_
    | ((with_reducible refine steady_modifyCpu ?_); exact fun _ => ⟨rfl, rfl, rfl, rfl⟩)
    | ((with_reducible refine steady_modifyFlags ?_); exact fun _ => rfl)
    | with_reducible exact steady_readMem _ _ _
    | (simp; done)
    | (dsimp only)
    | split

@[simp] theorem steady_testedDescriptor (accepts : Desc → Bool) (sel : Word) :
    IsSteady (testedDescriptor accepts sel) := by
  unfold testedDescriptor
  repeat' first
    | with_reducible refine steady_bind ?_ fun _ => ?_
    | ((with_reducible refine steady_modifyCpu ?_); exact fun _ => ⟨rfl, rfl, rfl, rfl⟩)
    | ((with_reducible refine steady_modifyFlags ?_); exact fun _ => rfl)
    | with_reducible exact steady_readMem _ _ _
    | (simp; done)
    | (dsimp only)
    | split

@[simp] theorem steady_finishZf (z : Bool) :
    IsSteady (finishZf z) := by
  unfold finishZf
  repeat' first
    | with_reducible refine steady_bind ?_ fun _ => ?_
    | ((with_reducible refine steady_modifyCpu ?_); exact fun _ => ⟨rfl, rfl, rfl, rfl⟩)
    | ((with_reducible refine steady_modifyFlags ?_); exact fun _ => rfl)
    | with_reducible exact steady_readMem _ _ _
    | (simp; done)
    | (dsimp only)
    | split

@[simp] theorem steady_gdtDescriptor (sel : Word) :
    IsSteady (gdtDescriptor sel) := by
  unfold gdtDescriptor
  repeat' first
    | with_reducible refine steady_bind ?_ fun _ => ?_
    | ((with_reducible refine steady_modifyCpu ?_); exact fun _ => ⟨rfl, rfl, rfl, rfl⟩)
    | ((with_reducible refine steady_modifyFlags ?_); exact fun _ => rfl)
    | with_reducible exact steady_readMem _ _ _
    | (simp; done)
    | (dsimp only)
    | split

@[simp] theorem steady_readTable (m : Mem) :
    IsSteady (readTable m) := by
  unfold readTable
  repeat' first
    | with_reducible refine steady_bind ?_ fun _ => ?_
    | ((with_reducible refine steady_modifyCpu ?_); exact fun _ => ⟨rfl, rfl, rfl, rfl⟩)
    | ((with_reducible refine steady_modifyFlags ?_); exact fun _ => rfl)
    | with_reducible exact steady_readMem _ _ _
    | (simp; done)
    | (dsimp only)
    | split

@[simp] theorem steady_storeTable (m : Mem) (t : TableReg) :
    IsSteady (storeTable m t) := by
  unfold storeTable
  repeat' first
    | with_reducible refine steady_bind ?_ fun _ => ?_
    | ((with_reducible refine steady_modifyCpu ?_); exact fun _ => ⟨rfl, rfl, rfl, rfl⟩)
    | ((with_reducible refine steady_modifyFlags ?_); exact fun _ => rfl)
    | with_reducible exact steady_readMem _ _ _
    | (simp; done)
    | (dsimp only)
    | split

/-! ## Machine/SegmentControl.lean -/

@[simp] theorem steady_loadPointer (r : SReg) (dst : Reg) (src : Mem) :
    IsSteady (loadPointer r dst src) := by
  unfold loadPointer
  repeat' first
    | with_reducible refine steady_bind ?_ fun _ => ?_
    | ((with_reducible refine steady_modifyCpu ?_); exact fun _ => ⟨rfl, rfl, rfl, rfl⟩)
    | ((with_reducible refine steady_modifyFlags ?_); exact fun _ => rfl)
    | with_reducible exact steady_readMem _ _ _
    | (simp; done)
    | (dsimp only)
    | split

/-! ## Machine/StringOps.lean -/

@[simp] theorem steady_cmpsElement (sz : Sz) :
    IsSteady (cmpsElement sz) := by
  unfold cmpsElement
  repeat' first
    | with_reducible refine steady_bind ?_ fun _ => ?_
    | ((with_reducible refine steady_modifyCpu ?_); exact fun _ => ⟨rfl, rfl, rfl, rfl⟩)
    | ((with_reducible refine steady_modifyFlags ?_); exact fun _ => rfl)
    | with_reducible exact steady_readMem _ _ _
    | (simp; done)
    | (dsimp only)
    | split

@[simp] theorem steady_insElement (sz : Sz) :
    IsSteady (insElement sz) := by
  unfold insElement
  repeat' first
    | with_reducible refine steady_bind ?_ fun _ => ?_
    | ((with_reducible refine steady_modifyCpu ?_); exact fun _ => ⟨rfl, rfl, rfl, rfl⟩)
    | ((with_reducible refine steady_modifyFlags ?_); exact fun _ => rfl)
    | with_reducible exact steady_readMem _ _ _
    | (simp; done)
    | (dsimp only)
    | split

@[simp] theorem steady_lodsElement (sz : Sz) :
    IsSteady (lodsElement sz) := by
  unfold lodsElement
  repeat' first
    | with_reducible refine steady_bind ?_ fun _ => ?_
    | ((with_reducible refine steady_modifyCpu ?_); exact fun _ => ⟨rfl, rfl, rfl, rfl⟩)
    | ((with_reducible refine steady_modifyFlags ?_); exact fun _ => rfl)
    | with_reducible exact steady_readMem _ _ _
    | (simp; done)
    | (dsimp only)
    | split

@[simp] theorem steady_movsElement (sz : Sz) :
    IsSteady (movsElement sz) := by
  unfold movsElement
  repeat' first
    | with_reducible refine steady_bind ?_ fun _ => ?_
    | ((with_reducible refine steady_modifyCpu ?_); exact fun _ => ⟨rfl, rfl, rfl, rfl⟩)
    | ((with_reducible refine steady_modifyFlags ?_); exact fun _ => rfl)
    | with_reducible exact steady_readMem _ _ _
    | (simp; done)
    | (dsimp only)
    | split

@[simp] theorem steady_outsElement (sz : Sz) :
    IsSteady (outsElement sz) := by
  unfold outsElement
  repeat' first
    | with_reducible refine steady_bind ?_ fun _ => ?_
    | ((with_reducible refine steady_modifyCpu ?_); exact fun _ => ⟨rfl, rfl, rfl, rfl⟩)
    | ((with_reducible refine steady_modifyFlags ?_); exact fun _ => rfl)
    | with_reducible exact steady_readMem _ _ _
    | (simp; done)
    | (dsimp only)
    | split

@[simp] theorem steady_scasElement (sz : Sz) :
    IsSteady (scasElement sz) := by
  unfold scasElement
  repeat' first
    | with_reducible refine steady_bind ?_ fun _ => ?_
    | ((with_reducible refine steady_modifyCpu ?_); exact fun _ => ⟨rfl, rfl, rfl, rfl⟩)
    | ((with_reducible refine steady_modifyFlags ?_); exact fun _ => rfl)
    | with_reducible exact steady_readMem _ _ _
    | (simp; done)
    | (dsimp only)
    | split

@[simp] theorem steady_stosElement (sz : Sz) :
    IsSteady (stosElement sz) := by
  unfold stosElement
  repeat' first
    | with_reducible refine steady_bind ?_ fun _ => ?_
    | ((with_reducible refine steady_modifyCpu ?_); exact fun _ => ⟨rfl, rfl, rfl, rfl⟩)
    | ((with_reducible refine steady_modifyFlags ?_); exact fun _ => rfl)
    | with_reducible exact steady_readMem _ _ _
    | (simp; done)
    | (dsimp only)
    | split
end Sys2Proof.Machine
end

