-- ==== Sys2Proof/Laws/Operations.lean ====
section
/-! SUPPORT. What the operations of the families do when they answer: shifts, bit scans and bit operands, string elements, near and
far transfers, frames, Real Mode delivery. -/

namespace Sys2Proof.Machine

/-! ## Shifts and divisions -/

theorem maskCount_eq (b : Byte) : maskCount b = b.toNat % 32 := by
  rw [maskCount, BitVec.toNat_and, show (0x1F : Byte).toNat = 2 ^ 5 - 1 from rfl, Nat.and_two_pow_sub_one_eq_mod]

/-- A shift or rotate by the count modulo 32 (R380). -/
theorem shiftRm_ok {s : State} (op : Shift) (w : Bool) (rm : RM) (b : Byte) (hc : s.canWrite (s.cpu.size w) rm = true) :
    shiftRm op w rm b s = .ok .next
      (if b.toNat % 32 = 0 then s.rmRead (s.cpu.size w) rm
       else (((s.rmRead (s.cpu.size w) rm).rmWritten (s.cpu.size w) rm
          (op.result s.cpu.flags.cf (s.rmValue (s.cpu.size w) rm) (b.toNat % 32))).drawn).withFlags
          (op.flags s.cpu.flags (s.rmValue (s.cpu.size w) rm) (b.toNat % 32) s.freeVal)) := by
  simp only [shiftRm, bind_run, opSize_run, readDest_ok hc, getFlags_run, State.rmRead_flags, maskCount_eq]
  split
  · rfl
  · simp only [bind_run, writeRM_rmRead_ok _ hc, draw_run, modifyFlags_run, pure_run]
    simp

/-- The double-length dividend in integers (R347, R348). -/
theorem dividend_toNat (s : State) (sz : Sz) :
    (s.reg sz (highReg sz) ++ s.reg sz .eax).toNat = (s.reg sz (highReg sz)).toNat * 2 ^ sz.bits + (s.reg sz .eax).toNat := by
  rw [BitVec.toNat_append, Nat.shiftLeft_eq]
  rw [← Nat.shiftLeft_eq, ← Nat.shiftLeft_add_eq_or_of_lt (s.reg sz .eax).isLt]

/-! ## Bits -/

theorem lowestBit_eq {n : Nat} (v : BitVec n) (k : Nat) (hk : v.getLsbD k = true) (h : ∀ i, i < k → v.getLsbD i = false) :
    ∀ m i, i ≤ k → k < i + m → lowestBit v i m = k := by
  intro m
  induction m with
  | zero => intro i h1 h2; omega
  | succ m ih =>
    intro i h1 h2
    rw [lowestBit]
    split
    · rename_i hi
      rcases Nat.lt_or_ge i k with hl | hl
      · rw [h i hl] at hi; cases hi
      · omega
    · rename_i hi
      have : i ≠ k := by rintro rfl; exact hi hk
      exact ih (i + 1) (by omega) (by omega)

theorem highestBit_eq {n : Nat} (v : BitVec n) (k : Nat) (hk : v.getLsbD k = true) (h : ∀ i, k < i → v.getLsbD i = false) :
    ∀ m, k < m → highestBit v m = k := by
  intro m
  induction m with
  | zero => intro h2; omega
  | succ m ih =>
    intro h2
    rw [highestBit]
    split
    · rename_i hi
      rcases Nat.lt_or_ge k m with hl | hl
      · rw [h m hl] at hi; cases hi
      · omega
    · rename_i hi
      have : m ≠ k := by rintro rfl; exact hi hk
      exact ih (by omega)

theorem verifyBitOperand_ok {s : State} {m : Mem} {disp : Dword} {sz : Sz} (h : s.memCan m disp sz.bytes .write = true) :
    verifyBitOperand sz (.mem m) disp s = .ok () s := by
  simp only [verifyBitOperand, bind_run, getCpu_run]
  exact segVerify_ok h

/-! ## String elements (R411 to R417) -/

theorem stepIndex_run (r : Reg) (sz : Sz) (s : State) : stepIndex r sz s = .ok () (s.stepped r sz) := rfl

theorem cmpsElement_ok {s : State} {sz : Sz}
    (h1 : s.canAccess s.cpu.stringSegment (s.cpu.index .esi) sz.bytes .read = true)
    (h2 : s.canAccess .es (s.cpu.index .edi) sz.bytes .read = true) :
    cmpsElement sz s = .ok () (((((s.noted (s.cpu.linear s.cpu.stringSegment (s.cpu.index .esi)) sz.bytes).noted
      (s.cpu.linear .es (s.cpu.index .edi)) sz.bytes).withFlags
      (s.cpu.flags.sub (s.loadAt (s.cpu.linear s.cpu.stringSegment (s.cpu.index .esi)) sz)
        (s.loadAt (s.cpu.linear .es (s.cpu.index .edi)) sz) false)).stepped .esi sz).stepped .edi sz) := by
  simp only [cmpsElement, bind_run, getCpu_run, segRead_ok h1]
  rw [segRead_ok (by exact h2)]
  rfl

theorem movsElement_ok {s : State} {sz : Sz}
    (h1 : s.canAccess s.cpu.stringSegment (s.cpu.index .esi) sz.bytes .read = true)
    (h2 : s.canAccess .es (s.cpu.index .edi) sz.bytes .write = true) :
    movsElement sz s = .ok () ((((s.noted (s.cpu.linear s.cpu.stringSegment (s.cpu.index .esi)) sz.bytes).storedAt
      (s.cpu.linear .es (s.cpu.index .edi)) sz
      (s.loadAt (s.cpu.linear s.cpu.stringSegment (s.cpu.index .esi)) sz)).stepped .esi sz).stepped .edi sz) := by
  simp only [movsElement, bind_run, getCpu_run, segRead_ok h1]
  rw [segWrite_ok _ (by exact h2)]
  rfl

theorem scasElement_ok {s : State} {sz : Sz} (h2 : s.canAccess .es (s.cpu.index .edi) sz.bytes .read = true) :
    scasElement sz s = .ok () (((s.noted (s.cpu.linear .es (s.cpu.index .edi)) sz.bytes).withFlags
      (s.cpu.flags.sub (s.reg sz .eax) (s.loadAt (s.cpu.linear .es (s.cpu.index .edi)) sz) false)).stepped .edi sz) := by
  simp only [scasElement, bind_run, getCpu_run, segRead_ok h2]
  rfl

theorem lodsElement_ok {s : State} {sz : Sz}
    (h1 : s.canAccess s.cpu.stringSegment (s.cpu.index .esi) sz.bytes .read = true) :
    lodsElement sz s = .ok () (((s.noted (s.cpu.linear s.cpu.stringSegment (s.cpu.index .esi)) sz.bytes).withReg sz .eax
      (s.loadAt (s.cpu.linear s.cpu.stringSegment (s.cpu.index .esi)) sz)).stepped .esi sz) := by
  simp only [lodsElement, bind_run, getCpu_run, segRead_ok h1]
  rfl

theorem stosElement_ok {s : State} {sz : Sz} (h2 : s.canAccess .es (s.cpu.index .edi) sz.bytes .write = true) :
    stosElement sz s = .ok ()
      ((s.storedAt (s.cpu.linear .es (s.cpu.index .edi)) sz (s.reg sz .eax)).stepped .edi sz) := by
  simp only [stosElement, bind_run, getCpu_run]
  rw [segWrite_ok _ h2]
  rfl

/-- Without a repeat prefix a string instruction is one element. -/
theorem repeated_once {s : State} {b : Bool} {e : M Unit} (h : s.cpu.cur.pfx.rep = none) :
    repeated b e s = (e >>= fun _ => pure .next) s := by
  simp only [repeated, bind_run, getCpu_run, h]

/-! ## Near transfers (R440, R441) -/

theorem jumpTo_ok {s : State} {t : Dword} (h : s.cpu.target t ≤ s.cpu.segs.cs.limit) :
    jumpTo t s = .ok .jumped { s with cpu := { s.cpu with eip := s.cpu.target t }, queue := [], prefetch := [], pgSwitch := none } := by
  simp only [jumpTo, requireTarget, bind_run, getCpu_run, require_run, decide_eq_true h, if_true, setEip, modifyCpu_run,
    flushPrefetch_run, pure_run]
  rfl

theorem jumpTo_beyond {s : State} {t : Dword} (h : s.cpu.segs.cs.limit < s.cpu.target t) :
    jumpTo t s = .error (.exc (.gp 0)) s := by
  have : ¬ s.cpu.target t ≤ s.cpu.segs.cs.limit := BitVec.not_le.mpr h
  simp only [jumpTo, requireTarget, bind_run, getCpu_run, require_run, decide_eq_false this, if_false, Bool.false_eq_true]

/-- A target that is an operand of the operand size is not truncated. -/
theorem Cpu.target_operand (s : State) (v : BitVec s.cpu.osz.bits) : s.cpu.target (v.setWidth 32) = v.setWidth 32 := by
  simp only [Cpu.target]
  split
  · rfl
  · rename_i h
    have : s.cpu.osz = .w := by simp [Cpu.osz, h]
    revert v
    rw [this]
    intro v
    apply BitVec.eq_of_toNat_eq
    have := v.isLt
    simp at *

/-! ## Far transfers outside Protected Mode (R55, R452) -/

theorem loadCodeReal_ok {s : State} {sel : Word} (hp : s.cpu.prot = false) :
    loadCodeReal sel s = .ok () (s.withSeg .cs (s.seg8086 .cs sel)) := by
  simp only [loadCodeReal, modifyCpu_run, State.withSeg, State.seg8086, Cpu.real, Cpu.prot] at *
  rcases Bool.eq_false_or_eq_true s.cpu.cr0.pe with h1 | h1 <;> rcases Bool.eq_false_or_eq_true s.cpu.flags.vm with h2 | h2 <;>
    simp_all [State.mapCpu, Segs.set, Segs.get]

theorem enterCode8086_ok {s : State} {sel : Word} {off : Dword} (hp : s.cpu.prot = false) :
    (do loadCodeReal sel; setEip off; pure Ending.jumped : M Ending) s = .ok .jumped (s.enteredCode8086 sel off) := by
  rw [bind_ok (loadCodeReal_ok hp)]
  rfl

theorem pushReturn_ok {s : State} {sz : Sz} (h1 : s.canPush sz = true)
    (h2 : (s.pushedSelector sz s.cpu.segs.cs.selector).canPush sz = true) :
    pushReturn sz s =
      .ok () ((s.pushedSelector sz s.cpu.segs.cs.selector).pushed sz (s.cpu.next.setWidth sz.bits)) := by
  simp only [pushReturn, bind_run, getCpu_run, pushSelector_ok h1, push_ok _ h2]

theorem State.pushed_prot (s : State) (sz : Sz) (v : BitVec sz.bits) : (s.pushed sz v).cpu.prot = s.cpu.prot := by
  simp [State.pushed, Cpu.prot]

theorem State.pushedSelector_prot (s : State) (sz : Sz) (v : Word) : (s.pushedSelector sz v).cpu.prot = s.cpu.prot := by
  simp only [State.pushedSelector, State.pushed_prot]
  cases sz <;> rfl

theorem State.pushed_flags (s : State) (sz : Sz) (v : BitVec sz.bits) : (s.pushed sz v).cpu.flags = s.cpu.flags := by
  simp [State.pushed]

theorem State.pushed_segs (s : State) (sz : Sz) (v : BitVec sz.bits) : (s.pushed sz v).cpu.segs = s.cpu.segs := by
  simp [State.pushed]

/-! ## Frames (R481) -/

theorem copyFrames_ok (sz : Sz) : ∀ (n : Nat) (s : State), s.canCopyFrames sz n = true →
    copyFrames sz n s = .ok () (s.framesCopied sz n) := by
  intro n
  induction n with
  | zero => intro s _; rfl
  | succ n ih =>
    intro s h
    simp only [State.canCopyFrames, State.canCopyFrame, Bool.and_eq_true] at h
    simp only [copyFrames, bind_run, modifyCpu_run, getCpu_run, segRead_ok h.1.1]
    rw [push_ok _ (by exact h.1.2)]
    exact ih _ h.2

/-- The new frame pointer pushed (R481). -/
theorem pushFramePointer_ok {s : State} {sz : Sz} {frame : Dword} (h : s.canPush sz = true) :
    pushFramePointer sz frame s = .ok () (s.framePointerPushed sz frame) := by
  simp only [pushFramePointer, bind_run, getCpu_run, State.framePointerPushed]
  split
  · exact push_ok _ h
  · exact pushSelector_ok h

/-! ## Fetching (R7, R8, R202) -/

@[simp] theorem State.wordQueued_cpu (s : State) (a : PAddr) (b : Byte) : (s.wordQueued a b).cpu = s.cpu := by
  unfold State.wordQueued; split <;> rfl
@[simp] theorem State.wordQueued_mem (s : State) (a : PAddr) (b : Byte) : (s.wordQueued a b).mem = s.mem := by
  unfold State.wordQueued; split <;> rfl
@[simp] theorem State.wordQueued_tlb (s : State) (a : PAddr) (b : Byte) : (s.wordQueued a b).tlb = s.tlb := by
  unfold State.wordQueued; split <;> rfl
@[simp] theorem State.wordQueued_prefetch (s : State) (a : PAddr) (b : Byte) : (s.wordQueued a b).prefetch = s.prefetch := by
  unfold State.wordQueued; split <;> rfl
@[simp] theorem State.wordQueued_pgSwitch (s : State) (a : PAddr) (b : Byte) : (s.wordQueued a b).pgSwitch = s.pgSwitch := by
  unfold State.wordQueued; split <;> rfl
@[simp] theorem State.wordQueued_free (s : State) (a : PAddr) (b : Byte) : (s.wordQueued a b).free = s.free := by
  unfold State.wordQueued; split <;> rfl

/-- With paging off and the queue emptied since CR0.PG last changed, code is fetched at its linear address. -/
theorem translateCode_off {s : State} (la : Dword) (hp : s.cpu.cr0.pg = false) (h : s.pgSwitch = none) :
    translateCode la s = .ok (la.setWidth 24) s := by
  simp [translateCode, bind_run, State.queuedBeforeSwitch, h, hp, fetchAddress]

/-- A fetch of a byte that was not overwritten: its word is read and queued unless it is in the queue. -/
theorem fetchPhysical_ok {s : State} (a : PAddr) (h : s.prefetch = []) :
    fetchPhysical a s = .ok (s.mem.read a)
      (if s.queue.contains (a &&& 0xFFFFFE) then s
       else { s.traced (.memRead true (s.mem.cellsAt [a &&& 0xFFFFFE, (a &&& 0xFFFFFE) + 1])) with
         queue := ((a &&& 0xFFFFFE) :: s.queue).take 8 }) := by
  have hb : ∀ x : PAddr, (if x = a then s.mem.read a else s.mem.read x) = s.mem.read x := fun x => by
    split
    · rename_i e; rw [e]
    · rfl
  simp only [fetchPhysical, bind_run, getState_run, State.staleBytes, h, List.filter_nil, List.map_nil, chooseStale, pure_run,
    queueWord, State.wordQueued, codeWord, Memory.cellsAt, hb]
  rfl

/-! ## Real Mode delivery (R621, R622) -/

theorem deliverOnce_real {s : State} {ev : Event} (h : s.canEnterReal ev.vector ev.ret = true) :
    deliverOnce ev s = .ok ()
      (if ev.vector == 1 && ev.kind == .exception then (s.realEntered ev.vector ev.ret).withoutGd ev.vector
       else s.realEntered ev.vector ev.ret) := by
  simp only [State.canEnterReal, Bool.and_eq_true, Bool.not_eq_true', decide_eq_true_eq] at h
  obtain ⟨⟨⟨⟨hr, hpg⟩, hs⟩, hl⟩, hp⟩ := h
  simp only [State.canPushAll, Bool.and_eq_true, and_true] at hp
  obtain ⟨p1, p2, p3⟩ := hp
  simp only [deliverOnce, bind_run, requireSettledMode_ok hs, getCpu_run, hr, if_true, deliverReal]
  rw [if_neg (by omega)]
  simp only [bind_run, sysRead_off hpg]
  rw [sysRead_off (by exact hpg)]
  have hv : (s.sysLoaded (s.cpu.idtr.base + BitVec.setWidth 32 ev.vector <<< 2) Sz.w.bytes).sysLoaded
      (s.cpu.idtr.base + BitVec.setWidth 32 ev.vector <<< 2 + 2) Sz.w.bytes = s.vectorLoaded ev.vector := rfl
  simp only [hv, State.sysLoaded_loadAt]
  rw [push_ok _ p1]
  simp only []
  rw [push_ok _ p2]
  simp only []
  rw [push_ok _ p3]
  have hf : ((((s.vectorLoaded ev.vector).pushed .w s.cpu.flags.image16).pushed .w s.cpu.segs.cs.selector).pushed .w
      (ev.ret.setWidth 16)).cpu.flags = s.cpu.flags := by
    rw [State.pushed_flags, State.pushed_flags, State.pushed_flags]; rfl
  have hg : ((((s.vectorLoaded ev.vector).pushed .w s.cpu.flags.image16).pushed .w s.cpu.segs.cs.selector).pushed .w
      (ev.ret.setWidth 16)).cpu.segs = s.cpu.segs := by
    rw [State.pushed_segs, State.pushed_segs, State.pushed_segs]; rfl
  simp only [modifyCpu_run, setEip, flushPrefetch_run, bind_run, State.realEntered, State.pushedAll, State.loadAt]
  generalize (((s.vectorLoaded ev.vector).pushed .w s.cpu.flags.image16).pushed .w s.cpu.segs.cs.selector).pushed .w (ev.ret.setWidth 16) = t at hf hg ⊢
  cases hv : (ev.vector == 1 && ev.kind == .exception)
  · simp [State.mapCpu, hf, hg, Segs.set]
  · have h1 : ev.vector = 1 := by simp at hv; exact hv.1
    simp [State.mapCpu, State.withoutGd, hf, hg, Segs.set, h1]

theorem deliver_real {s : State} {ev : Event} (h : s.canEnterReal ev.vector ev.ret = true) :
    deliver deliverDepth ev s = .ok ()
      (if ev.vector == 1 && ev.kind == .exception then (s.realEntered ev.vector ev.ret).withoutGd ev.vector
       else s.realEntered ev.vector ev.ret) := by
  rw [deliverDepth, deliver]
  simp only [deliverOnce_real h]

end Sys2Proof.Machine
end

