-- ==== Sys2Proof/Laws/PerInstr.lean ====
section
/-! SUPPORT. Per instruction: its encoding has at least one byte and fits in the longest instruction (R202). -/

namespace Sys2Proof.Laws

theorem Imm.bytes_le (v : Imm) : v.bytes.length ≤ 4 := by cases v <;> simp [Imm.bytes, bytes16, bytes32]

theorem Mem.bytes_le (m : Mem) (reg : BitVec 3) : (m.bytes reg).length ≤ 6 := by
  cases m with
  | direct16 d => simp [Mem.bytes, bytes16]
  | base16 b d => cases d <;> simp [Mem.bytes, bytes16]
  | direct32 d => simp [Mem.bytes, bytes32]
  | base32 b d => cases d <;> simp [Mem.bytes, bytes32]
  | sib s x b d => cases d <;> simp [Mem.bytes, bytes32]
  | sibNoBase s x d => simp [Mem.bytes, bytes32]

theorem RM.bytes_le (rm : RM) (reg : BitVec 3) : (rm.bytes reg).length ≤ 6 := by
  cases rm with
  | reg r => simp [RM.bytes]
  | mem m => exact Mem.bytes_le m reg

/-- The encoding has at least one byte and at most fifteen. -/
def Encoding.Statement (i : Instr) : Prop := 0 < (encode i).length ∧ (encode i).length ≤ maxLength

theorem statement_of_cons {i : Instr} {b : Byte} (l : List Byte) (h : encode i = b :: l) (hl : l.length ≤ 14) :
    Encoding.Statement i := by
  rw [Encoding.Statement, h]
  exact ⟨Nat.zero_lt_succ _, Nat.succ_le_succ hl⟩

theorem append_le {l l' : List Byte} {m n : Nat} (h : l.length ≤ m) (h' : l'.length ≤ n) : (l ++ l').length ≤ m + n := by
  rw [List.length_append]; omega

theorem cons_le {l : List Byte} {b : Byte} {n : Nat} (h : l.length ≤ n) : (b :: l).length ≤ n + 1 := Nat.succ_le_succ h

theorem Encoding.movRmReg (w : Bool) (dst : RM) (src : Reg) : Encoding.Statement (.movRmReg w dst src) :=
  statement_of_cons (dst.bytes src.num) rfl (Nat.le_trans (RM.bytes_le dst src.num) (by decide))

theorem Encoding.movRegRm (w : Bool) (dst : Reg) (src : RM) : Encoding.Statement (.movRegRm w dst src) :=
  statement_of_cons (src.bytes dst.num) rfl (Nat.le_trans (RM.bytes_le src dst.num) (by decide))

theorem Encoding.movRmImm (w : Bool) (dst : RM) (imm : Imm) : Encoding.Statement (.movRmImm w dst imm) :=
  statement_of_cons (dst.bytes 0 ++ imm.bytes) rfl (Nat.le_trans (append_le (RM.bytes_le dst 0) (Imm.bytes_le imm)) (by decide))

theorem Encoding.movRegImm (w : Bool) (dst : Reg) (imm : Imm) : Encoding.Statement (.movRegImm w dst imm) :=
  statement_of_cons (imm.bytes) rfl (Nat.le_trans (Imm.bytes_le imm) (by decide))

theorem Encoding.movAccMoffs (w : Bool) (off : Imm) : Encoding.Statement (.movAccMoffs w off) :=
  statement_of_cons (off.bytes) rfl (Nat.le_trans (Imm.bytes_le off) (by decide))

theorem Encoding.movMoffsAcc (w : Bool) (off : Imm) : Encoding.Statement (.movMoffsAcc w off) :=
  statement_of_cons (off.bytes) rfl (Nat.le_trans (Imm.bytes_le off) (by decide))

theorem Encoding.movSregRm (dst : SReg) (src : RM) : Encoding.Statement (.movSregRm dst src) :=
  statement_of_cons (src.bytes dst.num) rfl (Nat.le_trans (RM.bytes_le src dst.num) (by decide))

theorem Encoding.movRmSreg (dst : RM) (src : SReg) : Encoding.Statement (.movRmSreg dst src) :=
  statement_of_cons (dst.bytes src.num) rfl (Nat.le_trans (RM.bytes_le dst src.num) (by decide))

theorem Encoding.movsx (w : Bool) (dst : Reg) (src : RM) : Encoding.Statement (.movsx w dst src) :=
  statement_of_cons ([((0b1011111#7) ++ bit w : Byte)] ++ src.bytes dst.num) rfl (Nat.le_trans (append_le (Nat.le_refl 1) (RM.bytes_le src dst.num)) (by decide))

theorem Encoding.movzx (w : Bool) (dst : Reg) (src : RM) : Encoding.Statement (.movzx w dst src) :=
  statement_of_cons ([((0b1011011#7) ++ bit w : Byte)] ++ src.bytes dst.num) rfl (Nat.le_trans (append_le (Nat.le_refl 1) (RM.bytes_le src dst.num)) (by decide))

theorem Encoding.pushRm (src : RM) : Encoding.Statement (.pushRm src) :=
  statement_of_cons (src.bytes 6) rfl (Nat.le_trans (RM.bytes_le src 6) (by decide))

theorem Encoding.pushReg (src : Reg) : Encoding.Statement (.pushReg src) :=
  statement_of_cons ([]) rfl (Nat.zero_le 14)

theorem Encoding.pushSreg (src : SReg2) : Encoding.Statement (.pushSreg src) :=
  statement_of_cons ([]) rfl (Nat.zero_le 14)

theorem Encoding.pushFs : Encoding.Statement .pushFs :=
  statement_of_cons ([0xA0]) rfl (Nat.le_trans (Nat.le_refl 1) (by decide))

theorem Encoding.pushGs : Encoding.Statement .pushGs :=
  statement_of_cons ([0xA8]) rfl (Nat.le_trans (Nat.le_refl 1) (by decide))

theorem Encoding.pushImm (s : Bool) (imm : Imm) : Encoding.Statement (.pushImm s imm) :=
  statement_of_cons (imm.bytes) rfl (Nat.le_trans (Imm.bytes_le imm) (by decide))

theorem Encoding.pusha : Encoding.Statement .pusha :=
  statement_of_cons ([]) rfl (Nat.zero_le 14)

theorem Encoding.popRm (dst : RM) : Encoding.Statement (.popRm dst) :=
  statement_of_cons (dst.bytes 0) rfl (Nat.le_trans (RM.bytes_le dst 0) (by decide))

theorem Encoding.popReg (dst : Reg) : Encoding.Statement (.popReg dst) :=
  statement_of_cons ([]) rfl (Nat.zero_le 14)

theorem Encoding.popEs : Encoding.Statement .popEs :=
  statement_of_cons ([]) rfl (Nat.zero_le 14)

theorem Encoding.popSs : Encoding.Statement .popSs :=
  statement_of_cons ([]) rfl (Nat.zero_le 14)

theorem Encoding.popDs : Encoding.Statement .popDs :=
  statement_of_cons ([]) rfl (Nat.zero_le 14)

theorem Encoding.popFs : Encoding.Statement .popFs :=
  statement_of_cons ([0xA1]) rfl (Nat.le_trans (Nat.le_refl 1) (by decide))

theorem Encoding.popGs : Encoding.Statement .popGs :=
  statement_of_cons ([0xA9]) rfl (Nat.le_trans (Nat.le_refl 1) (by decide))

theorem Encoding.popa : Encoding.Statement .popa :=
  statement_of_cons ([]) rfl (Nat.zero_le 14)

theorem Encoding.xchgRmReg (w : Bool) (rm : RM) (reg : Reg) : Encoding.Statement (.xchgRmReg w rm reg) :=
  statement_of_cons (rm.bytes reg.num) rfl (Nat.le_trans (RM.bytes_le rm reg.num) (by decide))

theorem Encoding.xchgRegAcc (reg : Reg) : Encoding.Statement (.xchgRegAcc reg) :=
  statement_of_cons ([]) rfl (Nat.zero_le 14)

theorem Encoding.inImm (w : Bool) (port : Byte) : Encoding.Statement (.inImm w port) :=
  statement_of_cons ([port]) rfl (Nat.le_trans (Nat.le_refl 1) (by decide))

theorem Encoding.inDx (w : Bool) : Encoding.Statement (.inDx w) :=
  statement_of_cons ([]) rfl (Nat.zero_le 14)

theorem Encoding.outImm (w : Bool) (port : Byte) : Encoding.Statement (.outImm w port) :=
  statement_of_cons ([port]) rfl (Nat.le_trans (Nat.le_refl 1) (by decide))

theorem Encoding.outDx (w : Bool) : Encoding.Statement (.outDx w) :=
  statement_of_cons ([]) rfl (Nat.zero_le 14)

theorem Encoding.lea (dst : Reg) (src : Mem) : Encoding.Statement (.lea dst src) :=
  statement_of_cons (src.bytes dst.num) rfl (Nat.le_trans (Mem.bytes_le src dst.num) (by decide))

theorem Encoding.lds (dst : Reg) (src : Mem) : Encoding.Statement (.lds dst src) :=
  statement_of_cons (src.bytes dst.num) rfl (Nat.le_trans (Mem.bytes_le src dst.num) (by decide))

theorem Encoding.les (dst : Reg) (src : Mem) : Encoding.Statement (.les dst src) :=
  statement_of_cons (src.bytes dst.num) rfl (Nat.le_trans (Mem.bytes_le src dst.num) (by decide))

theorem Encoding.lfs (dst : Reg) (src : Mem) : Encoding.Statement (.lfs dst src) :=
  statement_of_cons ([0xB4] ++ src.bytes dst.num) rfl (Nat.le_trans (append_le (Nat.le_refl 1) (Mem.bytes_le src dst.num)) (by decide))

theorem Encoding.lgs (dst : Reg) (src : Mem) : Encoding.Statement (.lgs dst src) :=
  statement_of_cons ([0xB5] ++ src.bytes dst.num) rfl (Nat.le_trans (append_le (Nat.le_refl 1) (Mem.bytes_le src dst.num)) (by decide))

theorem Encoding.lss (dst : Reg) (src : Mem) : Encoding.Statement (.lss dst src) :=
  statement_of_cons ([0xB2] ++ src.bytes dst.num) rfl (Nat.le_trans (append_le (Nat.le_refl 1) (Mem.bytes_le src dst.num)) (by decide))

theorem Encoding.clc : Encoding.Statement .clc :=
  statement_of_cons ([]) rfl (Nat.zero_le 14)

theorem Encoding.cld : Encoding.Statement .cld :=
  statement_of_cons ([]) rfl (Nat.zero_le 14)

theorem Encoding.cli : Encoding.Statement .cli :=
  statement_of_cons ([]) rfl (Nat.zero_le 14)

theorem Encoding.clts : Encoding.Statement .clts :=
  statement_of_cons ([0x06]) rfl (Nat.le_trans (Nat.le_refl 1) (by decide))

theorem Encoding.cmc : Encoding.Statement .cmc :=
  statement_of_cons ([]) rfl (Nat.zero_le 14)

theorem Encoding.lahf : Encoding.Statement .lahf :=
  statement_of_cons ([]) rfl (Nat.zero_le 14)

theorem Encoding.popf : Encoding.Statement .popf :=
  statement_of_cons ([]) rfl (Nat.zero_le 14)

theorem Encoding.pushf : Encoding.Statement .pushf :=
  statement_of_cons ([]) rfl (Nat.zero_le 14)

theorem Encoding.sahf : Encoding.Statement .sahf :=
  statement_of_cons ([]) rfl (Nat.zero_le 14)

theorem Encoding.sti : Encoding.Statement .sti :=
  statement_of_cons ([]) rfl (Nat.zero_le 14)

theorem Encoding.stc : Encoding.Statement .stc :=
  statement_of_cons ([]) rfl (Nat.zero_le 14)

theorem Encoding.std : Encoding.Statement .std :=
  statement_of_cons ([]) rfl (Nat.zero_le 14)

theorem Encoding.addRmReg (d w : Bool) (rm : RM) (reg : Reg) : Encoding.Statement (.addRmReg d w rm reg) :=
  statement_of_cons (rm.bytes reg.num) rfl (Nat.le_trans (RM.bytes_le rm reg.num) (by decide))

theorem Encoding.addRmImm (s w : Bool) (rm : RM) (imm : Imm) : Encoding.Statement (.addRmImm s w rm imm) :=
  statement_of_cons (rm.bytes 0 ++ imm.bytes) rfl (Nat.le_trans (append_le (RM.bytes_le rm 0) (Imm.bytes_le imm)) (by decide))

theorem Encoding.addAccImm (w : Bool) (imm : Imm) : Encoding.Statement (.addAccImm w imm) :=
  statement_of_cons (imm.bytes) rfl (Nat.le_trans (Imm.bytes_le imm) (by decide))

theorem Encoding.adcRmReg (d w : Bool) (rm : RM) (reg : Reg) : Encoding.Statement (.adcRmReg d w rm reg) :=
  statement_of_cons (rm.bytes reg.num) rfl (Nat.le_trans (RM.bytes_le rm reg.num) (by decide))

theorem Encoding.adcRmImm (s w : Bool) (rm : RM) (imm : Imm) : Encoding.Statement (.adcRmImm s w rm imm) :=
  statement_of_cons (rm.bytes 2 ++ imm.bytes) rfl (Nat.le_trans (append_le (RM.bytes_le rm 2) (Imm.bytes_le imm)) (by decide))

theorem Encoding.adcAccImm (w : Bool) (imm : Imm) : Encoding.Statement (.adcAccImm w imm) :=
  statement_of_cons (imm.bytes) rfl (Nat.le_trans (Imm.bytes_le imm) (by decide))

theorem Encoding.subRmReg (d w : Bool) (rm : RM) (reg : Reg) : Encoding.Statement (.subRmReg d w rm reg) :=
  statement_of_cons (rm.bytes reg.num) rfl (Nat.le_trans (RM.bytes_le rm reg.num) (by decide))

theorem Encoding.subRmImm (s w : Bool) (rm : RM) (imm : Imm) : Encoding.Statement (.subRmImm s w rm imm) :=
  statement_of_cons (rm.bytes 5 ++ imm.bytes) rfl (Nat.le_trans (append_le (RM.bytes_le rm 5) (Imm.bytes_le imm)) (by decide))

theorem Encoding.subAccImm (w : Bool) (imm : Imm) : Encoding.Statement (.subAccImm w imm) :=
  statement_of_cons (imm.bytes) rfl (Nat.le_trans (Imm.bytes_le imm) (by decide))

theorem Encoding.sbbRmReg (d w : Bool) (rm : RM) (reg : Reg) : Encoding.Statement (.sbbRmReg d w rm reg) :=
  statement_of_cons (rm.bytes reg.num) rfl (Nat.le_trans (RM.bytes_le rm reg.num) (by decide))

theorem Encoding.sbbRmImm (s w : Bool) (rm : RM) (imm : Imm) : Encoding.Statement (.sbbRmImm s w rm imm) :=
  statement_of_cons (rm.bytes 3 ++ imm.bytes) rfl (Nat.le_trans (append_le (RM.bytes_le rm 3) (Imm.bytes_le imm)) (by decide))

theorem Encoding.sbbAccImm (w : Bool) (imm : Imm) : Encoding.Statement (.sbbAccImm w imm) :=
  statement_of_cons (imm.bytes) rfl (Nat.le_trans (Imm.bytes_le imm) (by decide))

theorem Encoding.cmpRmReg (d w : Bool) (rm : RM) (reg : Reg) : Encoding.Statement (.cmpRmReg d w rm reg) :=
  statement_of_cons (rm.bytes reg.num) rfl (Nat.le_trans (RM.bytes_le rm reg.num) (by decide))

theorem Encoding.cmpRmImm (s w : Bool) (rm : RM) (imm : Imm) : Encoding.Statement (.cmpRmImm s w rm imm) :=
  statement_of_cons (rm.bytes 7 ++ imm.bytes) rfl (Nat.le_trans (append_le (RM.bytes_le rm 7) (Imm.bytes_le imm)) (by decide))

theorem Encoding.cmpAccImm (w : Bool) (imm : Imm) : Encoding.Statement (.cmpAccImm w imm) :=
  statement_of_cons (imm.bytes) rfl (Nat.le_trans (Imm.bytes_le imm) (by decide))

theorem Encoding.incRm (w : Bool) (rm : RM) : Encoding.Statement (.incRm w rm) :=
  statement_of_cons (rm.bytes 0) rfl (Nat.le_trans (RM.bytes_le rm 0) (by decide))

theorem Encoding.incReg (reg : Reg) : Encoding.Statement (.incReg reg) :=
  statement_of_cons ([]) rfl (Nat.zero_le 14)

theorem Encoding.decRm (w : Bool) (rm : RM) : Encoding.Statement (.decRm w rm) :=
  statement_of_cons (rm.bytes 1) rfl (Nat.le_trans (RM.bytes_le rm 1) (by decide))

theorem Encoding.decReg (reg : Reg) : Encoding.Statement (.decReg reg) :=
  statement_of_cons ([]) rfl (Nat.zero_le 14)

theorem Encoding.negRm (w : Bool) (rm : RM) : Encoding.Statement (.negRm w rm) :=
  statement_of_cons (rm.bytes 3) rfl (Nat.le_trans (RM.bytes_le rm 3) (by decide))

theorem Encoding.aaa : Encoding.Statement .aaa :=
  statement_of_cons ([]) rfl (Nat.zero_le 14)

theorem Encoding.aas : Encoding.Statement .aas :=
  statement_of_cons ([]) rfl (Nat.zero_le 14)

theorem Encoding.daa : Encoding.Statement .daa :=
  statement_of_cons ([]) rfl (Nat.zero_le 14)

theorem Encoding.das : Encoding.Statement .das :=
  statement_of_cons ([]) rfl (Nat.zero_le 14)

theorem Encoding.mulAcc (w : Bool) (src : RM) : Encoding.Statement (.mulAcc w src) :=
  statement_of_cons (src.bytes 4) rfl (Nat.le_trans (RM.bytes_le src 4) (by decide))

theorem Encoding.imulAcc (w : Bool) (src : RM) : Encoding.Statement (.imulAcc w src) :=
  statement_of_cons (src.bytes 5) rfl (Nat.le_trans (RM.bytes_le src 5) (by decide))

theorem Encoding.imulRegRm (dst : Reg) (src : RM) : Encoding.Statement (.imulRegRm dst src) :=
  statement_of_cons ([0xAF] ++ src.bytes dst.num) rfl (Nat.le_trans (append_le (Nat.le_refl 1) (RM.bytes_le src dst.num)) (by decide))

theorem Encoding.imulRegRmImm (s : Bool) (dst : Reg) (src : RM) (imm : Imm) : Encoding.Statement (.imulRegRmImm s dst src imm) :=
  statement_of_cons (src.bytes dst.num ++ imm.bytes) rfl (Nat.le_trans (append_le (RM.bytes_le src dst.num) (Imm.bytes_le imm)) (by decide))

theorem Encoding.divAcc (w : Bool) (src : RM) : Encoding.Statement (.divAcc w src) :=
  statement_of_cons (src.bytes 6) rfl (Nat.le_trans (RM.bytes_le src 6) (by decide))

theorem Encoding.idivAcc (w : Bool) (src : RM) : Encoding.Statement (.idivAcc w src) :=
  statement_of_cons (src.bytes 7) rfl (Nat.le_trans (RM.bytes_le src 7) (by decide))

theorem Encoding.aad : Encoding.Statement .aad :=
  statement_of_cons ([0x0A]) rfl (Nat.le_trans (Nat.le_refl 1) (by decide))

theorem Encoding.aam : Encoding.Statement .aam :=
  statement_of_cons ([0x0A]) rfl (Nat.le_trans (Nat.le_refl 1) (by decide))

theorem Encoding.cbw : Encoding.Statement .cbw :=
  statement_of_cons ([]) rfl (Nat.zero_le 14)

theorem Encoding.cwd : Encoding.Statement .cwd :=
  statement_of_cons ([]) rfl (Nat.zero_le 14)

theorem Encoding.rolOne (w : Bool) (rm : RM) : Encoding.Statement (.rolOne w rm) :=
  statement_of_cons (rm.bytes 0) rfl (Nat.le_trans (RM.bytes_le rm 0) (by decide))

theorem Encoding.rolCl (w : Bool) (rm : RM) : Encoding.Statement (.rolCl w rm) :=
  statement_of_cons (rm.bytes 0) rfl (Nat.le_trans (RM.bytes_le rm 0) (by decide))

theorem Encoding.rolImm (w : Bool) (rm : RM) (count : Byte) : Encoding.Statement (.rolImm w rm count) :=
  statement_of_cons (rm.bytes 0 ++ [count]) rfl (Nat.le_trans (append_le (RM.bytes_le rm 0) (Nat.le_refl 1)) (by decide))

theorem Encoding.rorOne (w : Bool) (rm : RM) : Encoding.Statement (.rorOne w rm) :=
  statement_of_cons (rm.bytes 1) rfl (Nat.le_trans (RM.bytes_le rm 1) (by decide))

theorem Encoding.rorCl (w : Bool) (rm : RM) : Encoding.Statement (.rorCl w rm) :=
  statement_of_cons (rm.bytes 1) rfl (Nat.le_trans (RM.bytes_le rm 1) (by decide))

theorem Encoding.rorImm (w : Bool) (rm : RM) (count : Byte) : Encoding.Statement (.rorImm w rm count) :=
  statement_of_cons (rm.bytes 1 ++ [count]) rfl (Nat.le_trans (append_le (RM.bytes_le rm 1) (Nat.le_refl 1)) (by decide))

theorem Encoding.rclOne (w : Bool) (rm : RM) : Encoding.Statement (.rclOne w rm) :=
  statement_of_cons (rm.bytes 2) rfl (Nat.le_trans (RM.bytes_le rm 2) (by decide))

theorem Encoding.rclCl (w : Bool) (rm : RM) : Encoding.Statement (.rclCl w rm) :=
  statement_of_cons (rm.bytes 2) rfl (Nat.le_trans (RM.bytes_le rm 2) (by decide))

theorem Encoding.rclImm (w : Bool) (rm : RM) (count : Byte) : Encoding.Statement (.rclImm w rm count) :=
  statement_of_cons (rm.bytes 2 ++ [count]) rfl (Nat.le_trans (append_le (RM.bytes_le rm 2) (Nat.le_refl 1)) (by decide))

theorem Encoding.rcrOne (w : Bool) (rm : RM) : Encoding.Statement (.rcrOne w rm) :=
  statement_of_cons (rm.bytes 3) rfl (Nat.le_trans (RM.bytes_le rm 3) (by decide))

theorem Encoding.rcrCl (w : Bool) (rm : RM) : Encoding.Statement (.rcrCl w rm) :=
  statement_of_cons (rm.bytes 3) rfl (Nat.le_trans (RM.bytes_le rm 3) (by decide))

theorem Encoding.rcrImm (w : Bool) (rm : RM) (count : Byte) : Encoding.Statement (.rcrImm w rm count) :=
  statement_of_cons (rm.bytes 3 ++ [count]) rfl (Nat.le_trans (append_le (RM.bytes_le rm 3) (Nat.le_refl 1)) (by decide))

theorem Encoding.shlOne (w : Bool) (rm : RM) : Encoding.Statement (.shlOne w rm) :=
  statement_of_cons (rm.bytes 4) rfl (Nat.le_trans (RM.bytes_le rm 4) (by decide))

theorem Encoding.shlCl (w : Bool) (rm : RM) : Encoding.Statement (.shlCl w rm) :=
  statement_of_cons (rm.bytes 4) rfl (Nat.le_trans (RM.bytes_le rm 4) (by decide))

theorem Encoding.shlImm (w : Bool) (rm : RM) (count : Byte) : Encoding.Statement (.shlImm w rm count) :=
  statement_of_cons (rm.bytes 4 ++ [count]) rfl (Nat.le_trans (append_le (RM.bytes_le rm 4) (Nat.le_refl 1)) (by decide))

theorem Encoding.shrOne (w : Bool) (rm : RM) : Encoding.Statement (.shrOne w rm) :=
  statement_of_cons (rm.bytes 5) rfl (Nat.le_trans (RM.bytes_le rm 5) (by decide))

theorem Encoding.shrCl (w : Bool) (rm : RM) : Encoding.Statement (.shrCl w rm) :=
  statement_of_cons (rm.bytes 5) rfl (Nat.le_trans (RM.bytes_le rm 5) (by decide))

theorem Encoding.shrImm (w : Bool) (rm : RM) (count : Byte) : Encoding.Statement (.shrImm w rm count) :=
  statement_of_cons (rm.bytes 5 ++ [count]) rfl (Nat.le_trans (append_le (RM.bytes_le rm 5) (Nat.le_refl 1)) (by decide))

theorem Encoding.sarOne (w : Bool) (rm : RM) : Encoding.Statement (.sarOne w rm) :=
  statement_of_cons (rm.bytes 7) rfl (Nat.le_trans (RM.bytes_le rm 7) (by decide))

theorem Encoding.sarCl (w : Bool) (rm : RM) : Encoding.Statement (.sarCl w rm) :=
  statement_of_cons (rm.bytes 7) rfl (Nat.le_trans (RM.bytes_le rm 7) (by decide))

theorem Encoding.sarImm (w : Bool) (rm : RM) (count : Byte) : Encoding.Statement (.sarImm w rm count) :=
  statement_of_cons (rm.bytes 7 ++ [count]) rfl (Nat.le_trans (append_le (RM.bytes_le rm 7) (Nat.le_refl 1)) (by decide))

theorem Encoding.shldImm (rm : RM) (reg : Reg) (count : Byte) : Encoding.Statement (.shldImm rm reg count) :=
  statement_of_cons ([0xA4] ++ rm.bytes reg.num ++ [count]) rfl (Nat.le_trans (append_le (append_le (Nat.le_refl 1) (RM.bytes_le rm reg.num)) (Nat.le_refl 1)) (by decide))

theorem Encoding.shldCl (rm : RM) (reg : Reg) : Encoding.Statement (.shldCl rm reg) :=
  statement_of_cons ([0xA5] ++ rm.bytes reg.num) rfl (Nat.le_trans (append_le (Nat.le_refl 1) (RM.bytes_le rm reg.num)) (by decide))

theorem Encoding.shrdImm (rm : RM) (reg : Reg) (count : Byte) : Encoding.Statement (.shrdImm rm reg count) :=
  statement_of_cons ([0xAC] ++ rm.bytes reg.num ++ [count]) rfl (Nat.le_trans (append_le (append_le (Nat.le_refl 1) (RM.bytes_le rm reg.num)) (Nat.le_refl 1)) (by decide))

theorem Encoding.shrdCl (rm : RM) (reg : Reg) : Encoding.Statement (.shrdCl rm reg) :=
  statement_of_cons ([0xAD] ++ rm.bytes reg.num) rfl (Nat.le_trans (append_le (Nat.le_refl 1) (RM.bytes_le rm reg.num)) (by decide))

theorem Encoding.andRmReg (d w : Bool) (rm : RM) (reg : Reg) : Encoding.Statement (.andRmReg d w rm reg) :=
  statement_of_cons (rm.bytes reg.num) rfl (Nat.le_trans (RM.bytes_le rm reg.num) (by decide))

theorem Encoding.andRmImm (w : Bool) (rm : RM) (imm : Imm) : Encoding.Statement (.andRmImm w rm imm) :=
  statement_of_cons (rm.bytes 4 ++ imm.bytes) rfl (Nat.le_trans (append_le (RM.bytes_le rm 4) (Imm.bytes_le imm)) (by decide))

theorem Encoding.andRmImm8 (rm : RM) (imm : Byte) : Encoding.Statement (.andRmImm8 rm imm) :=
  statement_of_cons (rm.bytes 4 ++ [imm]) rfl (Nat.le_trans (append_le (RM.bytes_le rm 4) (Nat.le_refl 1)) (by decide))

theorem Encoding.andAccImm (w : Bool) (imm : Imm) : Encoding.Statement (.andAccImm w imm) :=
  statement_of_cons (imm.bytes) rfl (Nat.le_trans (Imm.bytes_le imm) (by decide))

theorem Encoding.orRmReg (d w : Bool) (rm : RM) (reg : Reg) : Encoding.Statement (.orRmReg d w rm reg) :=
  statement_of_cons (rm.bytes reg.num) rfl (Nat.le_trans (RM.bytes_le rm reg.num) (by decide))

theorem Encoding.orRmImm (w : Bool) (rm : RM) (imm : Imm) : Encoding.Statement (.orRmImm w rm imm) :=
  statement_of_cons (rm.bytes 1 ++ imm.bytes) rfl (Nat.le_trans (append_le (RM.bytes_le rm 1) (Imm.bytes_le imm)) (by decide))

theorem Encoding.orRmImm8 (rm : RM) (imm : Byte) : Encoding.Statement (.orRmImm8 rm imm) :=
  statement_of_cons (rm.bytes 1 ++ [imm]) rfl (Nat.le_trans (append_le (RM.bytes_le rm 1) (Nat.le_refl 1)) (by decide))

theorem Encoding.orAccImm (w : Bool) (imm : Imm) : Encoding.Statement (.orAccImm w imm) :=
  statement_of_cons (imm.bytes) rfl (Nat.le_trans (Imm.bytes_le imm) (by decide))

theorem Encoding.xorRmReg (d w : Bool) (rm : RM) (reg : Reg) : Encoding.Statement (.xorRmReg d w rm reg) :=
  statement_of_cons (rm.bytes reg.num) rfl (Nat.le_trans (RM.bytes_le rm reg.num) (by decide))

theorem Encoding.xorRmImm (w : Bool) (rm : RM) (imm : Imm) : Encoding.Statement (.xorRmImm w rm imm) :=
  statement_of_cons (rm.bytes 6 ++ imm.bytes) rfl (Nat.le_trans (append_le (RM.bytes_le rm 6) (Imm.bytes_le imm)) (by decide))

theorem Encoding.xorRmImm8 (rm : RM) (imm : Byte) : Encoding.Statement (.xorRmImm8 rm imm) :=
  statement_of_cons (rm.bytes 6 ++ [imm]) rfl (Nat.le_trans (append_le (RM.bytes_le rm 6) (Nat.le_refl 1)) (by decide))

theorem Encoding.xorAccImm (w : Bool) (imm : Imm) : Encoding.Statement (.xorAccImm w imm) :=
  statement_of_cons (imm.bytes) rfl (Nat.le_trans (Imm.bytes_le imm) (by decide))

theorem Encoding.testRmReg (w : Bool) (rm : RM) (reg : Reg) : Encoding.Statement (.testRmReg w rm reg) :=
  statement_of_cons (rm.bytes reg.num) rfl (Nat.le_trans (RM.bytes_le rm reg.num) (by decide))

theorem Encoding.testRmImm (w : Bool) (rm : RM) (imm : Imm) : Encoding.Statement (.testRmImm w rm imm) :=
  statement_of_cons (rm.bytes 0 ++ imm.bytes) rfl (Nat.le_trans (append_le (RM.bytes_le rm 0) (Imm.bytes_le imm)) (by decide))

theorem Encoding.testAccImm (w : Bool) (imm : Imm) : Encoding.Statement (.testAccImm w imm) :=
  statement_of_cons (imm.bytes) rfl (Nat.le_trans (Imm.bytes_le imm) (by decide))

theorem Encoding.notRm (w : Bool) (rm : RM) : Encoding.Statement (.notRm w rm) :=
  statement_of_cons (rm.bytes 2) rfl (Nat.le_trans (RM.bytes_le rm 2) (by decide))

theorem Encoding.cmps (w : Bool) : Encoding.Statement (.cmps w) :=
  statement_of_cons ([]) rfl (Nat.zero_le 14)

theorem Encoding.ins (w : Bool) : Encoding.Statement (.ins w) :=
  statement_of_cons ([]) rfl (Nat.zero_le 14)

theorem Encoding.lods (w : Bool) : Encoding.Statement (.lods w) :=
  statement_of_cons ([]) rfl (Nat.zero_le 14)

theorem Encoding.movs (w : Bool) : Encoding.Statement (.movs w) :=
  statement_of_cons ([]) rfl (Nat.zero_le 14)

theorem Encoding.outs (w : Bool) : Encoding.Statement (.outs w) :=
  statement_of_cons ([]) rfl (Nat.zero_le 14)

theorem Encoding.scas (w : Bool) : Encoding.Statement (.scas w) :=
  statement_of_cons ([]) rfl (Nat.zero_le 14)

theorem Encoding.stos (w : Bool) : Encoding.Statement (.stos w) :=
  statement_of_cons ([]) rfl (Nat.zero_le 14)

theorem Encoding.xlat : Encoding.Statement .xlat :=
  statement_of_cons ([]) rfl (Nat.zero_le 14)

theorem Encoding.repPrefix : Encoding.Statement .repPrefix :=
  statement_of_cons ([]) rfl (Nat.zero_le 14)

theorem Encoding.repnePrefix : Encoding.Statement .repnePrefix :=
  statement_of_cons ([]) rfl (Nat.zero_le 14)

theorem Encoding.bsf (dst : Reg) (src : RM) : Encoding.Statement (.bsf dst src) :=
  statement_of_cons ([0xBC] ++ src.bytes dst.num) rfl (Nat.le_trans (append_le (Nat.le_refl 1) (RM.bytes_le src dst.num)) (by decide))

theorem Encoding.bsr (dst : Reg) (src : RM) : Encoding.Statement (.bsr dst src) :=
  statement_of_cons ([0xBD] ++ src.bytes dst.num) rfl (Nat.le_trans (append_le (Nat.le_refl 1) (RM.bytes_le src dst.num)) (by decide))

theorem Encoding.btImm (rm : RM) (off : Byte) : Encoding.Statement (.btImm rm off) :=
  statement_of_cons ([0xBA] ++ rm.bytes 4 ++ [off]) rfl (Nat.le_trans (append_le (append_le (Nat.le_refl 1) (RM.bytes_le rm 4)) (Nat.le_refl 1)) (by decide))

theorem Encoding.btReg (rm : RM) (reg : Reg) : Encoding.Statement (.btReg rm reg) :=
  statement_of_cons ([0xA3] ++ rm.bytes reg.num) rfl (Nat.le_trans (append_le (Nat.le_refl 1) (RM.bytes_le rm reg.num)) (by decide))

theorem Encoding.btcImm (rm : RM) (off : Byte) : Encoding.Statement (.btcImm rm off) :=
  statement_of_cons ([0xBA] ++ rm.bytes 7 ++ [off]) rfl (Nat.le_trans (append_le (append_le (Nat.le_refl 1) (RM.bytes_le rm 7)) (Nat.le_refl 1)) (by decide))

theorem Encoding.btcReg (rm : RM) (reg : Reg) : Encoding.Statement (.btcReg rm reg) :=
  statement_of_cons ([0xBB] ++ rm.bytes reg.num) rfl (Nat.le_trans (append_le (Nat.le_refl 1) (RM.bytes_le rm reg.num)) (by decide))

theorem Encoding.btrImm (rm : RM) (off : Byte) : Encoding.Statement (.btrImm rm off) :=
  statement_of_cons ([0xBA] ++ rm.bytes 6 ++ [off]) rfl (Nat.le_trans (append_le (append_le (Nat.le_refl 1) (RM.bytes_le rm 6)) (Nat.le_refl 1)) (by decide))

theorem Encoding.btrReg (rm : RM) (reg : Reg) : Encoding.Statement (.btrReg rm reg) :=
  statement_of_cons ([0xB3] ++ rm.bytes reg.num) rfl (Nat.le_trans (append_le (Nat.le_refl 1) (RM.bytes_le rm reg.num)) (by decide))

theorem Encoding.btsImm (rm : RM) (off : Byte) : Encoding.Statement (.btsImm rm off) :=
  statement_of_cons ([0xBA] ++ rm.bytes 5 ++ [off]) rfl (Nat.le_trans (append_le (append_le (Nat.le_refl 1) (RM.bytes_le rm 5)) (Nat.le_refl 1)) (by decide))

theorem Encoding.btsReg (rm : RM) (reg : Reg) : Encoding.Statement (.btsReg rm reg) :=
  statement_of_cons ([0xAB] ++ rm.bytes reg.num) rfl (Nat.le_trans (append_le (Nat.le_refl 1) (RM.bytes_le rm reg.num)) (by decide))

theorem Encoding.callRel (disp : Imm) : Encoding.Statement (.callRel disp) :=
  statement_of_cons (disp.bytes) rfl (Nat.le_trans (Imm.bytes_le disp) (by decide))

theorem Encoding.callRm (target : RM) : Encoding.Statement (.callRm target) :=
  statement_of_cons (target.bytes 2) rfl (Nat.le_trans (RM.bytes_le target 2) (by decide))

theorem Encoding.jmpShort (disp : Byte) : Encoding.Statement (.jmpShort disp) :=
  statement_of_cons ([disp]) rfl (Nat.le_trans (Nat.le_refl 1) (by decide))

theorem Encoding.jmpRel (disp : Imm) : Encoding.Statement (.jmpRel disp) :=
  statement_of_cons (disp.bytes) rfl (Nat.le_trans (Imm.bytes_le disp) (by decide))

theorem Encoding.jmpRm (target : RM) : Encoding.Statement (.jmpRm target) :=
  statement_of_cons (target.bytes 4) rfl (Nat.le_trans (RM.bytes_le target 4) (by decide))

theorem Encoding.retNear : Encoding.Statement .retNear :=
  statement_of_cons ([]) rfl (Nat.zero_le 14)

theorem Encoding.retNearImm (bytes : Word) : Encoding.Statement (.retNearImm bytes) :=
  statement_of_cons (bytes16 bytes) rfl (Nat.le_trans (Nat.le_refl 2) (by decide))

theorem Encoding.jccShort (c : Cond) (disp : Byte) : Encoding.Statement (.jccShort c disp) :=
  statement_of_cons ([disp]) rfl (Nat.le_trans (Nat.le_refl 1) (by decide))

theorem Encoding.jccNear (c : Cond) (disp : Imm) : Encoding.Statement (.jccNear c disp) :=
  statement_of_cons ([((0b1000#4) ++ c.num : Byte)] ++ disp.bytes) rfl (Nat.le_trans (append_le (Nat.le_refl 1) (Imm.bytes_le disp)) (by decide))

theorem Encoding.jcxz (disp : Byte) : Encoding.Statement (.jcxz disp) :=
  statement_of_cons ([disp]) rfl (Nat.le_trans (Nat.le_refl 1) (by decide))

theorem Encoding.loop (disp : Byte) : Encoding.Statement (.loop disp) :=
  statement_of_cons ([disp]) rfl (Nat.le_trans (Nat.le_refl 1) (by decide))

theorem Encoding.loopz (disp : Byte) : Encoding.Statement (.loopz disp) :=
  statement_of_cons ([disp]) rfl (Nat.le_trans (Nat.le_refl 1) (by decide))

theorem Encoding.loopnz (disp : Byte) : Encoding.Statement (.loopnz disp) :=
  statement_of_cons ([disp]) rfl (Nat.le_trans (Nat.le_refl 1) (by decide))

theorem Encoding.callFar (off : Imm) (sel : Word) : Encoding.Statement (.callFar off sel) :=
  statement_of_cons (off.bytes ++ bytes16 sel) rfl (Nat.le_trans (append_le (Imm.bytes_le off) (Nat.le_refl 2)) (by decide))

theorem Encoding.callFarMem (target : Mem) : Encoding.Statement (.callFarMem target) :=
  statement_of_cons (target.bytes 3) rfl (Nat.le_trans (Mem.bytes_le target 3) (by decide))

theorem Encoding.jmpFar (off : Imm) (sel : Word) : Encoding.Statement (.jmpFar off sel) :=
  statement_of_cons (off.bytes ++ bytes16 sel) rfl (Nat.le_trans (append_le (Imm.bytes_le off) (Nat.le_refl 2)) (by decide))

theorem Encoding.jmpFarMem (target : Mem) : Encoding.Statement (.jmpFarMem target) :=
  statement_of_cons (target.bytes 5) rfl (Nat.le_trans (Mem.bytes_le target 5) (by decide))

theorem Encoding.retFar : Encoding.Statement .retFar :=
  statement_of_cons ([]) rfl (Nat.zero_le 14)

theorem Encoding.retFarImm (bytes : Word) : Encoding.Statement (.retFarImm bytes) :=
  statement_of_cons (bytes16 bytes) rfl (Nat.le_trans (Nat.le_refl 2) (by decide))

theorem Encoding.setcc (c : Cond) (dst : RM) : Encoding.Statement (.setcc c dst) :=
  statement_of_cons ([((0b1001#4) ++ c.num : Byte)] ++ dst.bytes 0) rfl (Nat.le_trans (append_le (Nat.le_refl 1) (RM.bytes_le dst 0)) (by decide))

theorem Encoding.enter (size : Word) (level : Byte) : Encoding.Statement (.enter size level) :=
  statement_of_cons (bytes16 size ++ [level]) rfl (Nat.le_trans (append_le (Nat.le_refl 2) (Nat.le_refl 1)) (by decide))

theorem Encoding.leave : Encoding.Statement .leave :=
  statement_of_cons ([]) rfl (Nat.zero_le 14)

theorem Encoding.int (vector : Byte) : Encoding.Statement (.int vector) :=
  statement_of_cons ([vector]) rfl (Nat.le_trans (Nat.le_refl 1) (by decide))

theorem Encoding.int3 : Encoding.Statement .int3 :=
  statement_of_cons ([]) rfl (Nat.zero_le 14)

theorem Encoding.into : Encoding.Statement .into :=
  statement_of_cons ([]) rfl (Nat.zero_le 14)

theorem Encoding.bound (index : Reg) (bounds : Mem) : Encoding.Statement (.bound index bounds) :=
  statement_of_cons (bounds.bytes index.num) rfl (Nat.le_trans (Mem.bytes_le bounds index.num) (by decide))

theorem Encoding.iret : Encoding.Statement .iret :=
  statement_of_cons ([]) rfl (Nat.zero_le 14)

theorem Encoding.hlt : Encoding.Statement .hlt :=
  statement_of_cons ([]) rfl (Nat.zero_le 14)

theorem Encoding.movCrReg (dst : CReg) (src : Reg) : Encoding.Statement (.movCrReg dst src) :=
  statement_of_cons ([0x22, ((0b11#2) ++ dst.num ++ src.num : Byte)]) rfl (Nat.le_trans (Nat.le_refl 2) (by decide))

theorem Encoding.movRegCr (dst : Reg) (src : CReg) : Encoding.Statement (.movRegCr dst src) :=
  statement_of_cons ([0x20, ((0b11#2) ++ src.num ++ dst.num : Byte)]) rfl (Nat.le_trans (Nat.le_refl 2) (by decide))

theorem Encoding.movDrReg (dst : DReg) (src : Reg) : Encoding.Statement (.movDrReg dst src) :=
  statement_of_cons ([0x23, ((0b11#2) ++ dst.num ++ src.num : Byte)]) rfl (Nat.le_trans (Nat.le_refl 2) (by decide))

theorem Encoding.movRegDr (dst : Reg) (src : DReg) : Encoding.Statement (.movRegDr dst src) :=
  statement_of_cons ([0x21, ((0b11#2) ++ src.num ++ dst.num : Byte)]) rfl (Nat.le_trans (Nat.le_refl 2) (by decide))

theorem Encoding.movTrReg (dst : TReg) (src : Reg) : Encoding.Statement (.movTrReg dst src) :=
  statement_of_cons ([0x26, ((0b11#2) ++ dst.num ++ src.num : Byte)]) rfl (Nat.le_trans (Nat.le_refl 2) (by decide))

theorem Encoding.movRegTr (dst : Reg) (src : TReg) : Encoding.Statement (.movRegTr dst src) :=
  statement_of_cons ([0x24, ((0b11#2) ++ src.num ++ dst.num : Byte)]) rfl (Nat.le_trans (Nat.le_refl 2) (by decide))

theorem Encoding.nop : Encoding.Statement .nop :=
  statement_of_cons ([]) rfl (Nat.zero_le 14)

theorem Encoding.wait : Encoding.Statement .wait :=
  statement_of_cons ([]) rfl (Nat.zero_le 14)

theorem Encoding.esc (ttt lll : BitVec 3) (rm : RM) : Encoding.Statement (.esc ttt lll rm) :=
  statement_of_cons (rm.bytes lll) rfl (Nat.le_trans (RM.bytes_le rm lll) (by decide))

theorem Encoding.addressSizePrefix : Encoding.Statement .addressSizePrefix :=
  statement_of_cons ([]) rfl (Nat.zero_le 14)

theorem Encoding.lockPrefix : Encoding.Statement .lockPrefix :=
  statement_of_cons ([]) rfl (Nat.zero_le 14)

theorem Encoding.operandSizePrefix : Encoding.Statement .operandSizePrefix :=
  statement_of_cons ([]) rfl (Nat.zero_le 14)

theorem Encoding.csPrefix : Encoding.Statement .csPrefix :=
  statement_of_cons ([]) rfl (Nat.zero_le 14)

theorem Encoding.dsPrefix : Encoding.Statement .dsPrefix :=
  statement_of_cons ([]) rfl (Nat.zero_le 14)

theorem Encoding.esPrefix : Encoding.Statement .esPrefix :=
  statement_of_cons ([]) rfl (Nat.zero_le 14)

theorem Encoding.fsPrefix : Encoding.Statement .fsPrefix :=
  statement_of_cons ([]) rfl (Nat.zero_le 14)

theorem Encoding.gsPrefix : Encoding.Statement .gsPrefix :=
  statement_of_cons ([]) rfl (Nat.zero_le 14)

theorem Encoding.ssPrefix : Encoding.Statement .ssPrefix :=
  statement_of_cons ([]) rfl (Nat.zero_le 14)

theorem Encoding.arpl (dst : RM) (src : Reg) : Encoding.Statement (.arpl dst src) :=
  statement_of_cons (dst.bytes src.num) rfl (Nat.le_trans (RM.bytes_le dst src.num) (by decide))

theorem Encoding.lar (dst : Reg) (src : RM) : Encoding.Statement (.lar dst src) :=
  statement_of_cons ([0x02] ++ src.bytes dst.num) rfl (Nat.le_trans (append_le (Nat.le_refl 1) (RM.bytes_le src dst.num)) (by decide))

theorem Encoding.lgdt (src : Mem) : Encoding.Statement (.lgdt src) :=
  statement_of_cons ([0x01] ++ src.bytes 2) rfl (Nat.le_trans (append_le (Nat.le_refl 1) (Mem.bytes_le src 2)) (by decide))

theorem Encoding.lidt (src : Mem) : Encoding.Statement (.lidt src) :=
  statement_of_cons ([0x01] ++ src.bytes 3) rfl (Nat.le_trans (append_le (Nat.le_refl 1) (Mem.bytes_le src 3)) (by decide))

theorem Encoding.lldt (src : RM) : Encoding.Statement (.lldt src) :=
  statement_of_cons ([0x00] ++ src.bytes 2) rfl (Nat.le_trans (append_le (Nat.le_refl 1) (RM.bytes_le src 2)) (by decide))

theorem Encoding.lmsw (src : RM) : Encoding.Statement (.lmsw src) :=
  statement_of_cons ([0x01] ++ src.bytes 6) rfl (Nat.le_trans (append_le (Nat.le_refl 1) (RM.bytes_le src 6)) (by decide))

theorem Encoding.lsl (dst : Reg) (src : RM) : Encoding.Statement (.lsl dst src) :=
  statement_of_cons ([0x03] ++ src.bytes dst.num) rfl (Nat.le_trans (append_le (Nat.le_refl 1) (RM.bytes_le src dst.num)) (by decide))

theorem Encoding.ltr (src : RM) : Encoding.Statement (.ltr src) :=
  statement_of_cons ([0x00] ++ src.bytes 3) rfl (Nat.le_trans (append_le (Nat.le_refl 1) (RM.bytes_le src 3)) (by decide))

theorem Encoding.sgdt (dst : Mem) : Encoding.Statement (.sgdt dst) :=
  statement_of_cons ([0x01] ++ dst.bytes 0) rfl (Nat.le_trans (append_le (Nat.le_refl 1) (Mem.bytes_le dst 0)) (by decide))

theorem Encoding.sidt (dst : Mem) : Encoding.Statement (.sidt dst) :=
  statement_of_cons ([0x01] ++ dst.bytes 1) rfl (Nat.le_trans (append_le (Nat.le_refl 1) (Mem.bytes_le dst 1)) (by decide))

theorem Encoding.sldt (dst : RM) : Encoding.Statement (.sldt dst) :=
  statement_of_cons ([0x00] ++ dst.bytes 0) rfl (Nat.le_trans (append_le (Nat.le_refl 1) (RM.bytes_le dst 0)) (by decide))

theorem Encoding.smsw (dst : RM) : Encoding.Statement (.smsw dst) :=
  statement_of_cons ([0x01] ++ dst.bytes 4) rfl (Nat.le_trans (append_le (Nat.le_refl 1) (RM.bytes_le dst 4)) (by decide))

theorem Encoding.str (dst : RM) : Encoding.Statement (.str dst) :=
  statement_of_cons ([0x00] ++ dst.bytes 1) rfl (Nat.le_trans (append_le (Nat.le_refl 1) (RM.bytes_le dst 1)) (by decide))

theorem Encoding.verr (src : RM) : Encoding.Statement (.verr src) :=
  statement_of_cons ([0x00] ++ src.bytes 4) rfl (Nat.le_trans (append_le (Nat.le_refl 1) (RM.bytes_le src 4)) (by decide))

theorem Encoding.verw (src : RM) : Encoding.Statement (.verw src) :=
  statement_of_cons ([0x00] ++ src.bytes 5) rfl (Nat.le_trans (append_le (Nat.le_refl 1) (RM.bytes_le src 5)) (by decide))

end Sys2Proof.Laws
end

