-- ==== Sys2Proof/Laws/Protected.lean ====
section
/-! SUPPORT. What the shared operations of Protected Mode do with paging off, one lemma each: descriptors, segment loads, the
permission map, code segments, gates, and the stores of a task switch. -/

namespace Sys2Proof.Machine

/-! ## Descriptors (R120, R122) -/

@[simp] theorem State.descLoaded_cpu (s : State) (la : Dword) : (s.descLoaded la).cpu = s.cpu := rfl
@[simp] theorem State.descLoaded_mem (s : State) (la : Dword) : (s.descLoaded la).mem = s.mem := rfl
@[simp] theorem State.descLoaded_tlb (s : State) (la : Dword) : (s.descLoaded la).tlb = s.tlb := rfl
@[simp] theorem State.descLoaded_queue (s : State) (la : Dword) : (s.descLoaded la).queue = s.queue := rfl
@[simp] theorem State.descLoaded_pgSwitch (s : State) (la : Dword) : (s.descLoaded la).pgSwitch = s.pgSwitch := rfl
@[simp] theorem State.descLoaded_free (s : State) (la : Dword) : (s.descLoaded la).free = s.free := rfl
@[simp] theorem State.descLoaded_loadAt (s : State) (la la' : Dword) (sz : Sz) :
    (s.descLoaded la).loadAt la' sz = s.loadAt la' sz := rfl
@[simp] theorem State.descLoaded_descAt (s : State) (la la' : Dword) : (s.descLoaded la).descAt la' = s.descAt la' := rfl
@[simp] theorem State.sysLoaded_descAt (s : State) (la la' : Dword) (n : Nat) :
    (s.sysLoaded la n).descAt la' = s.descAt la' := rfl
@[simp] theorem State.noted_descAt (s : State) (la la' : Dword) (n : Nat) : (s.noted la n).descAt la' = s.descAt la' := rfl
@[simp] theorem State.rmRead_descAt (s : State) (sz : Sz) (rm : RM) (la : Dword) :
    (s.rmRead sz rm).descAt la = s.descAt la := by
  cases rm <;> rfl
@[simp] theorem State.marked_cpu (s : State) (la : Dword) (d : Desc) : (s.marked la d).cpu = s.cpu := by
  simp only [State.marked]; split <;> simp
@[simp] theorem State.marked_tlb (s : State) (la : Dword) (d : Desc) : (s.marked la d).tlb = s.tlb := by
  simp only [State.marked]; split <;> simp
@[simp] theorem State.marked_queue (s : State) (la : Dword) (d : Desc) : (s.marked la d).queue = s.queue := by
  simp only [State.marked]; split <;> simp
@[simp] theorem State.marked_pgSwitch (s : State) (la : Dword) (d : Desc) : (s.marked la d).pgSwitch = s.pgSwitch := by
  simp only [State.marked]; split <;> simp
@[simp] theorem State.marked_free (s : State) (la : Dword) (d : Desc) : (s.marked la d).free = s.free := by
  simp only [State.marked]; split <;> simp

/-- Where a descriptor lies depends on the tables alone. -/
theorem descriptorAddr_congr {c e : Cpu} (h1 : e.gdtr = c.gdtr) (h2 : e.ldtr = c.ldtr) (sel : Word) :
    descriptorAddr e sel = descriptorAddr c sel := by
  simp only [descriptorAddr, h1, h2]

/-- A selector inside its table: its descriptor is read (R120). -/
theorem readDescriptor_ok {s : State} {sel : Word} {la : Dword} {bad : Exc} (hpg : s.cpu.cr0.pg = false)
    (h : descriptorAddr s.cpu sel = some la) : readDescriptor sel bad s = .ok (s.descAt la) (s.descLoaded la) := by
  simp only [readDescriptor, bind_run, getCpu_run, h, readDescriptorAt_off hpg]

/-- A selector outside its table raises the exception its rule names (R120). -/
theorem readDescriptor_none {s : State} {sel : Word} {bad : Exc} (h : descriptorAddr s.cpu sel = none) :
    readDescriptor sel bad s = .error (.exc bad) s := by
  simp only [readDescriptor, bind_run, getCpu_run, h, raiseExc_run]

/-- The Accessed bit is set where it was clear (R122). -/
theorem setAccessed_ok {s : State} {sel : Word} {la : Dword} (d : Desc) (hpg : s.cpu.cr0.pg = false)
    (h : descriptorAddr s.cpu sel = some la) : setAccessed sel d s = .ok () (s.marked la d) := by
  simp only [setAccessed, State.marked]
  split
  · rfl
  · simp only [setRights, bind_run, getCpu_run, h, sysWrite_off hpg]

/-! ## Segment loads (R127, R128) -/

/-- A load of DS, ES, FS or GS whose selector names a descriptor. -/
theorem loadData_run {s : State} {r : SReg} {sel : Word} {la : Dword} {bad : Word → Exc} (hpg : s.cpu.cr0.pg = false)
    (hn : isNull sel = false) (h : descriptorAddr s.cpu sel = some la) :
    let d := s.descAt la
    loadData bad r sel s =
      if ((d.s && (!d.exec || d.rw)) && ((d.exec && d.ec) || (decide (s.cpu.cpl ≤ d.dpl) && decide (rpl sel ≤ d.dpl)))) = true then
        if d.present = true then .ok () (((s.descLoaded la).marked la d).withSeg r (d.cache sel))
        else .error (.exc (.np (selCode sel))) (s.descLoaded la)
      else .error (.exc (bad (selCode sel))) (s.descLoaded la) := by
  intro d
  have hd : s.descAt la = d := rfl
  have hfit : (d.s && !(d.exec && !d.rw)) = (d.s && (!d.exec || d.rw)) := by simp
  simp only [loadData, bind_run, getCpu_run, hn, Bool.false_eq_true, if_false, readDescriptor_ok hpg h, require_run, hd, hfit]
  cases h1 : (d.s && (!d.exec || d.rw))
  · simp
  · have hs : d.s = true := by revert h1; cases d.s <;> simp
    simp only [if_true, Desc.isConforming, hs, Bool.true_and]
    cases h2 : ((d.exec && d.ec) || (decide (s.cpu.cpl ≤ d.dpl) && decide (rpl sel ≤ d.dpl)))
    · simp
    · cases h3 : d.present
      · simp
      · simp only [if_true]
        rw [setAccessed_ok d (by exact hpg) (by exact h)]
        rfl

/-- A load of SS whose selector names a descriptor. -/
theorem loadStack_run {s : State} {level : BitVec 2} {sel : Word} {la : Dword} {bad : Word → Exc} (hpg : s.cpu.cr0.pg = false)
    (hn : isNull sel = false) (h : descriptorAddr s.cpu sel = some la) :
    let d := s.descAt la
    loadStack bad level sel s =
      if ((d.s && !d.exec && d.rw) && (rpl sel == level && d.dpl == level)) = true then
        if d.present = true then .ok () (((s.descLoaded la).marked la d).withSeg .ss (d.cache sel))
        else .error (.exc (.ss (selCode sel))) (s.descLoaded la)
      else .error (.exc (bad (selCode sel))) (s.descLoaded la) := by
  intro d
  have hd : s.descAt la = d := rfl
  simp only [loadStack, bind_run, hn, Bool.not_false, require_run, if_true, readDescriptor_ok hpg h, hd, Desc.isStack]
  cases h1 : (rpl sel == level)
  · simp
  · cases h2 : (d.s && !d.exec && d.rw)
    · simp
    · cases h3 : (d.dpl == level)
      · simp
      · cases h4 : d.present
        · simp
        · simp only [if_true, Bool.and_self]
          rw [setAccessed_ok d (by exact hpg) (by exact h)]
          rfl

/-- In Protected Mode an instruction loads SS at the CPL, another register as R127 says (R267, R300). -/
theorem loadSegment_prot {s : State} {r : SReg} {sel : Word} (hp : s.cpu.prot = true) (hs : s.cpu.peSwitched = false) :
    loadSegment r sel s = if r = .ss then loadStack .gp s.cpu.cpl sel s else loadData .gp r sel s := by
  have h1 : s.cpu.real = false := by simp only [Cpu.prot, Cpu.real] at *; cases h : s.cpu.cr0.pe <;> simp_all
  have h2 : s.cpu.v86 = false := by simp only [Cpu.prot, Cpu.v86] at *; cases h : s.cpu.flags.vm <;> simp_all
  simp only [loadSegment, bind_run, requireSettledMode_ok hs, getCpu_run, h1, h2, Bool.false_eq_true, if_false]
  split <;> rfl

/-! ## The permission map (R138) -/

theorem ioBitsClear_run : ∀ (n : Nat) (s : State) (port : Nat), s.cpu.cr0.pg = false →
    ioBitsClear (s.loadAt (s.cpu.tr.base + 0x66) .w) port n s =
      .ok ((List.range n).all fun i => s.ioPortClear (port + i)) (s.ioBitsRead port n) := by
  intro n
  induction n with
  | zero => intro s port _; rfl
  | succ n ih =>
    intro s port hpg
    have hall : ((List.range (n + 1)).all fun i => s.ioPortClear (port + i)) =
        (s.ioPortClear port && (List.range n).all fun i => s.ioPortClear (port + 1 + i)) := by
      rw [List.range_succ_eq_map]
      simp [List.all_map, Function.comp_def, Nat.add_comm, Nat.add_left_comm]
    rw [hall]
    simp only [ioBitsClear, ioBitClear, bind_run, getCpu_run, State.ioBitsRead]
    have hoff : s.ioMapOffset port = (s.loadAt (s.cpu.tr.base + 0x66) .w).toNat + port / 8 := rfl
    by_cases hl : s.ioMapOffset port ≤ s.cpu.tr.limit.toNat
    · have hb : s.ioPortClear port = !(s.loadAt (s.ioMapLinear port) .b).getLsbD (port % 8) := by
        simp [State.ioPortClear, hl]
      rw [if_pos (by rw [← hoff]; exact hl), if_pos hl]
      simp only [bind_run, sysRead_off hpg, pure_run]
      have hla : s.cpu.tr.base + BitVec.ofNat 32 ((s.loadAt (s.cpu.tr.base + 0x66) .w).toNat + port / 8) =
          s.ioMapLinear port := rfl
      rw [hla]
      cases hc : s.ioPortClear port
      · have : (!(s.loadAt (s.ioMapLinear port) .b).getLsbD (port % 8)) = false := by rw [← hb]; exact hc
        simp only [this, Bool.false_eq_true, if_false, pure_run, Bool.false_and, Sz.bytes]
      · have : (!(s.loadAt (s.ioMapLinear port) .b).getLsbD (port % 8)) = true := by rw [← hb]; exact hc
        simp only [this, if_true, Bool.true_and]
        exact ih (s.sysLoaded (s.ioMapLinear port) 1) (port + 1) hpg
    · rw [if_neg (by rw [← hoff]; exact hl), if_neg hl]
      simp [State.ioPortClear, hl]

/-- The ports may be accessed or not, and what of the map is read to tell (R138). -/
theorem requireIo_run {s : State} (h : (s.cpu.ioFree || !s.cpu.cr0.pg) = true) (port : Word) (n : Nat) :
    requireIo port n s = if s.ioPermits port n = true then .ok () (s.ioChecked port n)
      else .error (.exc (.gp 0)) (s.ioChecked port n) := by
  by_cases hf : s.cpu.ioFree = true
  · simp only [requireIo_ok hf, State.ioPermits, State.ioChecked, hf, Bool.true_or, if_true]
  · have hf' : s.cpu.ioFree = false := by simpa using hf
    have hpg : s.cpu.cr0.pg = false := by simpa [hf'] using h
    simp only [Cpu.ioFree, Bool.or_eq_false_iff] at hf'
    simp only [requireIo, ioPermitted, bind_run, getCpu_run, State.ioPermits, State.ioChecked, Cpu.ioFree, hf'.1, hf'.2,
      Bool.false_eq_true, if_false, Bool.false_or]
    cases ht : s.cpu.tr.is386
    · simp [require_run]
    · simp only [Bool.not_true, Bool.false_eq_true, if_false, bind_run, sysRead_off hpg, Bool.true_and]
      have := ioBitsClear_run n (s.sysLoaded (s.cpu.tr.base + 0x66) 2) port.toNat hpg
      simp only [State.sysLoaded_loadAt, State.sysLoaded_cpu] at this
      simp only [Sz.bytes]
      rw [this]
      simp only [require_run]
      rfl

/-! ## Code segments (R457, R639) -/

/-- CS and EIP are loaded from a checked code segment. -/
theorem enterCode_ok {s : State} {sel : Word} {la : Dword} {level : BitVec 2} {off : Dword} (d : Desc)
    (hpg : s.cpu.cr0.pg = false) (h : descriptorAddr s.cpu sel = some la) :
    enterCode sel d level off s = .ok () (s.enteredCode sel la d level off) := by
  simp only [enterCode, bind_run, setAccessed_ok d hpg h, modifyCpu_run, setEip, flushPrefetch_run]
  rfl

/-- CS and a return offset are pushed (R452). -/
theorem pushReturn_run {s : State} {sz : Sz} (h : s.canPushReturn sz = true) :
    pushReturn sz s = .ok () (s.returnPushed sz s.cpu.next) := by
  simp only [State.canPushReturn, Bool.and_eq_true] at h
  exact pushReturn_ok h.1 h.2

@[simp] theorem State.pushedSelector_segs (s : State) (sz : Sz) (v : Word) : (s.pushedSelector sz v).cpu.segs = s.cpu.segs := by
  simp only [State.pushedSelector, State.pushed_segs]
  cases sz <;> rfl

/-- The stack has room for the items (R457, R635). -/
theorem requireRoom_ok {s : State} {k : Nat} {sz : Sz} (h : stackRoom s.cpu.prot s.cpu.segs.ss s.cpu.sp k sz.bytes = true) :
    requireRoom k sz s = .ok () s := by
  simp only [requireRoom, bind_run, getCpu_run, h, require_run, if_true]

/-! ## Gates (R632 to R635) -/

/-- The frame of a gate of 80386SX format is pushed (R635). -/
theorem pushFrame_ok {s : State} {ev : Event} (h : s.canPushFrame ev.rf ev.ret ev.code = true) :
    pushFrame ev .d s.cpu s = .ok () (s.framePushed ev.rf ev.ret ev.code) := by
  simp only [State.canPushFrame, State.canPushReturn, Bool.and_eq_true] at h
  obtain ⟨⟨h1, h2, h3⟩, h4⟩ := h
  rw [State.pushed_segs] at h3
  simp only [pushFrame, bind_run]
  rw [push_ok _ h1]
  simp only []
  rw [pushSelector_ok h2]
  simp only []
  rw [push_ok _ h3]
  simp only [State.framePushed, State.returnPushed, State.pushed_segs]
  cases hc : ev.code with
  | none => rfl
  | some v =>
    simp only [hc, Option.isNone_some, Bool.false_or, State.returnPushed, State.pushed_segs] at h4
    exact pushSelector_ok h4

/-- A push changes the stack pointer and the record of breakpoints alone. -/
theorem State.pushed_cpu (s : State) (sz : Sz) (v : BitVec sz.bits) :
    (s.pushed sz v).cpu = { s.cpu with gpr := (s.pushed sz v).cpu.gpr, cur := (s.pushed sz v).cpu.cur } := by
  simp only [State.pushed, State.storedAt, State.mapCpu, State.sysStored_cpu]
  rfl

/-- A push of a selector does too. -/
theorem State.pushedSelector_cpu (s : State) (sz : Sz) (v : Word) : (s.pushedSelector sz v).cpu =
    { s.cpu with gpr := (s.pushedSelector sz v).cpu.gpr, cur := (s.pushedSelector sz v).cpu.cur } := by
  have : (s.selectorDrawn sz).cpu = s.cpu := by cases sz <;> rfl
  rw [State.pushedSelector, State.pushed_cpu, this]

/-- And a push of CS and a return offset. -/
theorem State.returnPushed_cpu (s : State) (sz : Sz) (ret : Dword) : (s.returnPushed sz ret).cpu =
    { s.cpu with gpr := (s.returnPushed sz ret).cpu.gpr, cur := (s.returnPushed sz ret).cpu.cur } := by
  rw [State.returnPushed, State.pushed_cpu, State.pushedSelector_cpu]

/-- And that of a frame. -/
theorem State.framePushed_cpu (s : State) (rf : Bool) (ret : Dword) (code : Option Word) : (s.framePushed rf ret code).cpu =
    { s.cpu with gpr := (s.framePushed rf ret code).cpu.gpr, cur := (s.framePushed rf ret code).cpu.cur } := by
  cases code with
  | none => rw [State.framePushed, State.returnPushed_cpu, State.pushed_cpu]
  | some v =>
    rw [State.framePushed]
    simp only
    rw [State.pushedSelector_cpu, State.returnPushed_cpu, State.pushed_cpu]

/-- An event is delivered through an 80386SX gate to code of the same level (R633 to R635). -/
theorem deliverOnce_gate {s : State} {ev : Event} {cla : Dword}
    (h : s.canEnterGate ev.vector ev.rf ev.ret ev.code cla = true) (hn : ev.nmi = false)
    (hk : ev.kind = .software → s.cpu.cpl ≤ (s.descAt (s.gateAddr ev.vector)).dpl) :
    deliverOnce ev s = .ok ()
      (if ev.vector == 1 && ev.kind == .exception then (s.gateEntered ev.vector ev.rf ev.ret ev.code cla).withoutGd ev.vector
       else s.gateEntered ev.vector ev.rf ev.ret ev.code cla) := by
  simp only [State.canEnterGate, Bool.and_eq_true, Bool.or_eq_true, Bool.not_eq_true', decide_eq_true_eq, beq_iff_eq] at h
  obtain ⟨⟨⟨⟨⟨⟨⟨⟨⟨⟨⟨⟨⟨⟨⟨hp, hpg⟩, hs⟩, hl⟩, g1⟩, g2⟩, g3⟩, g4⟩, g5⟩, d1⟩, d2⟩, d3⟩, d4⟩, d5⟩, hr⟩, hf⟩ := h
  have h1 : s.cpu.real = false := by simp only [Cpu.prot, Cpu.real] at *; cases h : s.cpu.cr0.pe <;> simp_all
  have h2 : s.cpu.v86 = false := by simp only [Cpu.prot, Cpu.v86] at *; cases h : s.cpu.flags.vm <;> simp_all
  have hga : s.cpu.idtr.base + (ev.vector.setWidth 32 <<< 3 : Dword) = s.gateAddr ev.vector := rfl
  have hgate : (s.descAt (s.gateAddr ev.vector)).isIdtGate = true := by
    rcases g2 with g2 | g2 <;> simp [Desc.isIdtGate, g1, g2]
  have hne5 : ((s.descAt (s.gateAddr ev.vector)).type == 5) = false := by rcases g2 with g2 | g2 <;> rw [g2] <;> rfl
  have hb3 : (s.descAt (s.gateAddr ev.vector)).type.getLsbD 3 = true := by rcases g2 with g2 | g2 <;> rw [g2] <;> rfl
  have hsoft : (ev.kind != .software || decide (s.cpu.cpl ≤ (s.descAt (s.gateAddr ev.vector)).dpl)) = true := by
    cases hkk : ev.kind <;> simp [hk, hkk]
  have hsame : (!(s.descAt cla).ec && decide ((s.descAt cla).dpl < s.cpu.cpl)) = false := by
    rcases d4 with d4 | d4
    · simp [d4]
    · rw [d4]; simp
  have hif : (!(s.descAt (s.gateAddr ev.vector)).type.getLsbD 0) = !((s.descAt (s.gateAddr ev.vector)).type == 0xF) := by
    rcases g2 with g2 | g2 <;> rw [g2] <;> rfl
  simp only [deliverOnce, bind_run, requireSettledMode_ok hs, getCpu_run, h1, Bool.false_eq_true, if_false, deliverProtected,
    hl, decide_true, require_true, pure_run, hga, readDescriptorAt_off hpg, hgate, hsoft, g3, hne5, enterGate, h2, g4,
    Bool.not_false, hb3, if_true, State.descLoaded_cpu, Bool.not_true, Bool.and_false]
  have hrd : ∀ bad, readDescriptor (s.descAt (s.gateAddr ev.vector)).gateSelector bad (s.descLoaded (s.gateAddr ev.vector)) =
      .ok (s.descAt cla) ((s.descLoaded (s.gateAddr ev.vector)).descLoaded cla) :=
    fun bad => readDescriptor_ok (by exact hpg) (by exact g5)
  simp only [hrd, d1, d2, d3, decide_true, require_true, pure_run, Bool.true_or, hsame,
    Bool.false_eq_true, if_false, enterSame, bind_run, getCpu_run, State.descLoaded_cpu]
  rw [requireRoom_ok (by rw [State.descLoaded_cpu, State.descLoaded_cpu, hp]; exact hr)]
  simp only [d5, decide_true, require_true, pure_run]
  have := pushFrame_ok hf
  simp only [State.descLoaded_cpu] at this
  rw [this]
  simp only []
  rw [enterCode_ok _ (by rw [State.framePushed_cpu]; exact hpg) (by rw [State.framePushed_cpu]; exact g5)]
  simp only [modifyFlags_run, flushPrefetch_run, modifyCpu_run, hn, hif, State.gateEntered, EFlags.afterEntry]
  cases hv : (ev.vector == 1 && ev.kind == .exception)
  · simp [State.mapCpu, State.withFlags, State.enteredCode]
  · have hv1 : ev.vector = 1 := by simp at hv; exact hv.1
    simp [State.mapCpu, State.withFlags, State.enteredCode, State.withoutGd, hv1]

/-- `deliver` does at its first attempt. -/
theorem deliver_gate {s : State} {ev : Event} {cla : Dword}
    (h : s.canEnterGate ev.vector ev.rf ev.ret ev.code cla = true) (hn : ev.nmi = false)
    (hk : ev.kind = .software → s.cpu.cpl ≤ (s.descAt (s.gateAddr ev.vector)).dpl) :
    deliver deliverDepth ev s = .ok ()
      (if ev.vector == 1 && ev.kind == .exception then (s.gateEntered ev.vector ev.rf ev.ret ev.code cla).withoutGd ev.vector
       else s.gateEntered ev.vector ev.rf ev.ret ev.code cla) := by
  rw [deliverDepth, deliver]
  simp only [deliverOnce_gate h hn hk]

end Sys2Proof.Machine
end

