-- ==== Sys2Proof/Tests/Slice0.lean ====
section
/-! SUPPORT. The model's own tests: words written out from the encodings of the manual, ill-formed terms, worked vectors of
95_test_vectors.md, and for every statement with hypotheses a state that meets them. -/

namespace Sys2Proof.Tests

open Sys2Proof.Machine

set_option maxRecDepth 4000
set_option Elab.async false

/-! ## Decoding -/

/-- Each word decodes, under 16-bit sizes, to its instruction and its own length. -/
def wordsDecode (l : List (List Byte × Instr)) : Bool :=
  l.all fun p => decode ⟨false, false⟩ p.1 == .ok p.2 p.1.length

/-- Words written out from the encodings of 40_data_transfer.md. -/
theorem test_decode_data_transfer_1 : wordsDecode [
    ([0b10001001, 0b11011110], .movRmReg true (.reg .esi) .ebx),
    ([0b10001011, 0b11011110], .movRegRm true .ebx (.reg .esi)),
    ([0b11000111, 0b11000110, 0x34, 0x12], .movRmImm true (.reg .esi) (.i16 0x1234)),
    ([0b10111011, 0x34, 0x12], .movRegImm true .ebx (.i16 0x1234)),
    ([0b10100001, 0x34, 0x12], .movAccMoffs true (.i16 0x1234)),
    ([0b10100011, 0x34, 0x12], .movMoffsAcc true (.i16 0x1234)),
    ([0b10001110, 0b11011110], .movSregRm .ds (.reg .esi)),
    ([0b10001100, 0b11011110], .movRmSreg (.reg .esi) .ds),
    ([0b00001111, 0b10111111, 0b11011110], .movsx true .ebx (.reg .esi)),
    ([0b00001111, 0b10110111, 0b11011110], .movzx true .ebx (.reg .esi)),
    ([0b11111111, 0b11110110], .pushRm (.reg .esi)),
    ([0b01010011], .pushReg .ebx),
    ([0b00010110], .pushSreg .ss),
    ([0b00001111, 0b10100000], .pushFs),
    ([0b00001111, 0b10101000], .pushGs),
    ([0b01101000, 0x34, 0x12], .pushImm false (.i16 0x1234))] = true := by decide

/-- Words written out from the encodings of 40_data_transfer.md. -/
theorem test_decode_data_transfer_2 : wordsDecode [
    ([0b01100000], .pusha),
    ([0b10001111, 0b11000110], .popRm (.reg .esi)),
    ([0b01011011], .popReg .ebx),
    ([0b00000111], .popEs),
    ([0b00010111], .popSs),
    ([0b00011111], .popDs),
    ([0b00001111, 0b10100001], .popFs),
    ([0b00001111, 0b10101001], .popGs),
    ([0b01100001], .popa),
    ([0b10000111, 0b11011110], .xchgRmReg true (.reg .esi) .ebx),
    ([0b10010011], .xchgRegAcc .ebx),
    ([0b11100101, 0x56], .inImm true 0x56),
    ([0b11101101], .inDx true),
    ([0b11100111, 0x56], .outImm true 0x56),
    ([0b11101111], .outDx true),
    ([0b10001101, 0b01011111, 0x10], .lea .ebx (.base16 .bx (.d8 0x10)))] = true := by decide

/-- Words written out from the encodings of 41_segment_control.md. -/
theorem test_decode_segment_control : wordsDecode [
    ([0b11000101, 0b01011111, 0x10], .lds .ebx (.base16 .bx (.d8 0x10))),
    ([0b11000100, 0b01011111, 0x10], .les .ebx (.base16 .bx (.d8 0x10))),
    ([0b00001111, 0b10110100, 0b01011111, 0x10], .lfs .ebx (.base16 .bx (.d8 0x10))),
    ([0b00001111, 0b10110101, 0b01011111, 0x10], .lgs .ebx (.base16 .bx (.d8 0x10))),
    ([0b00001111, 0b10110010, 0b01011111, 0x10], .lss .ebx (.base16 .bx (.d8 0x10)))] = true := by decide

/-- Words written out from the encodings of 42_flag_control.md. -/
theorem test_decode_flag_control : wordsDecode [
    ([0b11111000], .clc),
    ([0b11111100], .cld),
    ([0b11111010], .cli),
    ([0b00001111, 0b00000110], .clts),
    ([0b11110101], .cmc),
    ([0b10011111], .lahf),
    ([0b10011101], .popf),
    ([0b10011100], .pushf),
    ([0b10011110], .sahf),
    ([0b11111011], .sti),
    ([0b11111001], .stc),
    ([0b11111101], .std)] = true := by decide

/-- Words written out from the encodings of 43_arithmetic.md. -/
theorem test_decode_arithmetic_1 : wordsDecode [
    ([0b00000011, 0b11011110], .addRmReg true true (.reg .esi) .ebx),
    ([0b10000001, 0b11000110, 0x34, 0x12], .addRmImm false true (.reg .esi) (.i16 0x1234)),
    ([0b00000101, 0x34, 0x12], .addAccImm true (.i16 0x1234)),
    ([0b00010001, 0b11011110], .adcRmReg false true (.reg .esi) .ebx),
    ([0b10000001, 0b11010110, 0x34, 0x12], .adcRmImm false true (.reg .esi) (.i16 0x1234)),
    ([0b00010101, 0x34, 0x12], .adcAccImm true (.i16 0x1234)),
    ([0b00101011, 0b11011110], .subRmReg true true (.reg .esi) .ebx),
    ([0b10000001, 0b11101110, 0x34, 0x12], .subRmImm false true (.reg .esi) (.i16 0x1234)),
    ([0b00101101, 0x34, 0x12], .subAccImm true (.i16 0x1234)),
    ([0b00011001, 0b11011110], .sbbRmReg false true (.reg .esi) .ebx),
    ([0b10000001, 0b11011110, 0x34, 0x12], .sbbRmImm false true (.reg .esi) (.i16 0x1234)),
    ([0b00011101, 0x34, 0x12], .sbbAccImm true (.i16 0x1234)),
    ([0b00111011, 0b11011110], .cmpRmReg true true (.reg .esi) .ebx),
    ([0b10000001, 0b11111110, 0x34, 0x12], .cmpRmImm false true (.reg .esi) (.i16 0x1234)),
    ([0b00111101, 0x34, 0x12], .cmpAccImm true (.i16 0x1234)),
    ([0b11111111, 0b11000110], .incRm true (.reg .esi))] = true := by decide

/-- Words written out from the encodings of 43_arithmetic.md. -/
theorem test_decode_arithmetic_2 : wordsDecode [
    ([0b01000011], .incReg .ebx),
    ([0b11111111, 0b11001110], .decRm true (.reg .esi)),
    ([0b01001011], .decReg .ebx),
    ([0b11110111, 0b11011110], .negRm true (.reg .esi)),
    ([0b00110111], .aaa),
    ([0b00111111], .aas),
    ([0b00100111], .daa),
    ([0b00101111], .das),
    ([0b11110111, 0b11100110], .mulAcc true (.reg .esi)),
    ([0b11110111, 0b11101110], .imulAcc true (.reg .esi)),
    ([0b00001111, 0b10101111, 0b11011110], .imulRegRm .ebx (.reg .esi)),
    ([0b01101001, 0b11011110, 0x34, 0x12], .imulRegRmImm false .ebx (.reg .esi) (.i16 0x1234)),
    ([0b11110111, 0b11110110], .divAcc true (.reg .esi)),
    ([0b11110111, 0b11111110], .idivAcc true (.reg .esi)),
    ([0b11010101, 0b00001010], .aad),
    ([0b11010100, 0b00001010], .aam)] = true := by decide

/-- Words written out from the encodings of 43_arithmetic.md. -/
theorem test_decode_arithmetic_3 : wordsDecode [
    ([0b10011000], .cbw),
    ([0b10011001], .cwd)] = true := by decide

/-- Words written out from the encodings of 44_logic.md. -/
theorem test_decode_logic_1 : wordsDecode [
    ([0b11010001, 0b11000110], .rolOne true (.reg .esi)),
    ([0b11010011, 0b11000110], .rolCl true (.reg .esi)),
    ([0b11000001, 0b11000110, 0x56], .rolImm true (.reg .esi) 0x56),
    ([0b11010001, 0b11001110], .rorOne true (.reg .esi)),
    ([0b11010011, 0b11001110], .rorCl true (.reg .esi)),
    ([0b11000001, 0b11001110, 0x56], .rorImm true (.reg .esi) 0x56),
    ([0b11010001, 0b11010110], .rclOne true (.reg .esi)),
    ([0b11010011, 0b11010110], .rclCl true (.reg .esi)),
    ([0b11000001, 0b11010110, 0x56], .rclImm true (.reg .esi) 0x56),
    ([0b11010001, 0b11011110], .rcrOne true (.reg .esi)),
    ([0b11010011, 0b11011110], .rcrCl true (.reg .esi)),
    ([0b11000001, 0b11011110, 0x56], .rcrImm true (.reg .esi) 0x56),
    ([0b11010001, 0b11100110], .shlOne true (.reg .esi)),
    ([0b11010011, 0b11100110], .shlCl true (.reg .esi)),
    ([0b11000001, 0b11100110, 0x56], .shlImm true (.reg .esi) 0x56),
    ([0b11010001, 0b11101110], .shrOne true (.reg .esi))] = true := by decide

/-- Words written out from the encodings of 44_logic.md. -/
theorem test_decode_logic_2 : wordsDecode [
    ([0b11010011, 0b11101110], .shrCl true (.reg .esi)),
    ([0b11000001, 0b11101110, 0x56], .shrImm true (.reg .esi) 0x56),
    ([0b11010001, 0b11111110], .sarOne true (.reg .esi)),
    ([0b11010011, 0b11111110], .sarCl true (.reg .esi)),
    ([0b11000001, 0b11111110, 0x56], .sarImm true (.reg .esi) 0x56),
    ([0b00001111, 0b10100100, 0b11011110, 0x56], .shldImm (.reg .esi) .ebx 0x56),
    ([0b00001111, 0b10100101, 0b11011110], .shldCl (.reg .esi) .ebx),
    ([0b00001111, 0b10101100, 0b11011110, 0x56], .shrdImm (.reg .esi) .ebx 0x56),
    ([0b00001111, 0b10101101, 0b11011110], .shrdCl (.reg .esi) .ebx),
    ([0b00100001, 0b11011110], .andRmReg false true (.reg .esi) .ebx),
    ([0b10000001, 0b11100110, 0x34, 0x12], .andRmImm true (.reg .esi) (.i16 0x1234)),
    ([0b10000011, 0b11100110, 0x56], .andRmImm8 (.reg .esi) 0x56),
    ([0b00100101, 0x34, 0x12], .andAccImm true (.i16 0x1234)),
    ([0b00001001, 0b11011110], .orRmReg false true (.reg .esi) .ebx),
    ([0b10000001, 0b11001110, 0x34, 0x12], .orRmImm true (.reg .esi) (.i16 0x1234)),
    ([0b10000011, 0b11001110, 0x56], .orRmImm8 (.reg .esi) 0x56)] = true := by decide

/-- Words written out from the encodings of 44_logic.md. -/
theorem test_decode_logic_3 : wordsDecode [
    ([0b00001101, 0x34, 0x12], .orAccImm true (.i16 0x1234)),
    ([0b00110001, 0b11011110], .xorRmReg false true (.reg .esi) .ebx),
    ([0b10000001, 0b11110110, 0x34, 0x12], .xorRmImm true (.reg .esi) (.i16 0x1234)),
    ([0b10000011, 0b11110110, 0x56], .xorRmImm8 (.reg .esi) 0x56),
    ([0b00110101, 0x34, 0x12], .xorAccImm true (.i16 0x1234)),
    ([0b10000101, 0b11011110], .testRmReg true (.reg .esi) .ebx),
    ([0b11110111, 0b11000110, 0x34, 0x12], .testRmImm true (.reg .esi) (.i16 0x1234)),
    ([0b10101001, 0x34, 0x12], .testAccImm true (.i16 0x1234)),
    ([0b11110111, 0b11010110], .notRm true (.reg .esi))] = true := by decide

/-- Words written out from the encodings of 45_string.md. -/
theorem test_decode_string : wordsDecode [
    ([0b10100111], .cmps true),
    ([0b01101101], .ins true),
    ([0b10101101], .lods true),
    ([0b10100101], .movs true),
    ([0b01101111], .outs true),
    ([0b10101111], .scas true),
    ([0b10101011], .stos true),
    ([0b11010111], .xlat),
    ([0b11110011], .repPrefix),
    ([0b11110010], .repnePrefix)] = true := by decide

/-- Words written out from the encodings of 46_bit.md. -/
theorem test_decode_bit : wordsDecode [
    ([0b00001111, 0b10111100, 0b11011110], .bsf .ebx (.reg .esi)),
    ([0b00001111, 0b10111101, 0b11011110], .bsr .ebx (.reg .esi)),
    ([0b00001111, 0b10111010, 0b11100110, 0x56], .btImm (.reg .esi) 0x56),
    ([0b00001111, 0b10100011, 0b11011110], .btReg (.reg .esi) .ebx),
    ([0b00001111, 0b10111010, 0b11111110, 0x56], .btcImm (.reg .esi) 0x56),
    ([0b00001111, 0b10111011, 0b11011110], .btcReg (.reg .esi) .ebx),
    ([0b00001111, 0b10111010, 0b11110110, 0x56], .btrImm (.reg .esi) 0x56),
    ([0b00001111, 0b10110011, 0b11011110], .btrReg (.reg .esi) .ebx),
    ([0b00001111, 0b10111010, 0b11101110, 0x56], .btsImm (.reg .esi) 0x56),
    ([0b00001111, 0b10101011, 0b11011110], .btsReg (.reg .esi) .ebx)] = true := by decide

/-- Words written out from the encodings of 47_control_transfer.md. -/
theorem test_decode_control_transfer_1 : wordsDecode [
    ([0b11101000, 0x34, 0x12], .callRel (.i16 0x1234)),
    ([0b11111111, 0b11010110], .callRm (.reg .esi)),
    ([0b11101011, 0x56], .jmpShort 0x56),
    ([0b11101001, 0x34, 0x12], .jmpRel (.i16 0x1234)),
    ([0b11111111, 0b11100110], .jmpRm (.reg .esi)),
    ([0b11000011], .retNear),
    ([0b11000010, 0xAB, 0x89], .retNearImm 0x89AB),
    ([0b01110101, 0x56], .jccShort .ne 0x56),
    ([0b00001111, 0b10000101, 0x34, 0x12], .jccNear .ne (.i16 0x1234)),
    ([0b11100011, 0x56], .jcxz 0x56),
    ([0b11100010, 0x56], .loop 0x56),
    ([0b11100001, 0x56], .loopz 0x56),
    ([0b11100000, 0x56], .loopnz 0x56),
    ([0b10011010, 0x34, 0x12, 0xAB, 0x89], .callFar (.i16 0x1234) 0x89AB),
    ([0b11111111, 0b01011111, 0x10], .callFarMem (.base16 .bx (.d8 0x10))),
    ([0b11101010, 0x34, 0x12, 0xAB, 0x89], .jmpFar (.i16 0x1234) 0x89AB)] = true := by decide

/-- Words written out from the encodings of 47_control_transfer.md. -/
theorem test_decode_control_transfer_2 : wordsDecode [
    ([0b11111111, 0b01101111, 0x10], .jmpFarMem (.base16 .bx (.d8 0x10))),
    ([0b11001011], .retFar),
    ([0b11001010, 0xAB, 0x89], .retFarImm 0x89AB)] = true := by decide

/-- Words written out from the encodings of 48_setcc_enter_leave.md. -/
theorem test_decode_setcc_enter_leave : wordsDecode [
    ([0b00001111, 0b10010101, 0b11000110], .setcc .ne (.reg .esi)),
    ([0b11001000, 0xAB, 0x89, 0x56], .enter 0x89AB 0x56),
    ([0b11001001], .leave)] = true := by decide

/-- Words written out from the encodings of 49_interrupt_instr.md. -/
theorem test_decode_interrupt : wordsDecode [
    ([0b11001101, 0x56], .int 0x56),
    ([0b11001100], .int3),
    ([0b11001110], .into),
    ([0b01100010, 0b01011111, 0x10], .bound .ebx (.base16 .bx (.d8 0x10))),
    ([0b11001111], .iret)] = true := by decide

/-- Words written out from the encodings of 50_processor_control.md. -/
theorem test_decode_processor_control_1 : wordsDecode [
    ([0b11110100], .hlt),
    ([0b00001111, 0b00100010, 0b11010011], .movCrReg .cr2 .ebx),
    ([0b00001111, 0b00100000, 0b11010011], .movRegCr .ebx .cr2),
    ([0b00001111, 0b00100011, 0b11001011], .movDrReg .dr1 .ebx),
    ([0b00001111, 0b00100001, 0b11001011], .movRegDr .ebx .dr1),
    ([0b00001111, 0b00100110, 0b11110011], .movTrReg .tr6 .ebx),
    ([0b00001111, 0b00100100, 0b11110011], .movRegTr .ebx .tr6),
    ([0b10010000], .nop),
    ([0b10011011], .wait),
    ([0b11011010, 0b11011110], .esc 2 3 (.reg .esi)),
    ([0b01100111], .addressSizePrefix),
    ([0b11110000], .lockPrefix),
    ([0b01100110], .operandSizePrefix),
    ([0b00101110], .csPrefix),
    ([0b00111110], .dsPrefix),
    ([0b00100110], .esPrefix)] = true := by decide

/-- Words written out from the encodings of 50_processor_control.md. -/
theorem test_decode_processor_control_2 : wordsDecode [
    ([0b01100100], .fsPrefix),
    ([0b01100101], .gsPrefix),
    ([0b00110110], .ssPrefix)] = true := by decide

/-- Words written out from the encodings of 51_protection_control.md. -/
theorem test_decode_protection_control : wordsDecode [
    ([0b01100011, 0b11011110], .arpl (.reg .esi) .ebx),
    ([0b00001111, 0b00000010, 0b11011110], .lar .ebx (.reg .esi)),
    ([0b00001111, 0b00000001, 0b01010111, 0x10], .lgdt (.base16 .bx (.d8 0x10))),
    ([0b00001111, 0b00000001, 0b01011111, 0x10], .lidt (.base16 .bx (.d8 0x10))),
    ([0b00001111, 0b00000000, 0b11010110], .lldt (.reg .esi)),
    ([0b00001111, 0b00000001, 0b11110110], .lmsw (.reg .esi)),
    ([0b00001111, 0b00000011, 0b11011110], .lsl .ebx (.reg .esi)),
    ([0b00001111, 0b00000000, 0b11011110], .ltr (.reg .esi)),
    ([0b00001111, 0b00000001, 0b01000111, 0x10], .sgdt (.base16 .bx (.d8 0x10))),
    ([0b00001111, 0b00000001, 0b01001111, 0x10], .sidt (.base16 .bx (.d8 0x10))),
    ([0b00001111, 0b00000000, 0b11000110], .sldt (.reg .esi)),
    ([0b00001111, 0b00000001, 0b11100110], .smsw (.reg .esi)),
    ([0b00001111, 0b00000000, 0b11001110], .str (.reg .esi)),
    ([0b00001111, 0b00000000, 0b11100110], .verr (.reg .esi)),
    ([0b00001111, 0b00000000, 0b11101110], .verw (.reg .esi))] = true := by decide


/-- Words under 32-bit sizes, with the s-i-b byte (95_test_vectors.md E4 to E8, E14; R215, R216). -/
theorem test_decode_32bit :
    decode ⟨true, true⟩ [0x8B, 0x05, 0x78, 0x56, 0x34, 0x12] = .ok (.movRegRm true .eax (.mem (.direct32 0x12345678))) 6 ∧
    decode ⟨true, true⟩ [0x8B, 0x04, 0x8E] = .ok (.movRegRm true .eax (.mem (.sib .x4 (some .ecx) .esi .none))) 3 ∧
    decode ⟨true, true⟩ [0x8B, 0x04, 0x24] = .ok (.movRegRm true .eax (.mem (.sib .x1 none .esp .none))) 3 ∧
    decode ⟨true, true⟩ [0x8B, 0x44, 0x24, 0x08] = .ok (.movRegRm true .eax (.mem (.sib .x1 none .esp (.d8 8)))) 4 ∧
    decode ⟨true, true⟩ [0x8B, 0x04, 0x8D, 0x00, 0x10, 0x00, 0x00] =
      .ok (.movRegRm true .eax (.mem (.sibNoBase .x4 (some .ecx) 0x1000))) 7 ∧
    decode ⟨true, true⟩ [0x83, 0xC0, 0xFF] = .ok (.addRmImm true true (.reg .eax) (.i8 0xFF)) 3 := by decide

/-- What the decoder rejects: opcodes of no row (E20 to E23), and by name AAM with base 16 (N8), a MOV from CR0 with mod 00
(U2), and the undocumented encodings of R240. -/
theorem test_decode_rejects :
    decode ⟨false, false⟩ [0x0F, 0xFF] = .undefinedOpcode ∧ decode ⟨false, false⟩ [0xD6] = .undefinedOpcode ∧
    decode ⟨false, false⟩ [0x8D, 0xC0] = .undefinedOpcode ∧ decode ⟨false, false⟩ [0x0F, 0x00, 0xF0] = .undefinedOpcode ∧
    decode ⟨false, false⟩ [0xD0, 0xF0] = .undefinedOpcode ∧ decode ⟨false, false⟩ [0x8E, 0xC8] = .undefinedOpcode ∧
    decode ⟨false, false⟩ [0xD4, 0x10] = .refused .asciiBase ∧
    decode ⟨false, false⟩ [0x0F, 0x20, 0x00] = .refused .specialMod ∧ decode ⟨false, false⟩ [0x0F] = .more ∧
    decode ⟨false, false⟩ [0x82, 0xC8] = .refused .undocumented ∧ decode ⟨false, false⟩ [0xF6, 0xC8] = .refused .undocumented ∧
    decode ⟨false, false⟩ [0x0F, 0x05] = .refused .undocumented ∧
    decode ⟨false, false⟩ [0x0F, 0xA7] = .refused .undocumented := by decide

/-! ## Well-formedness: one ill-formed term for each check -/

/-- [BP] needs a displacement; the address size picks the forms; ESP is no index and no base without s-i-b (R215, R216). -/
theorem test_wf_memory_refused :
    (Mem.base16 .bp .none).wf ⟨false, false⟩ = false ∧ (Mem.direct16 0).wf ⟨false, true⟩ = false ∧
    (Mem.direct32 0).wf ⟨false, false⟩ = false ∧ (Mem.base32 .esp .none).wf ⟨true, true⟩ = false ∧
    (Mem.base32 .ebp .none).wf ⟨true, true⟩ = false ∧ (Mem.sib .x1 (some .esp) .eax .none).wf ⟨true, true⟩ = false ∧
    (Mem.sib .x1 none .ebp .none).wf ⟨true, true⟩ = false ∧
    (Mem.sibNoBase .x1 (some .esp) 0).wf ⟨true, true⟩ = false := by decide

/-- An immediate has the width its row asks for; MOV does not write CS; XCHG of eAX with itself is NOP (R209, R246, R248). -/
theorem test_wf_operands_refused :
    (Instr.movRegImm true .eax (.i32 0)).wf ⟨false, false⟩ = false ∧ (Instr.movRegImm true .eax (.i16 0)).wf ⟨true, true⟩ = false ∧
    (Instr.addAccImm false (.i16 0)).wf ⟨false, false⟩ = false ∧ (Instr.pushImm true (.i16 0)).wf ⟨false, false⟩ = false ∧
    (Instr.movSregRm .cs (.reg .eax)).wf ⟨false, false⟩ = false ∧ (Instr.xchgRegAcc .eax).wf ⟨false, false⟩ = false := by decide

/-! ## Vectors -/

/-- Memory with bytes written in a row from an address. -/
def bytesAt (m : Memory) (a : PAddr) : List Byte → Memory
  | [] => m
  | b :: rest => bytesAt (m.write a b) (a + 1) rest

/-- Memory holding some rows of bytes. -/
def memory : List (PAddr × List Byte) → Memory
  | [] => State.reset.mem
  | (a, bs) :: rest => bytesAt (memory rest) a bs

/-- The state after RESET with the processor and memory changed. -/
def start (f : Cpu → Cpu) (rows : List (PAddr × List Byte)) : State :=
  { State.reset with cpu := f State.reset.cpu, mem := memory rows }

/-- Real Mode at 1000:0100. -/
def real (g : Gpr) (c : Cpu) : Cpu :=
  { c with gpr := g, eip := 0x100, segs := { c.segs with cs := { c.segs.cs with selector := 0x1000, base := 0x10000 } } }

/-- Protected Mode at CPL 0 with 32-bit code at linear address 10100H and flat data. -/
def prot32 (g : Gpr) (c : Cpu) : Cpu :=
  let flat : SegReg := { c.segs.ds with limit := 0xFFFFFFFF, big := true, selector := 0x10 }
  { c with
    gpr := g, eip := 0x100, cr0 := { c.cr0 with pe := true }
    segs := ⟨flat, { c.segs.cs with base := 0x10000, limit := 0xFFFFFFFF, big := true, selector := 8 }, flat, flat, flat, flat⟩ }

/-- Registers all zero. -/
def zero : Gpr := ⟨0, 0, 0, 0, 0, 0, 0, 0⟩

/-- Run the bytes at 10100H for one step and look at the next state. -/
def after (f : Cpu → Cpu) (rows : List (PAddr × List Byte)) (code : List Byte) (p : State → Bool) : Bool :=
  match step (start f ((0x10100, code) :: rows)) with
  | .next t => p t
  | .fault _ => false
  | .refused _ => false

/-- The flags CF, OF, SF, ZF, AF, PF. -/
def six (s : State) : List Bool :=
  let f := s.cpu.flags
  [f.cf, f.ovf, f.sf, f.zf, f.af, f.pf]

/-- The bytes from an address on. -/
def bytesFrom (s : State) (a : PAddr) (n : Nat) : List Byte := (List.range n).map fun k => s.mem.read (a + BitVec.ofNat 24 k)

/-- T2: MOV AX, BX keeps the upper half. -/
theorem test_mov_word_keeps_upper : after (real { zero with eax := 0xAAAAAAAA, ebx := 0x1234 }) [] [0x89, 0xD8]
    (fun t => t.cpu.gpr.eax == 0xAAAA1234 && t.cpu.eip == 0x102) = true := by decide +kernel

/-- E2: MOV AX, [BP+2] reads through SS; M1: little-endian words. -/
theorem test_mov_bp_uses_ss : after (fun c => real { zero with ebp := 0x10 }
      { c with segs := { c.segs with ss := { c.segs.ss with base := 0x2000 } } })
    [(0x2012, [0x78, 0x56])] [0x8B, 0x46, 0x02] (fun t => t.cpu.gpr.eax == 0x5678) = true := by decide +kernel

/-- T7: POP SP loads the popped value. -/
theorem test_pop_sp : after (real { zero with esp := 0x0FFE }) [(0x0FFE, [0x00, 0x20])] [0x5C]
    (fun t => t.cpu.gpr.esp == 0x2000) = true := by decide +kernel

/-- T8: PUSH AX with a 16-bit stack leaves the upper half of ESP. -/
theorem test_push_16bit_stack : after (real { zero with eax := 0x4321, esp := 0x11000 }) [] [0x50]
    (fun t => t.cpu.gpr.esp == 0x10FFE && bytesFrom t 0xFFE 2 == [0x21, 0x43]) = true := by decide +kernel

/-- T12: PUSHA. -/
theorem test_pusha : after (real ⟨1, 2, 3, 4, 0x100, 5, 6, 7⟩) [] [0x60] (fun t => t.cpu.gpr.esp == 0xF0 &&
    bytesFrom t 0xF0 16 == [7, 0, 6, 0, 5, 0, 0, 1, 4, 0, 3, 0, 2, 0, 1, 0]) = true := by decide +kernel

/-- T15: XCHG [BX], AL. -/
theorem test_xchg_memory : after (real { zero with eax := 0x12, ebx := 0x300 }) [(0x300, [0x34])] [0x86, 0x07]
    (fun t => t.cpu.gpr.eax == 0x34 && bytesFrom t 0x300 1 == [0x12]) = true := by decide +kernel

/-- T17: LEA AX, [BX+SI] wraps at 16 bits; T19: OUT 80H, AX. -/
theorem test_lea_and_out :
    after (real { zero with ebx := 0xFFFF, esi := 2 }) [] [0x8D, 0x00] (fun t => t.cpu.gpr.eax == 1) = true ∧
    after (real { zero with eax := 0x1234 }) [] [0xE7, 0x80]
      (fun t => t.env.trace.take 1 == [.ioWrite 0x80 2 0x1234]) = true := by decide +kernel

/-- G1: LDS BX, [0200H] in Real Mode. -/
theorem test_lds : after (real zero) [(0x200, [0x34, 0x12, 0x00, 0x50])] [0xC5, 0x1E, 0x00, 0x02] (fun t =>
    t.cpu.gpr.ebx == 0x1234 && t.cpu.segs.ds.selector == 0x5000 && t.cpu.segs.ds.base == 0x50000) = true := by decide +kernel

/-- F1 and F2: LAHF and SAHF; F4: POPF of FFFFH in Real Mode. -/
theorem test_flag_images :
    after (fun c => { real zero c with flags := { c.flags with sf := true, zf := true, af := true, pf := true, cf := true } }) []
      [0x9F] (fun t => t.cpu.gpr.eax == 0xD700) = true ∧
    after (real { zero with eax := 0xFF00 }) [] [0x9E] (fun t => six t == [true, false, true, true, true, true]) = true ∧
    after (real zero) [(0, [0xFF, 0xFF])] [0x9D] (fun t => t.cpu.flags.image16 == 0x7FD7) = true := by decide +kernel

/-- A1 and A2: ADD AL, BL. -/
theorem test_add :
    after (real { zero with eax := 0x7F, ebx := 0x01 }) [] [0x00, 0xD8]
      (fun t => t.cpu.gpr.eax == 0x80 && six t == [false, true, true, false, true, false]) = true ∧
    after (real { zero with eax := 0x80, ebx := 0x80 }) [] [0x00, 0xD8]
      (fun t => t.cpu.gpr.eax == 0 && six t == [true, true, false, true, false, true]) = true := by decide +kernel

/-- The worked examples of SUB (R334), SBB (R335), INC (R333) and NEG (R338). -/
theorem test_sub_sbb_inc_neg :
    after (real zero) [] [0x2C, 0x01]
      (fun t => t.cpu.gpr.eax == 0xFF && six t == [true, false, true, false, true, true]) = true ∧
    after (fun c => { real { zero with eax := 0xFF } c with flags := { c.flags with cf := true } }) [] [0x1C, 0x00]
      (fun t => t.cpu.gpr.eax == 0xFE && t.cpu.flags.cf == false) = true ∧
    after (real { zero with eax := 0x7FFF }) [] [0x40]
      (fun t => t.cpu.gpr.eax == 0x8000 && six t == [false, true, true, false, true, true]) = true ∧
    after (real { zero with eax := 0x80 }) [] [0xF6, 0xD8]
      (fun t => t.cpu.gpr.eax == 0x80 && t.cpu.flags.cf && t.cpu.flags.ovf && t.cpu.flags.sf) = true := by decide +kernel

/-- L3: ROL AX, 4; L7: RCR AX, 1; L15: SAR AL, 31. -/
theorem test_rotates_and_sar :
    after (real { zero with eax := 0x1234 }) [] [0xC1, 0xC0, 0x04]
      (fun t => t.cpu.gpr.eax == 0x2341 && t.cpu.flags.cf) = true ∧
    after (fun c => { real { zero with eax := 1 } c with flags := { c.flags with cf := true } }) [] [0xD1, 0xD8]
      (fun t => t.cpu.gpr.eax == 0x8000 && t.cpu.flags.cf && t.cpu.flags.ovf) = true ∧
    after (real { zero with eax := 0x80 }) [] [0xC0, 0xF8, 0x1F]
      (fun t => t.cpu.gpr.eax == 0xFF && t.cpu.flags.cf) = true := by decide +kernel

/-- L16: SHLD EAX, EBX, 8. -/
theorem test_shld : after (prot32 { zero with eax := 0x12345678, ebx := 0x9ABCDEF0 }) [] [0x0F, 0xA4, 0xD8, 0x08]
    (fun t => t.cpu.gpr.eax == 0x3456789A && t.cpu.flags.cf == false) = true := by decide +kernel

/-- X1, the first element: REP MOVSB goes on; EIP stays at its first byte. -/
theorem test_rep_movs : after (real { zero with ecx := 4, esi := 0x200, edi := 0x300 }) [(0x200, [0x11, 0x22])] [0xF3, 0xA4]
    (fun t => bytesFrom t 0x300 2 == [0x11, 0] && t.cpu.gpr.ecx == 3 && t.cpu.gpr.esi == 0x201 && t.cpu.gpr.edi == 0x301 &&
      t.cpu.eip == 0x100) = true := by decide +kernel

/-- X14: XLAT zero-extends AL. -/
theorem test_xlat : after (real { zero with eax := 0xFF, ebx := 0x1000 }) [(0x10FF, [0x77])] [0xD7]
    (fun t => t.cpu.gpr.eax == 0x77) = true := by decide +kernel

/-- B2: BSF and BSR of 80000000H; B4: BT [1000H], CX reaches the word at 1004H. -/
theorem test_bits :
    after (prot32 { zero with ebx := 0x80000000 }) [] [0x0F, 0xBC, 0xC3] (fun t => t.cpu.gpr.eax == 31) = true ∧
    after (prot32 { zero with ebx := 0x80000000 }) [] [0x0F, 0xBD, 0xC3] (fun t => t.cpu.gpr.eax == 31) = true ∧
    after (real { zero with ecx := 0x23 }) [(0x1004, [0x08, 0x00])] [0x0F, 0xA3, 0x0E, 0x00, 0x10]
      (fun t => t.cpu.flags.cf) = true := by decide +kernel

/-- J1: JMP SHORT back; J5: JL taken. -/
theorem test_near_jumps :
    after (real zero) [] [0xEB, 0x80] (fun t => t.cpu.eip == 0x82) = true ∧
    after (fun c => { real zero c with flags := { c.flags with sf := true } }) [] [0x7C, 0x02]
      (fun t => t.cpu.eip == 0x104) = true := by decide +kernel

/-- J4: CALL with a 32-bit operand; J14: RETF 2 in Real Mode. -/
theorem test_call_and_far_return :
    after (prot32 { zero with esp := 0x2000 }) [] [0xE8, 0, 0, 0, 0]
      (fun t => t.cpu.eip == 0x105 && t.cpu.gpr.esp == 0x1FFC && bytesFrom t 0x1FFC 4 == [0x05, 0x01, 0, 0]) = true ∧
    after (real { zero with esp := 0xFC }) [(0xFC, [0x15, 0, 0x00, 0x10])] [0xCA, 0x02, 0x00]
      (fun t => t.cpu.eip == 0x15 && t.cpu.segs.cs.selector == 0x1000 && t.cpu.gpr.esp == 0x102) = true := by decide +kernel

/-- J19: ENTER 0, 2. -/
theorem test_enter : after (real { zero with esp := 0x100, ebp := 0x200 }) [(0x1FE, [0xAA, 0x0A])] [0xC8, 0, 0, 2]
    (fun t => t.cpu.gpr.ebp == 0xFE && t.cpu.gpr.esp == 0xFA &&
      bytesFrom t 0xFA 6 == [0xFE, 0, 0xAA, 0x0A, 0x00, 0x02]) = true := by decide +kernel

/-- ENTER 0, 1 with a 32-bit operand on a 16-bit stack: two dword items, one free value drawn for the second (R481, log 55). -/
theorem test_enter_wide_items : after (real { zero with esp := 0x300, ebp := 0x200 }) [] [0x66, 0xC8, 0, 0, 1]
    (fun t => t.cpu.gpr.ebp == 0x2FC && t.cpu.gpr.esp == 0x2F8 && t.free == 1) = true := by decide +kernel

/-- I1: INT 21H in Real Mode. -/
theorem test_int_real : after (fun c => { real { zero with esp := 0x100 } c with flags := { c.flags with intf := true } })
    [(0x84, [0x34, 0x12, 0x00, 0x0F])] [0xCD, 0x21] (fun t => t.cpu.segs.cs.selector == 0xF00 && t.cpu.eip == 0x1234 &&
      t.cpu.gpr.esp == 0xFA && t.cpu.flags.intf == false &&
      bytesFrom t 0xFA 6 == [0x02, 0x01, 0x00, 0x10, 0x02, 0x02]) = true := by decide +kernel

/-- A Real Mode interrupt saves NT and clears it (R47). -/
theorem test_int_real_clears_nt :
    after (fun c => { real { zero with esp := 0x100 } c with flags := { c.flags with nt := true } })
      [(0x84, [0x34, 0x12, 0x00, 0x0F])] [0xCD, 0x21]
      (fun t => t.cpu.flags.nt == false && bytesFrom t 0xFE 2 == [0x02, 0x40]) = true := by decide +kernel

/-- MOV CR0 that turns paging on leaves queued bytes behind, until a jump (R71, R726). -/
theorem test_paging_switch :
    after (prot32 { zero with eax := 0x80000001 }) [] [0x0F, 0x22, 0xC0] (fun t => t.pgSwitch == some 0x10100) = true ∧
    (match step { start (real zero) [(0x10100, [0xEB, 0])] with pgSwitch := some 0 } with
      | .next t => t.pgSwitch == none
      | .fault _ => false
      | .refused _ => false) = true := by decide +kernel

/-- I2: DIV by 0 pushes its own offset and goes through vector 0. -/
theorem test_divide_error : after (real { zero with esp := 0x100 }) [(0, [0x34, 0x12, 0x00, 0x0F])] [0xF6, 0xF3]
    (fun t => t.cpu.segs.cs.selector == 0xF00 && t.cpu.eip == 0x1234 && bytesFrom t 0xFA 2 == [0x00, 0x01]) = true := by
  decide +kernel

/-- I7: BOUND passes at its upper bound and raises exception 5 above it. -/
theorem test_bound :
    after (real { zero with eax := 0x0A }) [(0x300, [5, 0, 0x0A, 0])] [0x62, 0x06, 0x00, 0x03]
      (fun t => t.cpu.eip == 0x104) = true ∧
    after (real { zero with eax := 0x0B, esp := 0x100 }) [(0x300, [5, 0, 0x0A, 0]), (0x14, [0x77, 0x66, 0, 0])]
      [0x62, 0x06, 0x00, 0x03] (fun t => t.cpu.eip == 0x6677) = true := by decide +kernel

/-- P2: MOV CR3, EAX drops the low twelve bits. -/
theorem test_mov_cr3 : after (real { zero with eax := 0x12FFF }) [] [0x0F, 0x22, 0xD8]
    (fun t => t.cpu.cr3 == 0x12000) = true := by decide +kernel

/-- P14: ARPL AX, CX raises the RPL. -/
theorem test_arpl : after (prot32 { zero with eax := 8, ecx := 0x13 }) [] [0x63, 0xC8]
    (fun t => t.cpu.gpr.eax == 0x0B && t.cpu.flags.zf) = true := by decide +kernel

/-- P17: LTR of an available TSS loads TR and marks it busy. -/
theorem test_ltr : after (fun c => { prot32 { zero with eax := 0x28 } c with gdtr := ⟨0x3000, 0x2F⟩ })
    [(0x3028, [0x67, 0, 0, 0x40, 0, 0x89, 0, 0])] [0x0F, 0x00, 0xD8] (fun t => t.cpu.tr.base == 0x4000 &&
      t.cpu.tr.selector == 0x28 && bytesFrom t 0x302D 1 == [0x8B]) = true := by decide +kernel

/-- N1: PUSH with SP = 1 shuts the processor down. -/
theorem test_push_shutdown : after (real { zero with esp := 1 }) [] [0x50] (fun t => t.cpu.run == .shutdown) = true := by decide +kernel

/-- Z3: the far JMP at the reset vector loads an ordinary code segment. -/
theorem test_reset_vector :
    (match step (State.reset.placeCode 0 [0xEA, 0x00, 0x00, 0x00, 0xF0]) with
      | .next t => t.cpu.segs.cs.base == 0xF0000 && t.cpu.eip == 0
      | .fault _ => false
      | .refused _ => false) = true := by decide +kernel

/-- The bus cycles of Table 5.2: a halt, and a word at an odd address in two cycles, its low byte first (R742, D8). -/
theorem test_bus_cycles :
    BusEvent.halt.cycles = [{ mio := true, dc := false, wr := true, addr := 2, bhe := true, ble := false }] ∧
    (BusEvent.memRead false [(0x101, 0x11), (0x102, 0x22)]).cycles =
      [{ mio := true, dc := true, wr := false, addr := 0x100, bhe := false, ble := true },
       { mio := true, dc := true, wr := false, addr := 0x102, bhe := true, ble := false }] := by decide +kernel

/-- LOCK before AAM with base 16 raises exception 6 before the refusal of its base (R142, U28); 15 prefix bytes and an opcode raise
exception 13, whatever the bytes mean (R202). -/
theorem test_lock_and_length :
    after (real { zero with esp := 0x100 }) [(0x18, [0x77, 0x66, 0, 0])] [0xF0, 0xD4, 0x10] (fun t => t.cpu.eip == 0x6677) = true ∧
    after (real { zero with esp := 0x100 }) [(0x34, [0x77, 0x66, 0, 0])] (List.replicate 14 0x66 ++ [0xD4, 0x0A])
      (fun t => t.cpu.eip == 0x6677) = true := by decide +kernel

/-- An ESC that waits for BUSY# is no window for INTR, a WAIT is (R421, R522, R612). -/
theorem test_esc_stalls :
    let waits (code : List Byte) (p : State → Bool) : Bool :=
      match runSteps 1 { (start (fun c => { real { zero with esp := 0x100 } c with
          flags := { c.flags with intf := true } }) [(0x10100, code), (0x80, [0x77, 0x66, 0, 0])]) with
          env := { State.reset.env with busy := true } } with
      | some t => ((runSteps 1 { t with env := { t.env with intr := true, intVectors := [0x20] } }).map p).getD false
      | none => false
    waits [0xD8, 0xC1] (fun t => t.cpu.escWaiting && t.cpu.eip == 0x100) = true ∧
    waits [0x9B] (fun t => t.cpu.eip == 0x6677) = true := by decide +kernel

/-- RESET after two bus cycles of PUSH AX at an odd address: the opcode is fetched, the low byte is stored, the high one is not
(R702). -/
theorem test_reset_in_push :
    (match step { (start (real { zero with eax := 0x2211, esp := 0x103 }) [(0x10100, [0x50])]) with
        env := { State.reset.env with resetAfter := some 2 } } with
      | .next t => t.cpu.eip == 0xFFF0 && bytesFrom t 0x101 2 == [0x11, 0]
      | .fault _ => false
      | .refused _ => false) = true := by decide +kernel

/-- Code is read in words: two bytes at an odd offset take two reads, and the word that holds the next opcode is not read again
(R7, R8, R742). -/
theorem test_code_reads :
    ((runSteps 2 (start (fun c => { real { zero with ebx := 7 } c with eip := 0x101 }) [(0x10101, [0x89, 0xD8, 0x90])])).map
      fun t => t.env.trace == [.memRead true [(0x10102, 0xD8), (0x10103, 0x90)], .memRead true [(0x10100, 0), (0x10101, 0x89)]]) =
      some true := by decide +kernel

/-- With no page present the fetch, the delivery of exception 14 and that of exception 8 raise exception 14: shutdown, and CR2
holds the last of their addresses, that of gate 8 (R629, R683). -/
theorem test_shutdown_registers :
    after (fun c => { prot32 zero c with cr0 := { c.cr0 with pe := true, pg := true } }) [] [0x90]
      (fun t => t.cpu.run == .shutdown && t.cpu.cr2 == 0x40 && t.cpu.eip == 0x100) = true := by decide +kernel

/-! ## The hypotheses of the statements are met: a witness for each clause, at the edge of its range where it has one -/

/-- A word at the last offset of a segment. -/
def topWord : Mem := .direct16 0xFFFE

/-- A dword at the last offset of a segment. -/
def topDword : Mem := .direct16 0xFFFC

/-- Real Mode with general registers. -/
def rm (g : Gpr) : State := start (real g) []

/-- Real Mode with every register zero: SP = 0, the bottom and the top of the stack. -/
def rm0 : State := rm zero

/-- Real Mode under an operand-size prefix. -/
def rm32 (g : Gpr) : State := (rm g).mapCpu fun c => { c with cur := { c.cur with pfx := { c.cur.pfx with opsize := true } } }

/-- Real Mode under a repeat prefix. -/
def rmRep (p : Rep) (g : Gpr) : State :=
  (rm g).mapCpu fun c => { c with cur := { c.cur with pfx := { c.cur.pfx with rep := some p } } }

/-- Protected Mode with general registers and memory. -/
def pm (g : Gpr) (rows : List (PAddr × List Byte)) : State := start (prot32 g) rows

/-- Protected Mode at a CPL with an IOPL. -/
def pmAt (cpl iopl : BitVec 2) : State :=
  (pm zero []).mapCpu fun c => { c with cpl := cpl, flags := { c.flags with iopl := iopl } }

/-- Virtual 8086 Mode with an IOPL. -/
def v86 (iopl : BitVec 2) : State :=
  rm0.mapCpu fun c => { c with cr0 := { c.cr0 with pe := true }, cpl := 3, flags := { c.flags with vm := true, iopl := iopl } }

/-- A state with some flags changed. -/
def flagged (s : State) (f : EFlags → EFlags) : State := s.withFlags (f s.cpu.flags)

theorem witness_MovXchgComplete :
    rm0.ready (.movRmReg true (.mem topWord) .eax) ∧ rm0.canWrite .w (.mem topWord) ∧
    rm0.ready (.movRegRm true .eax (.mem topWord)) ∧ rm0.canRead .w (.mem topWord) ∧
    rm0.ready (.movRmImm false (.reg .edi) (.i8 0xFF)) ∧ rm0.canWrite .b (.reg .edi) ∧
    rm0.ready (.movRegImm true .esp (.i16 0xFFFF)) ∧
    rm0.ready (.movAccMoffs true (.i16 0xFFFE)) ∧ rm0.canAccess rm0.cpu.stringSegment 0xFFFE 2 .read ∧
    rm0.ready (.movMoffsAcc false (.i16 0xFFFF)) ∧ rm0.canAccess rm0.cpu.stringSegment 0xFFFF 1 .write ∧
    rm0.ready (.xchgRmReg true (.mem topWord) .esp) ∧ rm0.ready (.xchgRmReg false (.reg .eax) .esp) ∧
    rm0.canWrite .b (.reg .eax) ∧ rm0.ready (.xchgRegAcc .edi) := by decide +kernel

theorem witness_ExtendAndLeaComplete :
    rm0.ready (.movsx true .eax (.mem topWord)) ∧ rm0.canRead .w (.mem topWord) ∧
    rm0.ready (.movzx false .eax (.reg .esp)) ∧ rm0.canRead .b (.reg .esp) ∧
    rm0.ready (.lea .ebx (.base16 .bxsi (.d16 0xFFFF))) := by decide +kernel

theorem witness_MovSregCompletes :
    rm0.ready (.movSregRm .ss (.mem topWord)) ∧ rm0.canRead .w (.mem topWord) ∧ rm0.cpu.prot = false ∧
    rm0.cpu.peSwitched = false ∧ (v86 0).ready (.movSregRm .gs (.reg .eax)) ∧ (v86 0).cpu.prot = false ∧
    (rm32 zero).ready (.movRmSreg (.reg .eax) .cs) ∧
    rm0.ready (.movRmSreg (.mem topWord) .ss) ∧ rm0.memCan topWord 0 2 .write := by decide +kernel

/-- Protected Mode with a table of data segments: 8 present, 10H absent, 18H execute-only code, 20H of DPL 3; its last descriptor is
at the limit. -/
def segments (g : Gpr) : State :=
  (pm g [(0x3008, [0xFF, 0xFF, 0, 0, 0, 0x92, 0xCF, 0, 0xFF, 0xFF, 0, 0, 0, 0x12, 0xCF, 0, 0xFF, 0xFF, 0, 0, 0, 0x98, 0xCF, 0,
    0xFF, 0xFF, 0, 0, 0, 0xF2, 0xCF, 0])]).mapCpu fun c => { c with gdtr := ⟨0x3000, 0x27⟩ }

/-- The tests of `LoadsSegment` on a selector: whether it is null, where its descriptor lies, whether the segment fits and agrees,
whether it is present. -/
def loadTests (s : State) (r : SReg) (sel : Word) : Bool × Option Dword × Option (Bool × Bool) :=
  (isNull sel, descriptorAddr s.cpu sel, (s.descOf sel).map fun d =>
    let fits : Bool := if r = .ss then d.s && !d.exec && d.rw else d.s && (!d.exec || d.rw)
    let agrees : Bool :=
      if r = .ss then rpl sel == s.cpu.cpl && d.dpl == s.cpu.cpl
      else (d.exec && d.ec) || (decide (s.cpu.cpl ≤ d.dpl) && decide (rpl sel ≤ d.dpl))
    (fits && agrees, d.present))

/-- Selectors that are null, outside the table, unfit, of another level, absent and accepted, for DS and for SS. -/
theorem witness_MovSregCompletes_protected :
    let s := segments zero
    s.cpu.prot = true ∧ s.cpu.cr0.pg = false ∧ s.cpu.peSwitched = false ∧ s.canRead .w (.reg .eax) ∧
    s.ready (.movSregRm .ds (.reg .eax)) ∧ s.ready (.movSregRm .ss (.reg .eax)) ∧
    [3, 0x28, 0x18, 0x10, 8].map (loadTests s .ds) = [(true, some 0x3000, none), (false, none, none),
      (false, some 0x3018, some (false, true)), (false, some 0x3010, some (true, false)), (false, some 0x3008, some (true, true))] ∧
    [0, 0x28, 0x20, 0x10, 8].map (loadTests s .ss) = [(true, some 0x3000, none), (false, none, none),
      (false, some 0x3020, some (false, true)), (false, some 0x3010, some (true, false)),
      (false, some 0x3008, some (true, true))] := by decide +kernel

theorem witness_PushCompletes :
    rm0.canPush rm0.cpu.osz ∧ rm0.ready (.pushReg .esp) ∧ rm0.ready (.pushRm (.mem topWord)) ∧
    rm0.canRead .w (.mem topWord) ∧ rm0.ready (.pushImm true (.i8 0x80)) ∧ rm0.ready (.pushSreg .cs) ∧
    rm0.ready .pushFs ∧ (rm32 zero).canPush (rm32 zero).cpu.osz ∧ (rm32 zero).ready .pushGs ∧
    (rm { zero with esp := 2 }).canPush .w := by decide +kernel

theorem witness_PopCompletes :
    let s := rm { zero with esp := 0xFFFE }
    let t := segments { zero with esp := 0x8000 }
    s.canPeek s.cpu.osz 0 ∧ s.ready (.popReg .esp) ∧ s.ready (.popRm (.mem topWord)) ∧
    (s.popped .w).canWrite .w (.mem topWord) ∧ s.ready (popInstr .ss) ∧ s.ready (popInstr .gs) ∧ s.cpu.prot = false ∧
    s.cpu.peSwitched = false ∧
    t.canPeek t.cpu.osz 0 ∧ t.ready (popInstr .ss) ∧ t.ready (popInstr .es) ∧ t.cpu.peSwitched = false ∧
    t.cpu.prot = true ∧ t.cpu.cr0.pg = false := by decide +kernel

theorem witness_PushaPopaComplete :
    let s := rm { zero with esp := 16 }
    let t := rm { zero with esp := 0xFFF0 }
    let items := [Reg.eax, .ecx, .edx, .ebx, .esp, .ebp, .esi, .edi].map (s.reg s.cpu.osz)
    s.ready .pusha ∧ pushaShutsDown s.cpu s.cpu.osz = false ∧
    stackRoom s.cpu.prot s.cpu.segs.ss s.cpu.sp 8 s.cpu.osz.bytes = true ∧ s.canPushAll s.cpu.osz items ∧
    t.ready .popa ∧
    t.canPopInto t.cpu.osz [some .edi, some .esi, some .ebp, none, some .ebx, some .edx, some .ecx, some .eax] := by
  decide +kernel

theorem witness_InOutComplete :
    let s := rm { zero with edx := 0xFFFE }
    let t := rm { zero with edx := 0xFFFF }
    s.cpu.ioFree ∧ s.ioPermits 0xFF 2 = true ∧ s.ready (.inImm true 0xFF) ∧ s.ready (.outImm true 0xFF) ∧
    s.ioPermits (s.reg .w .edx) 2 = true ∧ (s.reg .w .edx).toNat + 2 ≤ 0x10000 ∧ s.ready (.inDx true) ∧ s.ready (.outDx true) ∧
    t.cpu.ioFree ∧ t.ioPermits (t.reg .w .edx) 2 = true ∧ 0x10000 < (t.reg .w .edx).toNat + 2 ∧ t.mayRun (.inDx true) ∧
    t.mayRun (.outDx true) ∧ (pmAt 3 3).cpu.ioFree := by decide +kernel

/-- CPL 3, IOPL 0, an 80386SX TSS whose permission map starts at offset 68H and spans ports 0 to 17H: ports 8 to 0FH are denied. -/
def mapped (g : Gpr) : State :=
  (pm g [(0x6066, [0x68, 0, 0, 0xFF, 0])]).mapCpu fun c =>
    { c with cpl := 3, tr := { c.tr with base := 0x6000, limit := 0x6A, is386 := true } }

/-- The last two ports the map permits, the ports across its lower and upper edge, and any port under an 80286 TSS. -/
theorem witness_InOutComplete_map :
    let s := mapped { zero with edx := 0x16 }
    let t := (mapped { zero with edx := 0x17 }).mapCpu fun c => { c with cur := { c.cur with pfx := { c.cur.pfx with opsize := true } } }
    let u := s.mapCpu fun c => { c with tr := { c.tr with is386 := false } }
    s.cpu.ioFree = false ∧ s.cpu.cr0.pg = false ∧ t.cpu.osz = .w ∧ s.ioPermits 0 1 = true ∧ s.ready (.inImm false 0) ∧
    s.ready (.outImm false 0) ∧ s.ioPermits (s.reg .w .edx) 1 = true ∧ s.ready (.inDx false) ∧ s.ready (.outDx false) ∧
    t.ioPermits 7 2 = false ∧ t.mayRun (.inImm true 7) ∧ t.mayRun (.outImm true 7) ∧
    t.ioPermits (t.reg .w .edx) 2 = false ∧ t.mayRun (.inDx true) ∧ t.mayRun (.outDx true) ∧
    u.ioPermits 0 1 = false ∧ u.mayRun (.inImm false 0) := by decide +kernel

theorem witness_LoadPointerCompletes :
    let t := segments zero
    rm0.ready (loadPointerInstr .ss .esp topDword) ∧ rm0.memCan topDword 0 2 .read ∧ rm0.memCan topDword 2 2 .read ∧
    rm0.cpu.prot = false ∧ rm0.cpu.peSwitched = false ∧ rm0.cpu.osz = .w ∧ (v86 0).ready (loadPointerInstr .gs .eax topDword) ∧
    t.ready (loadPointerInstr .ss .esp (.direct32 0xFFFFFFFA)) ∧ t.memCan (.direct32 0xFFFFFFFA) 0 4 .read ∧
    t.memCan (.direct32 0xFFFFFFFA) 4 2 .read ∧ t.cpu.prot = true ∧ t.cpu.cr0.pg = false ∧ t.cpu.peSwitched = false ∧
    t.ready (loadPointerInstr .fs .esp (.direct32 0xFFFFFFFA)) := by decide +kernel

theorem witness_FlagOpsComplete :
    rm0.ready .clc ∧ rm0.ready .stc ∧ rm0.ready .cmc ∧ rm0.ready .cld ∧ rm0.ready .std ∧ rm0.ready .sahf ∧ rm0.ready .lahf := by
  decide +kernel

theorem witness_CliStiComplete :
    (pmAt 3 3).ready .cli ∧ (pmAt 3 3).cpu.prot ∧ (pmAt 3 3).cpu.cpl ≤ (pmAt 3 3).cpu.flags.iopl ∧ (pmAt 3 3).ready .sti ∧
    (v86 3).cpu.v86 ∧ (v86 3).ready .sti ∧
    (pmAt 1 0).cpu.flags.iopl < (pmAt 1 0).cpu.cpl ∧ (pmAt 1 0).mayRun .cli ∧ (pmAt 1 0).mayRun .sti ∧
    (v86 2).cpu.v86 ∧ (v86 2).cpu.flags.iopl ≠ 3 ∧ (v86 2).mayRun .cli ∧ (pmAt 0 0).ready .clts ∧ rm0.ready .clts := by
  decide +kernel

theorem witness_PushfPopfComplete :
    ((v86 3).cpu.v86 && (v86 3).cpu.flags.iopl != 3) = false ∧ (v86 3).ready .pushf ∧ (v86 3).canPush (v86 3).cpu.osz ∧
    (pmAt 3 0).ready .popf ∧ (pmAt 3 0).cpu.v86 = false ∧ rm0.ready .popf ∧ rm0.canPeek rm0.cpu.osz 0 ∧
    ((v86 2).cpu.v86 && (v86 2).cpu.flags.iopl != 3) = true ∧ (v86 2).mayRun .pushf ∧ (v86 2).mayRun .popf := by decide +kernel

theorem witness_AluCompletes :
    rm0.ready (aluRmRegInstr .add false true (.mem topWord) .eax) ∧ rm0.canWrite .w (.mem topWord) ∧
    rm0.ready (aluRmRegInstr .adc true true (.mem topWord) .eax) ∧ rm0.canRead .w (.mem topWord) ∧
    rm0.ready (aluRmImmInstr .sub true true (.reg .eax) (.i8 0x80)) ∧ rm0.canWrite .w (.reg .eax) ∧
    rm0.ready (aluAccImmInstr .sbb false (.i8 0xFF)) := by decide +kernel

theorem witness_CompareAndTestComplete :
    rm0.ready (.cmpRmReg false true (.mem topWord) .eax) ∧ rm0.canRead .w (.mem topWord) ∧
    rm0.ready (.cmpRmImm true true (.mem topWord) (.i8 0x80)) ∧ rm0.ready (.cmpAccImm true (.i16 0x8000)) ∧
    rm0.ready (.testRmReg true (.mem topWord) .eax) ∧ rm0.ready (.testRmImm true (.mem topWord) (.i16 1)) ∧
    rm0.ready (.testAccImm false (.i8 1)) := by decide +kernel

theorem witness_UnaryCompletes :
    rm0.canWrite .w (.mem topWord) ∧ rm0.ready (.incRm true (.mem topWord)) ∧ rm0.ready (.decRm true (.mem topWord)) ∧
    rm0.ready (.negRm true (.mem topWord)) ∧ rm0.ready (.notRm true (.mem topWord)) ∧ rm0.ready (.incReg .esp) ∧
    rm0.ready (.decReg .esp) := by decide +kernel

theorem witness_AdjustCompletes :
    rm0.ready .aaa ∧ rm0.ready .aas ∧ rm0.ready .daa ∧ rm0.ready .das ∧ rm0.ready .aad ∧ rm0.ready .aam ∧ rm0.ready .cbw ∧
    rm0.ready .cwd := by decide +kernel

theorem witness_MultiplyCompletes :
    rm0.canRead .w (.mem topWord) ∧ rm0.ready (.mulAcc true (.mem topWord)) ∧ rm0.ready (.imulAcc true (.mem topWord)) ∧
    rm0.ready (.imulRegRm .eax (.mem topWord)) ∧ rm0.ready (.imulRegRmImm true .eax (.mem topWord) (.i8 0x80)) := by
  decide +kernel

/-- The largest quotients that fit: FFH of DIV, 7FH and -80H of IDIV; the smallest that do not; and a divisor of 0. -/
theorem witness_DivideCompletes :
    let s := rm { zero with eax := 0x01FF, ebx := 2 }
    let t := rm { zero with eax := 0xFF00, ebx := 2 }
    let u := rm { zero with eax := 0x00FE, ebx := 2 }
    let s' := rm { zero with eax := 0x0200, ebx := 2 }
    let t' := rm { zero with eax := 0x0100, ebx := 2 }
    let u' := rm { zero with eax := 0xFEFE, ebx := 2 }
    s.canRead .b (.reg .ebx) ∧ s.rmValue .b (.reg .ebx) ≠ 0 ∧
    (dividend s .b).toNat / (s.rmValue .b (.reg .ebx)).toNat = 0xFF ∧ s.ready (.divAcc false (.reg .ebx)) ∧
    (dividend t .b).toInt.tdiv (t.rmValue .b (.reg .ebx)).toInt = -128 ∧ t.ready (.idivAcc false (.reg .ebx)) ∧
    (dividend u .b).toInt.tdiv (u.rmValue .b (.reg .ebx)).toInt = 127 ∧
    (dividend s' .b).toNat / (s'.rmValue .b (.reg .ebx)).toNat = 0x100 ∧ s'.mayRun (.divAcc false (.reg .ebx)) ∧
    (dividend t' .b).toInt.tdiv (t'.rmValue .b (.reg .ebx)).toInt = 128 ∧ t'.mayRun (.idivAcc false (.reg .ebx)) ∧
    (dividend u' .b).toInt.tdiv (u'.rmValue .b (.reg .ebx)).toInt = -129 ∧ rm0.rmValue .b (.reg .ebx) = 0 := by decide +kernel

/-- Counts 0, 1 and 31 of each form. -/
theorem witness_ShiftCompletes :
    let s := rm { zero with ecx := 0x20 }
    rm0.ready (shiftInstr .rcl .one true (.mem topWord)) ∧ rm0.canWrite .w (.mem topWord) ∧
    s.ready (shiftInstr .sar .cl true (.mem topWord)) ∧ (CountForm.cl.count s).toNat % 32 = 0 ∧
    rm0.ready (shiftInstr .ror (.imm 31) false (.reg .esp)) ∧ rm0.canWrite .b (.reg .esp) := by decide +kernel

/-- Byte counts 1, 8, 9 (all the bits and CF) and 10. -/
theorem witness_ShiftMeaning :
    (1 : Nat) ≠ 0 ∧ 8 ≤ Sz.b.bits ∧ Sz.b.bits < 9 ∧ (9 : Nat) ≠ 0 ∧ 9 % (Sz.b.bits + 1) = 0 ∧ 10 % (Sz.b.bits + 1) ≠ 0 := by decide

/-- Counts 0, 16 and 17 of a 16-bit operand. -/
theorem witness_DoubleShiftCompletes :
    rm0.ready (doubleShiftInstr true none (.mem topWord) .eax) ∧ rm0.canWrite rm0.cpu.osz (.mem topWord) ∧ rm0.cpu.osz.bits = 16 ∧
    rm0.ready (doubleShiftInstr false (some 16) (.mem topWord) .eax) ∧
    rm0.ready (doubleShiftInstr true (some 17) (.reg .eax) .ebx) := by decide +kernel

theorem witness_LogicCompletes :
    rm0.ready (logicRmRegInstr .and false true (.mem topWord) .eax) ∧ rm0.canWrite .w (.mem topWord) ∧
    rm0.ready (logicRmRegInstr .or true true (.mem topWord) .eax) ∧ rm0.canRead .w (.mem topWord) ∧
    rm0.ready (logicRmImmInstr .xor true (.mem topWord) (.i16 0xFFFF)) ∧
    rm0.ready (logicRmImm8Instr .and (.mem topWord) 0x80) ∧ rm0.canWrite rm0.cpu.osz (.mem topWord) ∧
    rm0.ready (logicAccImmInstr .or false (.i8 1)) := by decide +kernel

theorem witness_StringCompletes :
    let s := rm { zero with esi := 0xFFFE, edi := 0xFFFE, ebx := 0xFFFF }
    s.cpu.cur.pfx.rep = none ∧ s.ready (.cmps true) ∧ s.canAccess .ds 0xFFFE 2 .read ∧ s.canAccess .es 0xFFFE 2 .read ∧
    s.cpu.stringSegment = .ds ∧ s.cpu.index .esi = 0xFFFE ∧ s.cpu.index .edi = 0xFFFE ∧ s.ready (.lods true) ∧
    s.ready (.movs true) ∧ s.canAccess .es 0xFFFE 2 .write ∧ s.ready (.scas true) ∧ s.ready (.stos true) ∧ s.ready .xlat ∧
    s.canAccess .ds 0xFFFF 1 .read := by decide +kernel

theorem witness_StringIoCompletes :
    let s := rm { zero with esi := 0xFFFE, edi := 0xFFFE, edx := 0xFFFE }
    let t := mapped { zero with edx := 0x16 }
    let u := mapped { zero with edx := 8 }
    s.cpu.ioFree ∧ s.ioPermits (s.reg .w .edx) 2 = true ∧ (s.reg .w .edx).toNat + 2 ≤ 0x10000 ∧ s.cpu.cur.pfx.rep = none ∧
    s.ready (.ins true) ∧ s.canAccess .es (s.cpu.index .edi) 2 .write ∧ s.ready (.outs true) ∧
    s.canAccess s.cpu.stringSegment (s.cpu.index .esi) 2 .read ∧
    t.cpu.ioFree = false ∧ t.cpu.cr0.pg = false ∧ t.cpu.cur.pfx.rep = none ∧ t.ioPermits (t.reg .w .edx) 1 = true ∧
    t.ready (.ins false) ∧ t.ready (.outs false) ∧
    u.ioPermits (u.reg .w .edx) 1 = false ∧ u.mayRun (.ins false) ∧ u.mayRun (.outs false) := by decide +kernel

/-- Counts 0, 1 and FFFFH. -/
theorem witness_RepeatSteps :
    let s := rmRep .rep zero
    let t := rmRep .repne { zero with ecx := 1 }
    let u := rmRep .rep { zero with ecx := 0xFFFF }
    s.cpu.cur.pfx.rep = some .rep ∧ s.cpu.index .ecx = 0 ∧ s.ready (.ins true) ∧ s.ready (.cmps true) ∧
    t.cpu.cur.pfx.rep = some .repne ∧ t.cpu.index .ecx = 1 ∧ t.ready (.scas true) ∧ t.ready (.cmps true) ∧
    t.canAccess t.cpu.stringSegment (t.cpu.index .esi) 2 .read ∧ t.canAccess .es (t.cpu.index .edi) 2 .read ∧
    u.cpu.index .ecx ≠ 0 ∧ u.ready (.movs true) ∧ u.ready (.lods true) ∧ u.ready (.stos true) ∧
    u.canAccess u.cpu.stringSegment (u.cpu.index .esi) 2 .read ∧ u.canAccess .es (u.cpu.index .edi) 2 .write ∧
    u.cpu.ioFree ∧ u.ioPermits (u.reg .w .edx) 2 = true ∧ (u.reg .w .edx).toNat + 2 ≤ 0x10000 ∧ u.ready (.ins true) ∧
    u.ready (.outs true) := by decide +kernel

/-- The sources 0 and 8000H, whose only bit is both the lowest and the highest. -/
theorem witness_BitScanCompletes :
    let s := rm { zero with ebx := 0x8000 }
    rm0.canRead rm0.cpu.osz (.reg .ebx) ∧ rm0.rmValue rm0.cpu.osz (.reg .ebx) = 0 ∧ rm0.ready (.bsf .eax (.reg .ebx)) ∧
    rm0.ready (.bsr .eax (.reg .ebx)) ∧
    (s.rmValue .w (.reg .ebx)).getLsbD 15 = true ∧ (∀ i, i < 15 → (s.rmValue .w (.reg .ebx)).getLsbD i = false) ∧
    s.cpu.osz = .w ∧ s.ready (.bsf .eax (.reg .ebx)) ∧ s.ready (.bsr .eax (.reg .ebx)) := by decide +kernel

/-- The highest bit of the source: nothing above it. -/
theorem witness_BitScanCompletes_above :
    ∀ i, 15 < i → ((rm { zero with ebx := 0x8000 }).rmValue .w (.reg .ebx)).getLsbD i = false := by
  intro i h
  exact BitVec.getLsbD_of_ge _ i h

theorem witness_BitTestCompletes :
    let s := rm { zero with ecx := 0xFFFF }
    s.ready (.btImm (.reg .eax) 0xFF) ∧ s.ready (.btReg (.reg .eax) .ecx) ∧ s.ready (bitImmInstr .btc (.reg .esp) 0) ∧
    s.ready (bitRegInstr .btr (.reg .eax) .ecx) ∧ s.ready (.btImm (.mem topWord) 0xFF) ∧
    s.memCan topWord 0 2 .read ∧ s.ready (.btReg (.mem topWord) .ecx) ∧
    s.memCan topWord (bitDisplacement .w (s.reg .w .ecx)) 2 .read ∧ s.ready (bitImmInstr .bts (.mem topWord) 0) ∧
    s.memCan topWord 0 2 .write ∧ s.ready (bitRegInstr .bts (.mem topWord) .ecx) ∧
    s.memCan topWord (bitDisplacement .w (s.reg .w .ecx)) 2 .write := by decide +kernel

/-- Real Mode at an offset. -/
def rmAt (eip : Dword) (g : Gpr) : State := (rm g).mapCpu fun c => { c with eip := eip }

/-- Targets at the limit of the code segment, and each condition either way. -/
theorem witness_NearJumpsComplete :
    let s := rmAt 0xFFF0 zero
    let t := flagged (rmAt 0xFFF0 { zero with ecx := 1 }) fun f => { f with zf := true }
    let u := flagged s fun f => { f with zf := true }
    s.cpu.target (s.cpu.next + (0x0F : Byte).signExtend 32) = s.cpu.segs.cs.limit ∧ s.mayRun (.jmpShort 0x0F) ∧
    s.cpu.flags.holds .ne = true ∧ s.mayRun (.jccShort .ne 0x0F) ∧ s.cpu.index .ecx = 0 ∧ s.mayRun (.jcxz 0x0F) ∧
    s.cpu.index .ecx ≠ 1 ∧ s.mayRun (.loop 0x0F) ∧ u.cpu.flags.zf = true ∧ u.mayRun (.loopz 0x0F) ∧ s.cpu.flags.zf = false ∧
    s.mayRun (.loopnz 0x0F) ∧
    s.cpu.target (s.cpu.next + immDisp (.i16 0x0F)) = s.cpu.segs.cs.limit ∧ s.mayRun (.jmpRel (.i16 0x0F)) ∧
    s.mayRun (.jccNear .ne (.i16 0x0F)) ∧
    (rm { zero with eax := 0xFFFF }).mayRun (.jmpRm (.reg .eax)) ∧
    ((rm { zero with eax := 0xFFFF }).rmValue .w (.reg .eax)).setWidth 32 ≤ s.cpu.segs.cs.limit ∧
    s.cpu.flags.holds .e = false ∧ s.ready (.jccShort .e 0) ∧ s.ready (.jccNear .e (.i16 0)) ∧
    t.cpu.index .ecx = 1 ∧ t.ready (.jcxz 0) ∧ t.ready (.loop 0) ∧ t.ready (.loopz 0) ∧ t.cpu.flags.zf = true ∧
    t.ready (.loopnz 0) := by decide +kernel

theorem witness_NearCallReturnComplete :
    let s := rmAt 0xFFF0 { zero with eax := 0xFFFF }
    let t := start (real { zero with esp := 0xFFFE }) [(0xFFFE, [0xFF, 0xFF])]
    s.mayRun (.callRel (.i16 0x0F)) ∧ s.cpu.target (s.cpu.next + immDisp (.i16 0x0F)) = s.cpu.segs.cs.limit ∧ s.canPush s.cpu.osz ∧
    s.mayRun (.callRm (.reg .eax)) ∧ s.canRead s.cpu.osz (.reg .eax) ∧
    (s.rmValue s.cpu.osz (.reg .eax)).setWidth 32 ≤ s.cpu.segs.cs.limit ∧
    t.canPeek t.cpu.osz 0 ∧ (t.peek t.cpu.osz 0).setWidth 32 = t.cpu.segs.cs.limit ∧ t.mayRun .retNear ∧
    t.mayRun (.retNearImm 0xFFFF) := by decide +kernel

/-- Targets one above the limit, with a 32-bit operand in Real Mode. -/
theorem witness_NearTargetBeyondLimit :
    let s := (rm32 { zero with eax := 0x10000 }).mapCpu fun c => { c with eip := 0xFFF0 }
    let t := flagged s fun f => { f with zf := true }
    let u := { s with mem := memory [(0, [0, 0, 1, 0])] }
    s.cpu.target (s.cpu.next + (0x10 : Byte).signExtend 32) = s.cpu.segs.cs.limit + 1 ∧ s.mayRun (.jmpShort 0x10) ∧
    s.cpu.flags.holds .ne = true ∧ s.mayRun (.jccShort .ne 0x10) ∧ s.cpu.index .ecx = 0 ∧ s.mayRun (.jcxz 0x10) ∧
    s.cpu.index .ecx ≠ 1 ∧ s.mayRun (.loop 0x10) ∧ s.cpu.flags.zf = false ∧ s.mayRun (.loopnz 0x10) ∧
    t.cpu.flags.zf = true ∧ t.mayRun (.loopz 0x10) ∧
    s.cpu.target (s.cpu.next + immDisp (.i32 0x10)) = s.cpu.segs.cs.limit + 1 ∧ s.mayRun (.jmpRel (.i32 0x10)) ∧
    s.mayRun (.jccNear .ne (.i32 0x10)) ∧ s.mayRun (.callRel (.i32 0x10)) ∧ s.canRead s.cpu.osz (.reg .eax) ∧
    (s.rmValue s.cpu.osz (.reg .eax)).setWidth 32 = s.cpu.segs.cs.limit + 1 ∧ s.mayRun (.jmpRm (.reg .eax)) ∧
    s.mayRun (.callRm (.reg .eax)) ∧
    u.canPeek u.cpu.osz 0 ∧ (u.peek u.cpu.osz 0).setWidth 32 = u.cpu.segs.cs.limit + 1 ∧ u.mayRun .retNear ∧
    u.mayRun (.retNearImm 0xFFFF) := by decide +kernel

theorem witness_FarTransfer8086Completes :
    let t := rm { zero with esp := 0xFFFC }
    rm0.cpu.prot = false ∧ immOffset (.i16 0xFFFF) = 0xFFFF ∧ rm0.mayRun (.jmpFar (.i16 0xFFFF) 0xFFFF) ∧
    rm0.memCan topDword 0 2 .read ∧ rm0.memCan topDword 2 2 .read ∧ rm0.loadAt (rm0.memLinear topDword 0) .w ≤ 0xFFFF ∧
    rm0.mayRun (.jmpFarMem topDword) ∧ rm0.cpu.peSwitched = false ∧ rm0.canPush rm0.cpu.osz ∧
    (rm0.pushedSelector .w rm0.cpu.segs.cs.selector).canPush .w ∧ rm0.mayRun (.callFar (.i16 0xFFFF) 0) ∧
    rm0.mayRun (.callFarMem topDword) ∧ rm0.cpu.osz = .w ∧
    t.canPeek .w 0 ∧ t.canPeek .w 2 ∧ (t.peek .w 0).toNat ≤ 0xFFFF ∧ t.mayRun .retFar ∧ t.mayRun (.retFarImm 0xFFFF) ∧
    (v86 0).cpu.prot = false ∧ (v86 0).mayRun .retFar := by decide +kernel

/-- Nesting depths 0, 1 and 31, on a 16-bit stack; depth 1 with a 32-bit operand on either stack. -/
theorem witness_FrameInstructionsComplete :
    let s := rm { zero with esp := 0x200, ebp := 0x300 }
    let t := s.pushed .w (s.reg .w .ebp)
    let wide := fun u : State => u.ready (.enter 0 1) && (u.cpu.osz == .d) && u.canPush .d && (u.pushed .d 0x200).canPush .d
    wide (rm32 { zero with esp := 0x300 }) ∧ (rm0.cpu.segs.ss.big = false) ∧
    wide (pm { zero with esp := 0x300 } []) ∧ (pm zero []).cpu.segs.ss.big = true ∧
    rm0.ready (.setcc .o (.mem (.direct16 0xFFFF))) ∧ rm0.canWrite .b (.mem (.direct16 0xFFFF)) ∧
    s.ready (.enter 0xFFFF 0) ∧ s.canPush s.cpu.osz ∧ s.ready (.enter 0 0x1F) ∧
    t.canCopyFrames .w 30 ∧ (t.framesCopied .w 30).canPush .w ∧ s.cpu.osz = .w ∧ s.ready (.enter 0 1) ∧
    (rm { zero with ebp := 0xFFFE }).ready .leave ∧
    ((rm { zero with ebp := 0xFFFE }).mapCpu fun c => c.withSp (c.stackWrap c.gpr.ebp)).canPeek .w 0 := by decide +kernel

/-- The last vector of the table, and a stack with room for exactly three words. -/
theorem witness_SoftwareInterruptEntersReal :
    let s := flagged (rm { zero with esp := 6 }) fun f => { f with ovf := true }
    s.canEnterReal 0xFF s.cpu.next ∧ s.mayRun (.int 0xFF) ∧ s.canEnterReal 3 s.cpu.next ∧ s.mayRun .int3 ∧
    s.canEnterReal 4 s.cpu.next ∧ s.cpu.flags.ovf = true ∧ s.mayRun .into ∧
    rm0.cpu.flags.ovf = false ∧ rm0.ready .into := by decide +kernel

/-- Both bounds 0, with the index 0, 1 and -1. -/
theorem witness_BoundCompletes :
    let s := rm { zero with ebx := 1 }
    let t := rm { zero with ebx := 0xFFFF }
    rm0.memCan topDword 0 2 .read ∧ rm0.memCan topDword 2 2 .read ∧ rm0.ready (.bound .ebx topDword) ∧
    (rm0.loadAt (rm0.memLinear topDword 0) .w).toInt = 0 ∧ (rm0.loadAt (rm0.memLinear topDword 2) .w).toInt = 0 ∧
    (rm0.reg .w .ebx).toInt = 0 ∧ (s.reg .w .ebx).toInt = 1 ∧ s.mayRun (.bound .ebx topDword) ∧
    (t.reg .w .ebx).toInt = -1 ∧ t.mayRun (.bound .ebx topDword) := by decide +kernel

theorem witness_Iret8086Completes :
    let s := rm { zero with esp := 0xFFFA }
    s.cpu.prot = false ∧ s.cpu.real ∧ s.cpu.peSwitched = false ∧ s.mayRun .iret ∧ s.canPeek s.cpu.osz 0 ∧ s.canPeek s.cpu.osz 2 ∧
    s.canPeek s.cpu.osz 4 ∧ s.cpu.allows .ss (s.cpu.spPlus 0) 6 .read ∧ (s.peek s.cpu.osz 0).toNat ≤ 0xFFFF ∧
    s.cpu.osz = .w ∧ (v86 3).cpu.prot = false ∧ (v86 3).cpu.flags.iopl == 3 ∧ (v86 3).mayRun .iret := by decide +kernel

/-- The coprocessor's pins and the bits TS and MP in each combination the clauses ask for. -/
theorem witness_HaltNopWaitPrefixesComplete :
    let busy : State := { rm0 with env := { rm0.env with busy := true } }
    let failed : State := { rm0 with env := { rm0.env with error := true } }
    let switched := rm0.mapCpu fun c => { c with cr0 := { c.cr0 with ts := true, mp := true } }
    rm0.ready .hlt ∧ rm0.ready .nop ∧ (rm0.cpu.cr0.ts && rm0.cpu.cr0.mp) = false ∧ rm0.env.busy = false ∧
    rm0.env.error = false ∧ rm0.ready .wait ∧ failed.env.busy = false ∧ failed.env.error = true ∧ failed.mayRun .wait ∧
    busy.env.busy = true ∧ busy.mayRun .wait ∧ (switched.cpu.cr0.ts && switched.cpu.cr0.mp) = true ∧ switched.mayRun .wait := by
  decide +kernel

theorem witness_ControlRegisterMoves :
    let s := rm { zero with eax := 0x80000001, ebx := 0x80000000, ecx := 0x7FFFFFFE }
    (s.cpu.gpr.get .ecx).getLsbD 31 = false ∧ s.ready (.movCrReg .cr0 .ecx) ∧ (s.cpu.gpr.get .eax).getLsbD 0 = true ∧
    s.ready (.movCrReg .cr0 .eax) ∧ (s.cpu.gpr.get .ebx).getLsbD 31 = true ∧ (s.cpu.gpr.get .ebx).getLsbD 0 = false ∧
    s.mayRun (.movCrReg .cr0 .ebx) ∧ s.ready (.movCrReg .cr2 .eax) ∧ s.ready (.movCrReg .cr3 .eax) ∧
    s.ready (.movRegCr .esp .cr0) ∧ s.ready (.movRegCr .eax .cr3) := by decide +kernel

theorem witness_DebugAndTestMoves :
    let s := rm { zero with eax := 0x00020000 }
    let t := s.mapCpu fun c => { c with dbg := { c.dbg with dr7 := 0x2000 } }
    s.cpu.dbg.dr7.getLsbD 13 = false ∧ undefinedBreakpoint (s.cpu.gpr.get .ebx) = false ∧ s.ready (.movDrReg .dr7 .ebx) ∧
    s.ready (.movDrReg .dr0 .eax) ∧ undefinedBreakpoint (s.cpu.gpr.get .eax) = true ∧ s.mayRun (.movDrReg .dr7 .eax) ∧
    s.ready (.movRegDr .eax .dr6) ∧ t.cpu.dbg.dr7.getLsbD 13 = true ∧ t.mayRun (.movDrReg .dr7 .eax) ∧
    t.mayRun (.movRegDr .eax .dr0) ∧ s.mayRun (.movDrReg .dr4 .eax) ∧ s.mayRun (.movRegDr .eax .dr5) ∧
    s.ready (.movTrReg .tr6 .eax) ∧ s.ready (.movRegTr .eax .tr7) := by decide +kernel

/-- A transfer of two words at the top of the segment, each way; the checks of exceptions 7 and 16; an ESC that stalls, one that does
not heed the pins, and one that goes on after its stall. -/
theorem witness_EscCompletes :
    let s : State := { rm0 with env := { rm0.env with coRequests := [.toMemory 1, .fromMemory] } }
    let ts := rm0.mapCpu fun c => { c with cr0 := { c.cr0 with ts := true } }
    let failed : State := { rm0 with env := { rm0.env with error := true } }
    let busy : State := { rm0 with env := { rm0.env with busy := true } }
    let stalled := failed.mapCpu fun c => { c with escWaiting := true }
    rm0.cpu.escWaiting = false ∧ (rm0.cpu.cr0.em || rm0.cpu.cr0.ts) = false ∧ rm0.env.error = false ∧ rm0.env.busy = false ∧
    rm0.ready (.esc 0 0 (.reg .ecx)) ∧ rm0.ready (.esc 7 4 (.reg .ecx)) ∧
    s.ready (.esc 1 0 (.mem topWord)) ∧ s.memCan topDword 0 2 (if storesFirst s.env.coRequests then .write else .read) ∧
    (s.coSent 1 0 (.mem topDword)).canCoMoveAll topDword 0 s.env.coRequests ∧
    s.env.coRequests = .toMemory 1 :: [.fromMemory] ∧ s.ready (.esc 7 4 (.reg .eax)) ∧
    storesFirst rm0.env.coRequests = false ∧ rm0.ready (.esc 7 4 (.reg .eax)) ∧
    (ts.cpu.cr0.em || ts.cpu.cr0.ts) = true ∧ ts.mayRun (.esc 0 0 (.reg .eax)) ∧
    escExempt 0 0 (.reg .eax) = false ∧ failed.env.error = true ∧ failed.mayRun (.esc 0 0 (.reg .eax)) ∧
    escExempt 3 4 (.reg .ebx) = true ∧ failed.ready (.esc 3 4 (.reg .ebx)) ∧
    busy.env.busy = true ∧ busy.mayRun (.esc 0 0 (.reg .eax)) ∧ escExempt 1 0 (.mem topDword) = false ∧
    busy.memCan topDword 0 2 .read ∧ busy.mayRun (.esc 1 0 (.mem topDword)) ∧
    stalled.cpu.escWaiting = true ∧ stalled.ready (.esc 0 0 (.reg .eax)) := by decide +kernel

theorem witness_TableRegistersMove :
    rm0.memCan (.direct16 0xFFFA) 0 2 .read ∧ rm0.memCan (.direct16 0xFFFA) 2 4 .read ∧ rm0.ready (.lgdt (.direct16 0xFFFA)) ∧
    (rm32 zero).ready (.lidt (.direct16 0xFFFA)) ∧ rm0.memCan (.direct16 0xFFFA) 0 2 .write ∧
    rm0.memCan (.direct16 0xFFFA) 2 4 .write ∧ (v86 0).ready (.sgdt (.direct16 0xFFFA)) ∧
    (rm32 zero).ready (.sidt (.direct16 0xFFFA)) := by decide +kernel

theorem witness_StatusWordMoves :
    rm0.ready (.lmsw (.mem topWord)) ∧ rm0.canRead .w (.mem topWord) ∧ rm0.canWrite .w (.mem topWord) ∧
    rm0.ready (.smsw (.mem topWord)) ∧ (v86 0).ready (.smsw (.reg .eax)) ∧ (pmAt 3 0).ready (.sldt (.reg .eax)) ∧
    (pmAt 3 0).ready (.str (.reg .eax)) := by decide +kernel

/-- Protected Mode with a table of an LDT, two TSSs, a readable code segment and a writable data segment, its last descriptor at
the limit. -/
def tables (g : Gpr) : State :=
  (pm g [(0x3008, [0x0F, 0, 0, 0x50, 0, 0x82, 0, 0, 0x67, 0, 0, 0x60, 0, 0x89, 0, 0, 0x2B, 0, 0, 0x70, 0, 0x81, 0, 0,
    0xFF, 0xFF, 0, 0, 0, 0x9A, 0xCF, 0, 0xFF, 0xFF, 0, 0, 0, 0x92, 0xCF, 0])]).mapCpu fun c => { c with gdtr := ⟨0x3000, 0x2F⟩ }

theorem witness_TaskAndLdtLoads :
    let s := tables { zero with ebx := 8, ecx := 0x10, edx := 0x18 }
    s.cpu.cr0.pg = false ∧ s.canRead .w (.reg .eax) ∧ isNull (s.rmValue .w (.reg .eax)) ∧ s.ready (.lldt (.reg .eax)) ∧
    isNull (s.rmValue .w (.reg .ebx)) = false ∧ descriptorAddr s.cpu 8 = some 0x3008 ∧ (s.descAt 0x3008).s = false ∧
    (s.descAt 0x3008).present = true ∧ (s.descAt 0x3008).type = 2 ∧ s.ready (.lldt (.reg .ebx)) ∧
    descriptorAddr s.cpu 0x10 = some 0x3010 ∧ (s.descAt 0x3010).type = 9 ∧ (s.descAt 0x3010).present = true ∧
    s.ready (.ltr (.reg .ecx)) ∧
    descriptorAddr s.cpu 0x18 = some 0x3018 ∧ (s.descAt 0x3018).type = 1 ∧ s.ready (.ltr (.reg .edx)) := by decide +kernel

theorem witness_SelectorTestsComplete :
    let s := tables { zero with ebx := 0x20, ecx := 0x28, edx := 3 }
    rpl (s.rmValue .w (.reg .ebx)) < rpl (s.reg .w .edx) ∧ s.canWrite .w (.reg .ebx) ∧ s.ready (.arpl (.reg .ebx) .edx) ∧
    s.cpu.cr0.pg = false ∧ s.canRead .w (.reg .ebx) ∧ s.ready (.lar .eax (.reg .ebx)) ∧ s.ready (.lsl .eax (.reg .ebx)) ∧
    s.ready (.verr (.reg .ebx)) ∧ s.ready (.verw (.reg .ecx)) ∧ (s.descOf 0x20).isSome ∧ (s.descOf 0x28).isSome ∧
    (s.descOf 0).isNone := by decide +kernel

/-- The answer of an instruction is a next state. -/
def answersNext (o : Host.Outcome State Fault Refusal) : Bool :=
  match o with
  | .next _ => true
  | .fault _ => false
  | .refused _ => false

theorem answersNext_exists {o : Host.Outcome State Fault Refusal} (h : answersNext o = true) : ∃ t, o = .next t := by
  cases o with
  | next t => exact ⟨t, rfl⟩
  | fault r => cases r
  | refused r => cases h

/-- Memory in its canonical form, with bytes on either side of the end of the address space. -/
theorem witness_RegisterAndMemoryBytes :
    (start (real zero) [(0xFFFFFE, [0x34, 0x12]), (0, [0x78])]).mem.wf = true := by decide +kernel

theorem witness_Frames : ∃ t p, rm0.mem.wf = true ∧ footprint (.addRmReg false true (.mem topWord) .eax) rm0 = some p ∧
    p.allowed = true ∧ rm0.ready (.addRmReg false true (.mem topWord) .eax) = true ∧
    exec (.addRmReg false true (.mem topWord) .eax) rm0 = .next t := by
  obtain ⟨t, h⟩ := answersNext_exists (o := exec (.addRmReg false true (.mem topWord) .eax) rm0) (by decide +kernel)
  exact ⟨t, _, by decide +kernel, rfl, by decide +kernel, by decide +kernel, h⟩

theorem witness_ProtectedModeOnly : rm0.cpu.real = true ∧ (v86 0).cpu.v86 = true := by decide

theorem witness_DecodeChecksRaise :
    let s := rm0.mapCpu fun c => { c with cur := { c.cur with pfx := { c.cur.pfx with lock := true } } }
    isPrefix .nop = false ∧ s.cpu.cur.pfx.lock = true ∧ lockable .nop = false ∧
    (v86 0).cpu.cur.pfx.lock = false ∧ (v86 0).cpu.cpl ≠ 0 ∧ (pmAt 1 0).cpu.prot = true ∧
    (pmAt 1 0).cpu.cur.pfx.lock = false ∧ (pmAt 1 0).cpu.cpl ≠ 0 ∧ rm0.cpu.cur.pfx.lock = false := by decide +kernel

/-- Vector 0 of a table that ends with it, a stack with room for exactly three words; and exception 1 at the top of the stack. -/
theorem witness_RealModeEntry :
    let s := (rm { zero with esp := 6 }).mapCpu fun c => { c with idtr := ⟨0, 3⟩ }
    (s.withExc .de).canEnterReal Exc.de.vector s.cpu.eip ∧
    (rm0.withExc (.db 0x4000)).canEnterReal (Exc.db 0x4000).vector rm0.cpu.eip := by decide +kernel

/-- An interrupt gate for vector 0 and a trap gate for vector 13, which has an error code and ends its table; the handlers lie in
the code segment 20H. -/
def gated : State :=
  { (tables { zero with esp := 0x8000 }) with
    mem := bytesAt (bytesAt (bytesAt (tables { zero with esp := 0x8000 }).mem 0x3020 [0xFF, 0xFF, 0, 0, 0, 0x9B, 0xCF, 0])
      0x4000 [0, 0x10, 0x20, 0, 0, 0x8E, 0, 0]) 0x4068 [0, 0x20, 0x20, 0, 0, 0x8F, 0, 0] }.mapCpu fun c =>
    { c with idtr := ⟨0x4000, 0x6F⟩ }

/-- Exception 13, with an error code, through the last gate of the table, and exception 0 through the first. -/
theorem witness_ProtectedModeEntry :
    (gated.withExc (.gp 8)).canEnterGate 13 true gated.cpu.eip (some 8) 0x3020 = true ∧ (Exc.gp 8).vector = 13 ∧
    (Exc.gp 8).code = some 8 ∧ (13 : Byte).setWidth 32 <<< 3 + 7 = gated.cpu.idtr.limit.setWidth 32 ∧
    (gated.withExc .de).canEnterGate 0 true gated.cpu.eip none 0x3020 = true ∧ Exc.de.vector = 0 ∧ Exc.de.code = none := by
  decide +kernel

/-- One step of `gated`, with a 286 gate for vector 13, from the code given. -/
def gatedStep (code : List Byte) (f : Cpu → Cpu) (p : State → Bool) : Bool :=
  match step ({ gated with mem := bytesAt (bytesAt gated.mem 0x10100 code) 0x406D [0x87] }.mapCpu f) with
  | .next t => p t
  | .fault _ => false
  | .refused _ => false

/-- EXT in exceptions of INT n: 0 for a vector beyond the table (R491), 1 for an entry that is no gate (R629, R633). -/
theorem test_int_ext :
    gatedStep [0xCD, 0x20] id (fun t => t.cpu.eip == 0x2000 && bytesFrom t 0x7FF8 2 == [0x02, 0x01]) = true ∧
    gatedStep [0xCD, 0x04] id (fun t => t.cpu.eip == 0x2000 && bytesFrom t 0x7FF8 2 == [0x23, 0x00]) = true := by decide +kernel

/-- MOV EAX, DR0 with GD set, and no gate for exception 1: GD is clear and BD set in the handler of exception 13 (R516). -/
theorem test_gd_cleared_before_raise :
    gatedStep [0x0F, 0x21, 0xC0] (fun c => { c with dbg := { c.dbg with dr7 := 0x2000 } }) (fun t =>
      t.cpu.eip == 0x2000 && t.cpu.dbg.dr7 == 0 && t.cpu.dbg.dr6 == 0x2000) = true := by decide +kernel

/-- `gated` with gates for the vectors 3 and 4, OF = 1, and a frame for an IRET to 1000H of the segment 20H. -/
def interrupted : State :=
  flagged { gated with
    mem := bytesAt (bytesAt gated.mem 0x4018 [0, 0x30, 0x20, 0, 0, 0x8E, 0, 0, 0, 0x40, 0x20, 0, 0, 0x8F, 0, 0])
      0x8000 [0, 0x10, 0, 0, 0x20, 0, 0, 0, 0x02, 0, 0, 0] } fun f => { f with ovf := true }

theorem witness_InterruptSameLevelCompletes :
    let s := interrupted
    s.mayRun (.int 0) ∧ s.canEnterGate 0 false s.cpu.next none 0x3020 ∧ s.cpu.cpl ≤ (s.descAt (s.gateAddr 0)).dpl ∧
    s.mayRun .int3 ∧ s.canEnterGate 3 false s.cpu.next none 0x3020 ∧ s.cpu.cpl ≤ (s.descAt (s.gateAddr 3)).dpl ∧
    s.cpu.flags.ovf = true ∧ s.mayRun .into ∧ s.canEnterGate 4 false s.cpu.next none 0x3020 ∧
    s.cpu.cpl ≤ (s.descAt (s.gateAddr 4)).dpl := by decide +kernel

theorem witness_InterruptSameLevelCompletes_iret :
    let s := interrupted
    let sel : Word := (s.peek .d 4).setWidth 16
    s.cpu.prot = true ∧ s.cpu.cr0.pg = false ∧ s.cpu.peSwitched = false ∧ s.cpu.flags.nt = false ∧ s.mayRun .iret ∧
    s.cpu.osz = .d ∧ s.canPeek .d 0 ∧ s.canPeek .d 4 ∧ s.canPeek .d 8 ∧ s.cpu.allows .ss (s.cpu.spPlus 0) 12 .read ∧
    (s.peek .d 8).getLsbD 17 = false ∧ isNull sel = false ∧ rpl sel = s.cpu.cpl ∧ descriptorAddr s.cpu sel = some 0x3020 ∧
    sameLevelCode s.cpu sel (s.descAt 0x3020) = true ∧ (s.peek .d 0).setWidth 32 ≤ (s.descAt 0x3020).limit := by decide +kernel

/-- `tables` with a call gate at 30H to 1000H of the segment 20H, whose descriptor is not accessed yet, a far pointer there at 5000H
and one as a return address on the stack. -/
def farTables : State :=
  { (tables { zero with esp := 0x8000 }) with
    mem := bytesAt (bytesAt (bytesAt (tables zero).mem 0x3030 [0, 0x10, 0x20, 0, 0, 0x8C, 0, 0])
      0x5000 [0, 0x10, 0, 0, 0x20, 0]) 0x8000 [0, 0x10, 0, 0, 0x20, 0, 0, 0] }.mapCpu fun c =>
    { c with gdtr := ⟨0x3000, 0x37⟩ }

theorem witness_FarTransferSameLevelCompletes :
    let s := farTables
    let d := s.descAt 0x3020
    let pointed := (s.noted (s.memLinear (.direct32 0x5000) 0) 4).noted (s.memLinear (.direct32 0x5000) 4) 2
    s.cpu.prot = true ∧ s.cpu.cr0.pg = false ∧ s.cpu.osz = .d ∧ isNull 0x20 = false ∧ descriptorAddr s.cpu 0x20 = some 0x3020 ∧
    sameLevelCode s.cpu 0x20 d = true ∧ d.accessed = false ∧ (0xFFFFFFFF : Dword) ≤ d.limit ∧
    s.mayRun (.jmpFar (.i32 0xFFFFFFFF) 0x20) ∧ s.mayRun (.callFar (.i32 0xFFFFFFFF) 0x20) ∧ s.cpu.peSwitched = false ∧
    stackRoom true s.cpu.segs.ss s.cpu.sp 2 4 ∧ (s.descLoaded 0x3020).canPushReturn .d ∧
    s.memCan (.direct32 0x5000) 0 4 .read ∧ s.memCan (.direct32 0x5000) 4 2 .read ∧
    s.loadAt (s.memLinear (.direct32 0x5000) 4) .w = 0x20 ∧ s.loadAt (s.memLinear (.direct32 0x5000) 0) .d = 0x1000 ∧
    s.mayRun (.jmpFarMem (.direct32 0x5000)) ∧ s.mayRun (.callFarMem (.direct32 0x5000)) ∧
    (pointed.descLoaded 0x3020).canPushReturn .d := by decide +kernel

/-- The call gate 30H, and the return address on the stack. -/
theorem witness_FarTransferSameLevelCompletes_gate :
    let s := farTables
    let g := s.descAt 0x3030
    let cd := s.descAt 0x3020
    descriptorAddr s.cpu 0x30 = some 0x3030 ∧ usableGate s.cpu 0x30 g = true ∧ g.type = 0xC ∧ g.gateSelector = 0x20 ∧
    cd.isCode = true ∧ cd.present = true ∧ cd.dpl = s.cpu.cpl ∧ g.gateOffset ≤ cd.limit ∧ s.mayRun (.jmpFar (.i32 0) 0x30) ∧
    s.mayRun (.callFar (.i32 0) 0x30) ∧ ((s.descLoaded 0x3030).descLoaded 0x3020).canPushReturn .d ∧
    s.mayRun .retFar ∧ s.mayRun (.retFarImm 0xFFFF) ∧ s.canPeek .d 0 ∧ s.canPeek .d 4 ∧
    s.cpu.allows .ss (s.cpu.spPlus 0) 8 .read ∧ (s.peek .d 4).setWidth 16 = (0x20 : Word) ∧ rpl 0x20 = s.cpu.cpl ∧
    s.peek .d 0 = 0x1000 := by decide +kernel

/-- `tables` with accessed segments, a busy TSS at 30H for the running task, and in the TSS 10H the image of a task with CS = 20H,
SS = 28H, EIP = 1000H and the T bit set. -/
def tasked : State :=
  { (tables zero) with
    mem := bytesAt (bytesAt (bytesAt (bytesAt (bytesAt (bytesAt (bytesAt (tables zero).mem 0x3025 [0x9B]) 0x302D [0x93])
      0x3030 [0x67, 0, 0, 0x70, 0, 0x8B, 0, 0]) 0x6020 [0, 0x10, 0, 0, 0x02]) 0x604C [0x20]) 0x6050 [0x28]) 0x6064 [1] }.mapCpu
    fun c => { c with gdtr := ⟨0x3000, 0x37⟩, tr := ⟨0x30, 0x7000, 0x67, true⟩ }

/-- The hypotheses of TaskSwitchCompletes. -/
def canSwitch (call : Bool) (off : Imm) (sel : Word) (la old lac las : Dword) (s : State) : Bool :=
  let i := if call then Instr.callFar off sel else .jmpFar off sel
  let n := s.descAt la
  let u := s.taskLeft call n.base la old
  let word := fun k : Dword => u.loadAt (n.base + k) .w
  let dword := fun k : Dword => u.loadAt (n.base + k) .d
  let cs := word 0x4C
  let ss := word 0x50
  let dc := u.descAt lac
  let ds := u.descAt las
  s.cpu.prot && !s.cpu.cr0.pg && !s.cpu.peSwitched && s.mayRun i && s.cpu.tr.is386 && !isNull sel && !sel.getLsbD 2 &&
    descriptorAddr s.cpu sel == some la && !n.s && n.type == 9 && n.present && decide (s.cpu.cpl ≤ n.dpl) &&
    decide (rpl sel ≤ n.dpl) && decide (0x67 ≤ n.limit.toNat) && descriptorAddr s.cpu s.cpu.tr.selector == some old &&
    !(dword 0x24).getLsbD 17 && [(0x48 : Dword), 0x54, 0x58, 0x5C, 0x60].all (fun k => isNull (word k)) &&
    !isNull cs && !cs.getLsbD 2 && descriptorAddr s.cpu cs == some lac && dc.isCode &&
    (if dc.ec then decide (dc.dpl ≤ rpl cs) else dc.dpl == rpl cs) && dc.present && dc.accessed &&
    !isNull ss && !ss.getLsbD 2 && descriptorAddr s.cpu ss == some las && ds.isStack && rpl ss == rpl cs &&
    ds.dpl == rpl cs && ds.present && ds.accessed && decide (dword 0x20 ≤ dc.limit)

theorem witness_TaskSwitchCompletes : canSwitch false (.i32 0) 0x10 0x3010 0x3030 0x3020 0x3028 tasked = true ∧
    canSwitch true (.i32 0) 0x10 0x3010 0x3030 0x3020 0x3028 tasked = true := by decide +kernel

/-- The paging examples M12 to M14: a present page, and one that a user may not write. -/
def paged (pte : List Byte) : State :=
  { (pm zero [(0x1004, [0x07, 0x20, 0, 0]), (0x200C, pte)]) with tlb := [] }.mapCpu fun c =>
    { c with cr0 := { c.cr0 with pg := true }, cr3 := 0x1000 }

theorem witness_PageTranslation :
    let s := paged [0x07, 0x50, 0, 0]
    let t := paged [0x05, 0x50, 0, 0]
    let u := paged [0x06, 0x50, 0, 0]
    s.mem.wf = true ∧ s.cpu.cr0.pg = true ∧ s.tlb = [] ∧ pdeAddr s.cpu.cr3 0x403025 = 0x1004 ∧
    pteAddr (s.mem.entry 0x1004) 0x403025 = 0x200C ∧ s.mem.entry 0x1004 = 0x2007 ∧ s.mem.entry 0x200C = 0x5007 ∧
    t.mem.wf = true ∧ (t.mem.entry 0x200C).getLsbD 1 = false ∧ u.mem.wf = true ∧ (u.mem.entry 0x200C).getLsbD 0 = false := by
  decide +kernel

/-- NOP and a prefix byte as the first instruction after RESET. -/
theorem witness_StepRunsDecoded :
    let s := State.reset.placeCode 0 [0x90]
    let t := State.reset.placeCode 0 [0x66]
    s.quiet = true ∧ s.atRest = true ∧ s.cpu.cr0.pg = false ∧ s.prefetch = [] ∧ s.pgSwitch = none ∧ s.cpu.prot = false ∧
    s.cpu.eip.toNat + 1 ≤ s.cpu.segs.cs.limit.toNat + 1 ∧ Instr.nop.wf s.cpu.ctx = true ∧
    decode s.cpu.ctx (s.codeBytes 1) = .ok .nop 1 ∧ isPrefix .nop = false ∧
    t.quiet = true ∧ t.atRest = true ∧ decode t.cpu.ctx (t.codeBytes 1) = .ok .operandSizePrefix 1 ∧
    isPrefix .operandSizePrefix = true := by decide +kernel

/-- Every ESC and addressing extreme has a well-formed instruction. -/
theorem witness_DecodeEncode :
    (Instr.esc 7 7 (.mem (.base16 .bp (.d8 0xFF)))).wf ⟨false, false⟩ = true ∧
    (Instr.addRmImm false true (.mem (.sib .x8 (some .edi) .esp (.d32 0xFFFFFFFF))) (.i32 0xFFFFFFFF)).wf ⟨true, true⟩ = true := by
  decide +kernel

theorem witness_StepKeepsStorage : State.reset.wf = true ∧ ∃ t, step State.reset = .next t :=
  ⟨by decide +kernel, answersNext_exists (by decide +kernel)⟩

theorem witness_StepKeepsModes : State.reset.cpu.legalMode = true ∧ State.reset.atRest = true ∧
    (v86 3).cpu.legalMode = true ∧ (v86 3).atRest = true ∧ ∃ t, step (v86 3) = .next t :=
  ⟨by decide +kernel, by decide +kernel, by decide +kernel, by decide +kernel, answersNext_exists (by decide +kernel)⟩

end Sys2Proof.Tests
end

/-! PROOFS. What the meaning of an instruction leaves alone: it is the outcome of a body, the body keeps `State.wf`, and it is
steady unless the instruction loads modes or control registers. -/

namespace Sys2Proof.Machine

/-- The meaning of an instruction is the outcome of a body with the property. -/
def Runs (P : M Ending → Prop) (i : Instr) : Prop := ∃ body : M Ending, P body ∧ ∀ s, exec i s = outcome s body

theorem Runs.mono {P Q : M Ending → Prop} {i : Instr} (h : Runs P i) (hPQ : ∀ m, P m → Q m) : Runs Q i :=
  let ⟨body, hP, he⟩ := h
  ⟨body, hPQ body hP, he⟩

/-- An instruction in the usual shell, with a steady body. -/
theorem Runs.steady {i : Instr} {body : M Ending} (he : ∀ s, exec i s = run i body s) (h : IsSteady body) :
    Runs IsSteady i :=
  ⟨_, steady_bind (steady_decodeChecks i) fun _ => h, he⟩

/-- A MOV to or from a debug register with a steady body. -/
theorem Runs.steady_debug {i : Instr} {r : DReg} {body : M Ending} (he : ∀ s, exec i s = runDebug i r body s)
    (h : IsSteady body) : Runs IsSteady i :=
  ⟨_, steady_bind steady_getCpu fun _ => steady_bind (steady_require _ _) fun _ =>
    steady_bind (steady_refuseReservedDebug r) fun _ => steady_bind (steady_decodeChecks i) fun _ => h, he⟩

/-- An instruction in the usual shell, with a body that keeps `State.wf`. -/
theorem Runs.keepsWf {i : Instr} {body : M Ending} (he : ∀ s, exec i s = run i body s) (h : KeepsWf body) :
    Runs KeepsWf i :=
  ⟨_, keeps_bind (steady_decodeChecks i).keeps_wf fun _ => h, he⟩

/-- The instructions whose bodies may change CR0, CR3, VM or CPL: far transfers and task switches, interrupts and their returns,
and the writes of the control registers. -/
def loadsModes : Instr → Bool
  | .callFar _ _ | .callFarMem _ | .jmpFar _ _ | .jmpFarMem _ | .retFar | .retFarImm _ => true
  | .int _ | .int3 | .into | .iret => true
  | .clts | .movCrReg _ _ | .lmsw _ => true
  | _ => false

/-! ## Steady bodies -/

theorem steady_ite {α : Type} {p : Prop} [Decidable p] {m m' : M α} (h : IsSteady m) (h' : IsSteady m') :
    IsSteady (if p then m else m') := by
  split
  · exact h
  · exact h'

/-- A string instruction runs its element once or repeated. -/
theorem steady_stringOp (w comparing : Bool) {element : Sz → M Unit} (h : ∀ sz, IsSteady (element sz)) :
    IsSteady (do let sz ← opSize w; repeated comparing (element sz)) :=
  steady_bind (steady_opSize w) fun sz => steady_repeated comparing (h sz)

/-- A conditional jump, taken or not. -/
theorem steady_jumpIf (p : Prop) [Decidable p] (disp : Dword) : IsSteady (if p then jumpRel disp else pure .next) :=
  steady_ite (steady_jumpRel disp) (steady_pure _)

theorem runs_popf : Runs IsSteady .popf :=
  .steady (fun _ => rfl) <| steady_bind steady_requireV86Iopl fun _ => steady_bind steady_getCpu fun c =>
    steady_bind (steady_pop c.osz) fun _ => steady_bind (steady_modifyFlags fun _ => rfl) fun _ => steady_pure _

theorem runs_cbw : Runs IsSteady .cbw :=
  .steady (fun _ => rfl) <| steady_bind steady_getCpu fun c => by
    cases c.osz <;> exact steady_bind (steady_writeReg _ _ _) fun _ => steady_pure _

theorem runs_xlat : Runs IsSteady .xlat :=
  .steady (fun _ => rfl) <| steady_bind steady_getCpu fun _ => steady_bind (steady_segRead _ _ .b) fun _ =>
    steady_bind (steady_writeReg .b .eax _) fun _ => steady_pure _

theorem runs_movSregRm (r : SReg) (rm : RM) : Runs IsSteady (.movSregRm r rm) :=
  .steady (fun _ => rfl) <| steady_bind (steady_readRM .w rm) fun sel =>
    steady_bind (steady_loadSegment r sel) fun _ => steady_pure _

theorem runs_pusha : Runs IsSteady .pusha :=
  .steady (fun _ => rfl) <| steady_bind steady_getCpu fun c => steady_ite steady_shutdown <|
    steady_bind (steady_requireRoom 8 c.osz) fun _ => steady_bind (steady_pushRegisters c.osz c.gpr) fun _ => steady_pure _

theorem runs_enter (size : Word) (level : Byte) : Runs IsSteady (.enter size level) :=
  .steady (fun _ => rfl) <| steady_bind steady_getCpu fun c => steady_bind (steady_push c.osz _) fun _ =>
    steady_bind steady_getCpu fun pushed =>
    have tail := steady_bind (steady_setFrame c.osz pushed.sp) fun _ =>
      steady_bind (steady_modifyCpu (f := fun c => c.withSp (c.spPlus (-(size.setWidth 32)))) fun _ => ⟨rfl, rfl, rfl, rfl⟩)
        fun _ => steady_pure Ending.next
    steady_ite (steady_bind (steady_copyFrames _ _) fun _ => steady_bind (steady_pushFramePointer _ _) fun _ => tail) tail

theorem runs_movDrReg (r : DReg) (src : Reg) : Runs IsSteady (.movDrReg r src) :=
  .steady_debug (fun _ => rfl) <| steady_bind steady_requireNoGd fun _ => steady_bind (steady_readReg .d src) fun v =>
    steady_bind (steady_setDebugReg r v) fun _ => steady_afterSpecialMove

theorem runs_movRegDr (dst : Reg) (r : DReg) : Runs IsSteady (.movRegDr dst r) :=
  .steady_debug (fun _ => rfl) <| steady_bind steady_requireNoGd fun _ => steady_bind steady_getCpu fun _ =>
    steady_bind (steady_writeReg .d dst _) fun _ => steady_afterSpecialMove

theorem runs_movTrReg (r : TReg) (src : Reg) : Runs IsSteady (.movTrReg r src) :=
  .steady (fun _ => rfl) <| steady_bind (steady_readReg .d src) fun _ =>
    steady_bind (steady_modifyCpu fun _ => ⟨rfl, rfl, rfl, rfl⟩) fun _ => steady_afterSpecialMove

theorem runs_wait : Runs IsSteady .wait :=
  .steady (fun _ => rfl) <| steady_bind steady_getState fun _ => steady_bind (steady_require _ _) fun _ =>
    steady_ite (steady_pure _) <| steady_bind (steady_require _ _) fun _ => steady_pure _

theorem runs_esc (ttt lll : BitVec 3) (rm : RM) : Runs IsSteady (.esc ttt lll rm) := by
  refine .steady (fun _ => rfl) (steady_bind steady_getState fun s => ?_)
  have transfer : ∀ rm : RM, IsSteady (match rm with
      | .reg r => storeStatusWord ttt lll r s.env.coRequests
      | .mem m => moveOperand m s.env.coRequests) := fun rm => by
    cases rm with
    | reg r => exact steady_storeStatusWord ttt lll r _
    | mem m => exact steady_moveOperand m _
  have tail := steady_ite (p := (s.env.busy && !escExempt ttt lll rm) = true) (steady_pure Ending.stalled) <|
    steady_bind (steady_emit (.coOpcode ttt lll rm)) fun _ =>
    steady_bind (steady_modifyEnv fun e => { e with coRequests := [] }) fun _ =>
    steady_bind (transfer rm) fun _ => steady_pure Ending.next
  cases rm with
  | reg r => exact steady_ite tail (steady_bind (steady_escChecks _ _) fun _ => tail)
  | mem m => exact steady_ite tail (steady_bind (steady_escChecks _ _) fun _ => tail)

theorem runs_arpl (rm : RM) (r : Reg) : Runs IsSteady (.arpl rm r) :=
  .steady (fun _ => rfl) <| steady_bind (steady_readDest .w rm) fun _ => steady_bind (steady_readReg .w r) fun _ =>
    steady_ite (steady_bind (steady_writeRM .w rm _) fun _ => steady_finishZf true) (steady_finishZf false)

/-- VERR and VERW: ZF says whether the selector names a descriptor that is accepted and visible. -/
theorem steady_verify (accepts : Desc → Bool) (rm : RM) : IsSteady (do
    let sel ← readRM .w rm
    let d ← testedDescriptor accepts sel
    finishZf d.isSome) :=
  steady_bind (steady_readRM .w rm) fun sel => steady_bind (steady_testedDescriptor accepts sel) fun d => steady_finishZf d.isSome

/-- LAR and LSL: a value of an accepted descriptor, or ZF clear. -/
theorem steady_loadRights (accepts : Desc → Bool) (value : Desc → Dword) (r : Reg) (rm : RM) : IsSteady (do
    let sel ← readRM .w rm
    match ← testedDescriptor accepts sel with
    | none => finishZf false
    | some d => do
      let sz ← opSize true
      writeReg sz r ((value d).setWidth sz.bits)
      finishZf true) :=
  steady_bind (steady_readRM .w rm) fun sel => steady_bind (steady_testedDescriptor accepts sel) fun d => by
    cases d with
    | none => exact steady_finishZf false
    | some d =>
      exact steady_bind (steady_opSize true) fun sz => steady_bind (steady_writeReg sz r _) fun _ => steady_finishZf true

theorem runs_lldt (rm : RM) : Runs IsSteady (.lldt rm) :=
  .steady (fun _ => rfl) <| steady_bind (steady_readRM .w rm) fun sel => steady_ite
    (steady_bind (steady_modifyCpu fun _ => ⟨rfl, rfl, rfl, rfl⟩) fun _ => steady_pure _)
    (steady_bind (steady_gdtDescriptor sel) fun _ => steady_bind (steady_require _ _) fun _ =>
      steady_bind (steady_require _ _) fun _ =>
      steady_bind (steady_modifyCpu fun _ => ⟨rfl, rfl, rfl, rfl⟩) fun _ => steady_pure _)

theorem runs_ltr (rm : RM) : Runs IsSteady (.ltr rm) :=
  .steady (fun _ => rfl) <| steady_bind (steady_readRM .w rm) fun sel => steady_bind (steady_require _ _) fun _ =>
    steady_bind (steady_gdtDescriptor sel) fun d => steady_bind (steady_require _ _) fun _ =>
    steady_bind (steady_require _ _) fun _ => steady_bind (steady_setRights sel d _) fun _ =>
    steady_bind (steady_modifyCpu fun _ => ⟨rfl, rfl, rfl, rfl⟩) fun _ => steady_pure _

/-- Every instruction but the prefixes and those that load modes has a steady body. -/
theorem runs_steady {i : Instr} (hp : isPrefix i = false) (hm : loadsModes i = false) : Runs IsSteady i := by
  cases i with
  -- data transfer
  | movRmReg _ _ _ | movRegRm _ _ _ | movRmImm _ _ _ | movRegImm _ _ _ | movAccMoffs _ _ | movMoffsAcc _ _ | movRmSreg _ _
  | movsx _ _ _ | movzx _ _ _ | pushRm _ | pushReg _ | pushImm _ _ | popRm _ | popReg _ | popa | xchgRmReg _ _ _ | xchgRegAcc _
  | inDx _ | outDx _ | lea _ _
  -- flags, arithmetic and logic
  | lahf | pushf | sti | incRm _ _ | incReg _ | decRm _ _ | decReg _ | negRm _ _ | notRm _ _ | daa | das | aad | aam | cwd
  | mulAcc _ _ | imulAcc _ _ | imulRegRm _ _ | imulRegRmImm _ _ _ _ | divAcc _ _ | idivAcc _ _
  | cmpRmReg _ _ _ _ | cmpRmImm _ _ _ _ | cmpAccImm _ _ | testRmReg _ _ _ | testRmImm _ _ _ | testAccImm _ _
  | andAccImm _ _ | orAccImm _ _ | xorAccImm _ _
  -- transfers, frames, processor and protection control
  | callRel _ | callRm _ | jmpRm _ | setcc _ _ | leave | bound _ _ | hlt | nop | movRegCr _ _ | movRegTr _ _
  | lgdt _ | lidt _ | sgdt _ | sidt _ | sldt _ | smsw _ | str _ =>
    -- no branches: each operation in turn is steady by its own lemma
    refine .steady (fun _ => rfl) ?_
    repeat with_reducible refine steady_bind (by simp [steady_modifyFlags, steady_modifyCpu]) fun _ => ?_
    simp
  | pushSreg _ | pushFs | pushGs => exact .steady (fun _ => rfl) (steady_pushSegment _)
  | popEs | popSs | popDs | popFs | popGs => exact .steady (fun _ => rfl) (steady_popSegment _)
  | movSregRm r rm => exact runs_movSregRm r rm
  | pusha => exact runs_pusha
  | inImm w _ => exact .steady (fun _ => rfl) (steady_inPort w _)
  | outImm w _ => exact .steady (fun _ => rfl) (steady_outPort w _)
  | lds r m | les r m | lfs r m | lgs r m | lss r m => exact .steady (fun _ => rfl) (steady_loadPointer _ r m)
  | clc | cld | cmc | stc | std => exact .steady (fun _ => rfl) (steady_flagOp fun _ => rfl)
  | cli => exact .steady (fun _ => rfl) (steady_bind steady_requireIopl fun _ => steady_flagOp fun _ => rfl)
  | sahf => exact .steady (fun _ => rfl) (steady_bind steady_getCpu fun _ => steady_flagOp fun _ => rfl)
  | popf => exact runs_popf
  | addRmReg d w rm r | adcRmReg d w rm r | subRmReg d w rm r | sbbRmReg d w rm r =>
    exact .steady (fun _ => rfl) (steady_aluRmReg _ d w rm r)
  | addRmImm _ w rm v | adcRmImm _ w rm v | subRmImm _ w rm v | sbbRmImm _ w rm v =>
    exact .steady (fun _ => rfl) (steady_aluRmImm _ w rm v)
  | addAccImm w v | adcAccImm w v | subAccImm w v | sbbAccImm w v => exact .steady (fun _ => rfl) (steady_aluAccImm _ w v)
  | aaa | aas =>
    exact .steady (fun _ => rfl) (steady_bind steady_getCpu fun _ => steady_bind (steady_writeReg _ _ _) fun _ =>
      steady_bind (steady_writeAh _) fun _ => steady_bind steady_draw fun _ =>
      steady_bind (steady_modifyFlags fun _ => rfl) fun _ => steady_pure _)
  | cbw => exact runs_cbw
  | andRmReg d w rm r | orRmReg d w rm r | xorRmReg d w rm r => exact .steady (fun _ => rfl) (steady_logicRmReg _ d w rm r)
  | andRmImm w rm v | orRmImm w rm v | xorRmImm w rm v => exact .steady (fun _ => rfl) (steady_logicRmImm _ w rm v)
  | andRmImm8 rm v | orRmImm8 rm v | xorRmImm8 rm v => exact .steady (fun _ => rfl) (steady_logicRmImm _ true rm (.i8 v))
  | rolOne w rm | rorOne w rm | rclOne w rm | rcrOne w rm | shlOne w rm | shrOne w rm | sarOne w rm =>
    exact .steady (fun _ => rfl) (steady_shiftRm _ w rm 1)
  | rolImm w rm n | rorImm w rm n | rclImm w rm n | rcrImm w rm n | shlImm w rm n | shrImm w rm n | sarImm w rm n =>
    exact .steady (fun _ => rfl) (steady_shiftRm _ w rm n)
  | rolCl w rm | rorCl w rm | rclCl w rm | rcrCl w rm | shlCl w rm | shrCl w rm | sarCl w rm =>
    exact .steady (fun _ => rfl) (steady_bind steady_getCpu fun _ => steady_shiftRm _ w rm _)
  | shldImm rm r n | shrdImm rm r n => exact .steady (fun _ => rfl) (steady_doubleShift _ rm r n)
  | shldCl rm r | shrdCl rm r =>
    exact .steady (fun _ => rfl) (steady_bind steady_getCpu fun _ => steady_doubleShift _ rm r _)
  | cmps w => exact .steady (fun _ => rfl) (steady_stringOp w true steady_cmpsElement)
  | ins w => exact .steady (fun _ => rfl) (steady_stringOp w false steady_insElement)
  | lods w => exact .steady (fun _ => rfl) (steady_stringOp w false steady_lodsElement)
  | movs w => exact .steady (fun _ => rfl) (steady_stringOp w false steady_movsElement)
  | outs w => exact .steady (fun _ => rfl) (steady_stringOp w false steady_outsElement)
  | scas w => exact .steady (fun _ => rfl) (steady_stringOp w true steady_scasElement)
  | stos w => exact .steady (fun _ => rfl) (steady_stringOp w false steady_stosElement)
  | xlat => exact runs_xlat
  | bsf r rm | bsr r rm => exact .steady (fun _ => rfl) (steady_scanBits _ r rm)
  | btImm rm _ => exact .steady (fun _ => rfl) (steady_bind (steady_opSize true) fun sz => steady_testBit sz rm _ _)
  | btReg rm r =>
    exact .steady (fun _ => rfl) (steady_bind (steady_opSize true) fun sz =>
      steady_bind (steady_readReg sz r) fun _ => steady_testBit sz rm _ _)
  | btcImm rm _ | btrImm rm _ | btsImm rm _ =>
    exact .steady (fun _ => rfl) (steady_bind (steady_opSize true) fun sz => steady_changeBit _ sz rm _ _)
  | btcReg rm r | btrReg rm r | btsReg rm r =>
    exact .steady (fun _ => rfl) (steady_bind (steady_opSize true) fun sz =>
      steady_bind (steady_readReg sz r) fun _ => steady_changeBit _ sz rm _ _)
  | jmpShort _ | jmpRel _ => exact .steady (fun _ => rfl) (steady_jumpRel _)
  | retNear | retNearImm _ => exact .steady (fun _ => rfl) (steady_returnNear _)
  | jccShort _ _ | jccNear _ _ => exact .steady (fun _ => rfl) (steady_bind steady_getFlags fun _ => steady_jumpIf _ _)
  | jcxz _ => exact .steady (fun _ => rfl) (steady_bind steady_getCpu fun _ => steady_jumpIf _ _)
  | loop d | loopz d | loopnz d => exact .steady (fun _ => rfl) (steady_loopWhile _ d)
  | enter size level => exact runs_enter size level
  | movDrReg r src => exact runs_movDrReg r src
  | movRegDr dst r => exact runs_movRegDr dst r
  | movTrReg r src => exact runs_movTrReg r src
  | wait => exact runs_wait
  | esc ttt lll rm => exact runs_esc ttt lll rm
  | arpl rm r => exact runs_arpl rm r
  | verr rm | verw rm => exact .steady (fun _ => rfl) (steady_verify _ rm)
  | lar r rm => exact .steady (fun _ => rfl) (steady_loadRights larAccepts (fun d => d.hi &&& 0x00F0FF00) r rm)
  | lsl r rm => exact .steady (fun _ => rfl) (steady_loadRights lslAccepts Desc.limit r rm)
  | lldt rm => exact runs_lldt rm
  | ltr rm => exact runs_ltr rm
  | callFar _ _ | callFarMem _ | jmpFar _ _ | jmpFarMem _ | retFar | retFarImm _ | int _ | int3 | into | iret | clts
  | movCrReg _ _ | lmsw _ => cases hm
  | addressSizePrefix | lockPrefix | operandSizePrefix | csPrefix | dsPrefix | esPrefix | fsPrefix | gsPrefix | ssPrefix
  | repPrefix | repnePrefix => cases hp

/-! ## Bodies that load modes -/

theorem keepsWf_ite {α : Type} {p : Prop} [Decidable p] {m m' : M α} (h : KeepsWf m) (h' : KeepsWf m') :
    KeepsWf (if p then m else m') := by
  split
  · exact h
  · exact h'

/-- A value with its low twelve bits cleared is a page address: what CR3 takes (R61). -/
theorem extractLsb'_and_pageMask (v : Dword) : (v &&& 0xFFFFF000).extractLsb' 0 12 = 0 := by
  have hmask : (0xFFFFF000 : Dword).extractLsb' 0 12 = 0 := by decide
  rw [BitVec.extractLsb'_and, hmask]
  exact BitVec.and_zero

theorem keepsWf_writeCr3 (v : Dword) : KeepsWf (modifyCpu fun c => { c with cr3 := v &&& 0xFFFFF000 }) :=
  fun _ hs => State.wf_mapCpu (f := fun c => { c with cr3 := v &&& 0xFFFFF000 }) hs
    fun _ => beq_iff_eq.mpr (extractLsb'_and_pageMask v)

theorem runs_keepsWf_movCrReg (r : CReg) (src : Reg) : Runs KeepsWf (.movCrReg r src) := by
  refine .keepsWf (fun _ => rfl) (keeps_bind (steady_readReg .d src).keeps_wf fun v => ?_)
  have finish := steady_afterSpecialMove.keeps_wf
  cases r with
  | cr0 =>
    exact keeps_bind (steady_require _ _).keeps_wf fun _ => keeps_bind (steady_notePaging _).keeps_wf fun _ =>
      keeps_bind (keepsWf_modifyCpu fun _ _ => rfl) fun _ => finish
  | cr2 => exact keeps_bind (keepsWf_modifyCpu fun _ _ => rfl) fun _ => finish
  | cr3 => exact keeps_bind (keepsWf_writeCr3 v) fun _ => keeps_bind steady_flushTlb.keeps_wf fun _ => finish

/-- The body of every instruction but the prefixes keeps `State.wf`. -/
theorem runs_keepsWf {i : Instr} (hp : isPrefix i = false) : Runs KeepsWf i := by
  by_cases hm : loadsModes i = true
  · cases i with
    | callFar off sel => exact .keepsWf (fun _ => rfl) (keepsWf_farCall _ sel)
    | jmpFar off sel => exact .keepsWf (fun _ => rfl) (keepsWf_farJump _ sel)
    | callFarMem m =>
      exact .keepsWf (fun _ => rfl) (keeps_bind (steady_readFarPointer m).keeps_wf fun p => keepsWf_farCall p.1 p.2)
    | jmpFarMem m =>
      exact .keepsWf (fun _ => rfl) (keeps_bind (steady_readFarPointer m).keeps_wf fun p => keepsWf_farJump p.1 p.2)
    | retFar | retFarImm _ => exact .keepsWf (fun _ => rfl) (keepsWf_returnFar _)
    | int v => exact .keepsWf (fun _ => rfl) (keeps_bind steady_requireV86Iopl.keeps_wf fun _ => keepsWf_softwareInterrupt v)
    | int3 => exact .keepsWf (fun _ => rfl) (keepsWf_softwareInterrupt 3)
    | into =>
      exact .keepsWf (fun _ => rfl) (keeps_bind steady_getFlags.keeps_wf fun _ =>
        keepsWf_ite (keepsWf_softwareInterrupt 4) (steady_pure _).keeps_wf)
    | iret => exact .keepsWf (fun _ => rfl) keepsWf_interruptReturn
    | clts =>
      exact .keepsWf (fun _ => rfl) (keeps_bind (keepsWf_modifyCpu fun _ _ => rfl) fun _ => (steady_pure _).keeps_wf)
    | movCrReg r src => exact runs_keepsWf_movCrReg r src
    | lmsw rm =>
      exact .keepsWf (fun _ => rfl) (keeps_bind (steady_readRM .w rm).keeps_wf fun _ =>
        keeps_bind (keepsWf_modifyCpu fun _ _ => rfl) fun _ => (steady_pure _).keeps_wf)
    | _ => cases hm
  · exact (runs_steady hp (by simpa using hm)).mono fun _ h => h.keeps_wf

end Sys2Proof.Machine

/-! PROOFS. Every step keeps `State.wf`: the meaning of an instruction, the boundary before it, RESET in the middle of it. -/

namespace Sys2Proof.Machine

/-- Another processor over the same storage, with the same CR3. -/
theorem State.wf_setCpu {s : State} {c : Cpu} (h : s.wf = true) (hc : c.cr3 = s.cpu.cr3) : ({ s with cpu := c } : State).wf = true :=
  State.wf_mapCpu (f := fun _ => c) h fun h3 => hc ▸ h3

/-- The prefixes mark the decode register and change nothing else (R203). -/
theorem exec_prefix {i : Instr} (h : isPrefix i = true) : ∃ f : Prefixes → Prefixes, ∀ s : State,
    exec i s = .next (s.mapCpu fun c => { c with cur := { c.cur with pfx := f c.cur.pfx } }) := by
  cases i with
  | addressSizePrefix => exact ⟨fun p => { p with addrsize := true }, fun _ => rfl⟩
  | lockPrefix => exact ⟨fun p => { p with lock := true }, fun _ => rfl⟩
  | operandSizePrefix => exact ⟨fun p => { p with opsize := true }, fun _ => rfl⟩
  | csPrefix => exact ⟨fun p => { p with seg := some .cs }, fun _ => rfl⟩
  | dsPrefix => exact ⟨fun p => { p with seg := some .ds }, fun _ => rfl⟩
  | esPrefix => exact ⟨fun p => { p with seg := some .es }, fun _ => rfl⟩
  | fsPrefix => exact ⟨fun p => { p with seg := some .fs }, fun _ => rfl⟩
  | gsPrefix => exact ⟨fun p => { p with seg := some .gs }, fun _ => rfl⟩
  | ssPrefix => exact ⟨fun p => { p with seg := some .ss }, fun _ => rfl⟩
  | repPrefix => exact ⟨fun p => { p with rep := some .rep }, fun _ => rfl⟩
  | repnePrefix => exact ⟨fun p => { p with rep := some .repne }, fun _ => rfl⟩
  | _ => cases h

/-- The meaning of an instruction keeps `State.wf`. -/
theorem exec_wf {i : Instr} {s t : State} (hs : s.wf = true) (h : exec i s = .next t) : t.wf = true := by
  cases hp : isPrefix i with
  | true =>
    obtain ⟨f, he⟩ := exec_prefix hp
    cases (he s).symm.trans h
    exact State.wf_mapCpu hs id
  | false =>
    obtain ⟨body, hb, he⟩ := runs_keepsWf hp
    exact outcome_wf hb hs ((he s).symm.trans h)

/-- An instruction with its prefixes keeps `State.wf`. -/
theorem runFrom_wf {b : State} (hb : b.wf = true) {n : Nat} {s t : State} (hs : s.wf = true)
    (h : runFrom exec b n s = .next t) : t.wf = true := by
  induction n generalizing s with
  | zero => exact stopped_wf hb hs h
  | succ n ih =>
    have hf := steady_fetchInstr.keeps_wf s hs
    rw [runFrom] at h
    cases hr : fetchInstr s with
    | error stop u =>
      rw [after_of_error hr] at hf
      rw [hr] at h
      exact stopped_wf hb hf h
    | ok i u =>
      rw [after_of_ok hr] at hf
      simp only [hr] at h
      cases hp : isPrefix i with
      | false => exact exec_wf hf (by simpa [hp] using h)
      | true =>
        obtain ⟨f, he⟩ := exec_prefix hp
        simp only [hp, he, if_true] at h
        exact ih (State.wf_mapCpu hf id) h

/-- Going on at a state keeps `State.wf`: what a step has to know about the instruction it runs. -/
def GoesWf (go : State → Host.Outcome State Fault Refusal) : Prop := ∀ s t, s.wf = true → go s = .next t → t.wf = true

theorem deliverDebug_wf {d : DebugCauses} {rf : Bool} {s t : State} (hs : s.wf = true) (h : deliverDebug d rf s = .next t) :
    t.wf = true := by
  refine deliverAt_wf ?_ h
  exact State.wf_setCpu hs rfl

theorem deliverNmi_wf {s t : State} (hs : s.wf = true) (h : deliverNmi s = .next t) : t.wf = true := by
  refine deliverAt_wf ?_ h
  exact State.wf_setCpu hs rfl

theorem deliverIntr_wf {s t : State} (hs : s.wf = true) (h : deliverIntr s = .next t) : t.wf = true := by
  have ha := steady_intAck.keeps_wf s hs
  rw [deliverIntr] at h
  cases hr : intAck s with
  | ok v u =>
    rw [after_of_ok hr] at ha
    exact deliverAt_wf ha (by simpa only [hr] using h)
  | error e u =>
    rw [after_of_error hr] at ha
    simp only [hr] at h
    cases h
    exact ha

/-- The boundary before an instruction keeps `State.wf`. -/
theorem atBoundary_wf {go : State → Host.Outcome State Fault Refusal} (hgo : GoesWf go) {s t : State} (hs : s.wf = true)
    (h : atBoundary go s = .next t) : t.wf = true := by
  have hu : (s.mapCpu fun c => { c with trap := DebugCauses.none }).wf = true := State.wf_mapCpu hs id
  simp only [atBoundary] at h
  split at h
  · exact deliverDebug_wf hs h
  split at h
  · exact deliverNmi_wf hu h
  split at h
  · exact deliverIntr_wf hu h
  split at h
  · cases h
    exact hu
  split at h
  · exact deliverDebug_wf hu h
  · exact hgo _ _ hu h

theorem stepRunning_wf {go : State → Host.Outcome State Fault Refusal} (hgo : GoesWf go) {s t : State} (hs : s.wf = true)
    (h : stepRunning go s = .next t) : t.wf = true := by
  have hn : (sampleNmi s).wf = true := State.wf_setCpu hs rfl
  simp only [stepRunning] at h
  split at h
  · split at h
    · exact deliverNmi_wf hn h
    · cases h
      exact hn
  split at h
  · split at h
    · cases h
      exact hn
    · exact hgo _ _ hn h
  · exact atBoundary_wf hgo hn h

/-- RESET empties the TLB and the queue and clears CR3; memory alone matters (R706, R707). -/
theorem resetStep_wf {s : State} (h : s.mem.wf = true) : (resetStep s).wf = true := by
  simp [State.wf, resetStep, h, Cpu.reset]

theorem State.wf_mem {s : State} (h : s.wf = true) : s.mem.wf = true := by
  simp only [State.wf, Bool.and_eq_true] at h
  exact h.1.1.1

theorem stepWith_wf {go : State → Host.Outcome State Fault Refusal} (hgo : GoesWf go) {s t : State} (hs : s.wf = true)
    (h : stepWith go s = .next t) : t.wf = true := by
  have hm : s.mem.wf = true := State.wf_mem hs
  rw [stepWith] at h
  split at h
  · cases h
    exact resetStep_wf hm
  split at h
  · exact stepRunning_wf hgo hs h
  · cases h
    exact resetStep_wf hm
  · cases hr : stepRunning go s with
    | next u =>
      have hu : u.wf = true := stepRunning_wf hgo hs hr
      simp only [hr] at h
      split at h
      · cases h
        exact hu
      · cases h
        exact resetStep_wf (Memory.wf_replay hm _)
    | fault f =>
      simp only [hr] at h
      cases h
    | refused r =>
      simp only [hr] at h
      cases h

/-- Settles O59: every shared operation and every body keeps `State.wf`, and so does what happens at the boundary. -/
theorem stepKeepsStorage : Obligations.StepKeepsStorage := by
  unfold Obligations.StepKeepsStorage
  exact fun s t hs h => stepWith_wf (fun _ _ hu => runFrom_wf hu hu) hs h

end Sys2Proof.Machine

/-! PROOFS. The fetch of an instruction with paging off, and the step that runs it. -/

namespace Sys2Proof.Machine

/-! ## Fetching an instruction with paging off (R7, R8, R202) -/

/-- Fetching code fills the queue and shows on the bus; nothing else changes. -/
theorem State.codeFetched_frame (s : State) (n : Nat) : ∃ q e, s.codeFetched n = { s with queue := q, env := e } := by
  induction n with
  | zero => exact ⟨s.queue, s.env, rfl⟩
  | succ n ih =>
    obtain ⟨q, e, h⟩ := ih
    rw [State.codeFetched, h]
    split
    · exact ⟨q, e, rfl⟩
    · exact ⟨_, _, rfl⟩

@[simp] theorem State.codeFetched_cpu (s : State) (n : Nat) : (s.codeFetched n).cpu = s.cpu := by
  obtain ⟨q, e, h⟩ := s.codeFetched_frame n
  rw [h]

@[simp] theorem State.codeFetched_mem (s : State) (n : Nat) : (s.codeFetched n).mem = s.mem := by
  obtain ⟨q, e, h⟩ := s.codeFetched_frame n
  rw [h]

@[simp] theorem State.codeFetched_prefetch (s : State) (n : Nat) : (s.codeFetched n).prefetch = s.prefetch := by
  obtain ⟨q, e, h⟩ := s.codeFetched_frame n
  rw [h]

@[simp] theorem State.codeFetched_pgSwitch (s : State) (n : Nat) : (s.codeFetched n).pgSwitch = s.pgSwitch := by
  obtain ⟨q, e, h⟩ := s.codeFetched_frame n
  rw [h]

/-- Fetching reads the bus and fills the queue whatever the registers are, as long as CS:EIP is the same. -/
theorem State.codeFetched_mapCpu (s : State) (f : Cpu → Cpu) (hcs : (f s.cpu).segs.cs.base = s.cpu.segs.cs.base)
    (heip : (f s.cpu).eip = s.cpu.eip) (n : Nat) : (s.mapCpu f).codeFetched n = (s.codeFetched n).mapCpu f := by
  induction n with
  | zero => rfl
  | succ n ih =>
    have ha : (s.mapCpu f).codeAddr n = s.codeAddr n := by simp [State.codeAddr, hcs, heip]
    simp only [State.codeFetched, ih, ha, State.mapCpu_queue]
    split <;> rfl

theorem State.codeBytes_succ (s : State) (n : Nat) : s.codeBytes (n + 1) = s.codeBytes n ++ [s.mem.read (s.codeAddr n)] := by
  simp [State.codeBytes, List.range_succ]

theorem State.length_codeBytes (s : State) (n : Nat) : (s.codeBytes n).length = n := by
  simp [State.codeBytes]

/-- The bytes at CS:EIP begin with fewer of them. -/
theorem State.codeBytes_add (s : State) (k m : Nat) : ∃ more, s.codeBytes (k + m) = s.codeBytes k ++ more := by
  induction m with
  | zero => exact ⟨[], (List.append_nil _).symm⟩
  | succ m ih =>
    obtain ⟨more, h⟩ := ih
    exact ⟨more ++ [s.mem.read (s.codeAddr (k + m))], by rw [← Nat.add_assoc, State.codeBytes_succ, h, List.append_assoc]⟩

/-- What a fetch of code with paging off needs: nothing stale may be fetched, no byte of the instruction has been read, and CS may be
used (R127). -/
structure State.Fetches (s : State) : Prop where
  pg : s.cpu.cr0.pg = false
  fresh : s.prefetch = []
  settled : s.pgSwitch = none
  start : s.cpu.cur.len = 0
  code : s.cpu.prot = true → s.cpu.segs.cs.valid = true

/-- Byte `k` at CS:EIP, inside the limit of CS, is fetched from memory and its word is queued. -/
theorem fetchByte_codeFetched {s : State} (h : s.Fetches) {k : Nat} {bs : List Byte} (hbs : bs.length = k)
    (hk : s.cpu.eip.toNat + k ≤ s.cpu.segs.cs.limit.toNat) :
    fetchByte bs (s.codeFetched k) = .ok (s.mem.read (s.codeAddr k)) (s.codeFetched (k + 1)) := by
  subst hbs
  have hvalid : (!s.cpu.prot || s.cpu.segs.cs.valid) = true := by
    cases hp : s.cpu.prot with
    | false => rfl
    | true => simp [h.code hp]
  have hoff : s.cpu.fetchOffset bs.length = s.cpu.eip.toNat + bs.length := by simp [Cpu.fetchOffset, h.start]
  have hlin : (s.cpu.fetchLinear bs.length).setWidth 24 = s.codeAddr bs.length := by
    simp [Cpu.fetchLinear, hoff, State.codeAddr]
  have hplace : limitBeforePage bs (translateCode (s.cpu.fetchLinear bs.length)) (s.codeFetched bs.length) =
      .ok (s.codeAddr bs.length) (s.codeFetched bs.length) := by
    rw [limitBeforePage, translateCode_off _ (by simpa using h.pg) (by simpa using h.settled), hlin]
  simp only [fetchByte, bind_run, getCpu_run, State.codeFetched_cpu, require_run, hvalid, hoff, hk, decide_true, if_true, hplace]
  rw [fetchPhysical_ok _ (by simpa using h.fresh)]
  simp only [State.codeFetched, State.codeFetched_mem]

/-- The bytes of an instruction show it only when the last of them is there. -/
theorem decode_codeBytes_more {s : State} {i : Instr} {n k : Nat} (hd : decode s.cpu.ctx (s.codeBytes n) = .ok i n) (hk : k < n) :
    decode s.cpu.ctx (s.codeBytes k) = .more := by
  refine Classical.byContradiction fun hm => ?_
  obtain ⟨more, hmore⟩ := s.codeBytes_add k (n - k)
  rw [Nat.add_sub_cancel' (Nat.le_of_lt hk)] at hmore
  rw [hmore, decode_append hm] at hd
  have hlength : n ≤ (s.codeBytes k).length := decode_length_le hd
  rw [State.length_codeBytes] at hlength
  omega

/-- The bytes from byte `k` on are fetched until they decode. -/
theorem fetchFrom_codeBytes {s : State} (h : s.Fetches) {i : Instr} {n : Nat}
    (hd : decode s.cpu.ctx (s.codeBytes n) = .ok i n) (hl : s.cpu.eip.toNat + n ≤ s.cpu.segs.cs.limit.toNat + 1)
    (m k room : Nat) (hn : k + (m + 1) = n) (hroom : m < room) :
    fetchFrom (s.codeBytes k) room (s.codeFetched k) = .ok (i, n) (s.codeFetched n) := by
  induction m generalizing k room with
  | zero =>
    obtain ⟨room, rfl⟩ : ∃ r, room = r + 1 := ⟨room - 1, by omega⟩
    subst hn
    simp only [fetchFrom, bind_run, getCpu_run, State.codeFetched_cpu,
      fetchByte_codeFetched h (s.length_codeBytes k) (by omega), ← State.codeBytes_succ, hd, pure_run]
  | succ m ih =>
    obtain ⟨room, rfl⟩ : ∃ r, room = r + 1 := ⟨room - 1, by omega⟩
    simp only [fetchFrom, bind_run, getCpu_run, State.codeFetched_cpu,
      fetchByte_codeFetched h (s.length_codeBytes k) (by omega), ← State.codeBytes_succ,
      decode_codeBytes_more hd (show k + 1 < n by omega)]
    exact ih (k + 1) room (by omega) (by omega)

/-- The instruction at CS:EIP is fetched: its bytes are read on the bus, its length stands in the decode register (R202). -/
theorem fetchInstr_codeBytes {s : State} (h : s.Fetches) {i : Instr} {n : Nat} (hn : n ≤ maxLength)
    (hd : decode s.cpu.ctx (s.codeBytes n) = .ok i n) (hl : s.cpu.eip.toNat + n ≤ s.cpu.segs.cs.limit.toNat + 1) :
    fetchInstr s = .ok i ((s.codeFetched n).mapCpu fun c => { c with cur := { c.cur with len := n } }) := by
  cases n with
  | zero => cases hd
  | succ m =>
    have hf : fetchFrom [] (maxLength - s.cpu.cur.len) s = .ok (i, m + 1) (s.codeFetched (m + 1)) :=
      fetchFrom_codeBytes h hd hl m 0 _ (by omega) (by rw [h.start]; omega)
    simp only [fetchInstr, bind_run, getCpu_run, hf, modifyCpu_run, pure_run]
    simp [State.mapCpu, h.start]

/-! ## A step at a quiet boundary (R615) -/

/-- The state at which the next instruction is fetched: the NMI pin has been looked at and no trap is left. -/
def State.boundaryPassed (s : State) : State := (sampleNmi s).mapCpu fun c => { c with trap := DebugCauses.none }

/-- A boundary with nothing to do runs the next instruction. -/
theorem atBoundary_idle {go : State → Host.Outcome State Fault Refusal} {s u : State}
    (hu : u = s.mapCpu fun c => { c with trap := DebugCauses.none }) (htrap : anyCause s.cpu.trap = false)
    (hnmi : nmiReady u.cpu = false) (hintr : intrReady u = false) (hrun : u.cpu.run = .running)
    (hbreak : anyCause (codeBreaks u.cpu) = false) : atBoundary go s = go u := by
  have hhalt : ¬ u.cpu.run = .halted := by simp [hrun]
  have heq : atBoundary go s = if anyCause s.cpu.trap && s.cpu.inhibit != .ss then deliverDebug s.cpu.trap s.cpu.repActive s
      else if nmiReady u.cpu then deliverNmi u else if intrReady u then deliverIntr u
      else if u.cpu.run = .halted then .next u
      else if anyCause (codeBreaks u.cpu) then deliverDebug (codeBreaks u.cpu) false u else go u := by
    subst hu
    rfl
  simp [heq, htrap, hnmi, hintr, hhalt, hbreak]

/-- At a quiet state a step runs the next instruction. -/
theorem step_quiet {s : State} (h : s.quiet = true) : step s = runNext exec s.boundaryPassed := by
  simp only [State.quiet, Bool.and_eq_true, Bool.not_eq_true', Option.isNone_iff_eq_none, beq_iff_eq] at h
  obtain ⟨⟨⟨⟨⟨⟨⟨hreset, hafter⟩, hesc⟩, hrun⟩, htrap⟩, hnmi⟩, hintr⟩, hbreak⟩ := h
  have hboundary : atBoundary (runNext exec) (sampleNmi s) = runNext exec s.boundaryPassed :=
    atBoundary_idle rfl htrap hnmi hintr hrun hbreak
  have hrunning : (sampleNmi s).cpu.run = .running := hrun
  have hready : (sampleNmi s).cpu.escWaiting = false := hesc
  simp [step, stepWith, hreset, hafter, stepRunning, hrunning, hready, hboundary]

/-- An instruction, fetched: its meaning runs. -/
theorem runFrom_instr {b s u : State} {i : Instr} {m : Nat} (hf : fetchInstr s = .ok i u) (hi : isPrefix i = false) :
    runFrom exec b (m + 1) s = exec i u := by
  simp [runFrom, hf, hi]

/-- One of the prefixes, fetched: its meaning marks the decode register and the same step goes on after it. -/
theorem runFrom_prefix {b s u : State} {i : Instr} {m : Nat} (hf : fetchInstr s = .ok i u) (hi : isPrefix i = true) :
    ∃ t, exec i u = .next t ∧ runFrom exec b (m + 1) s = runFrom exec b m t := by
  obtain ⟨f, he⟩ := exec_prefix hi
  exact ⟨_, he u, by simp [runFrom, hf, hi, he]⟩

/-- Settles O55: at a quiet boundary the bytes at CS:EIP are fetched one by one until they decode, and `runFrom` runs what they
decode to. -/
theorem stepRunsDecoded : Obligations.StepRunsDecoded := by
  unfold Obligations.StepRunsDecoded
  intro s i n fetched before hquiet hrest hpg hfresh hsettled hcode hn hlimit _ hdecode
  have hcur : s.cpu.cur = Current.none := beq_iff_eq.mp hrest
  have hready : before.Fetches := ⟨hpg, hfresh, hsettled, congrArg Current.len hcur, hcode⟩
  have hfetch : fetchInstr before = .ok i fetched := by
    rw [fetchInstr_codeBytes hready hn hdecode hlimit, State.codeFetched_mapCpu _ _ rfl rfl]
    rfl
  have hstep : step s = runFrom exec before (maxLength + 1) before := step_quiet hquiet
  rw [hstep]
  exact ⟨runFrom_instr hfetch, runFrom_prefix hfetch⟩

end Sys2Proof.Machine

/-! PROOFS. The walk through the page directory and table (R132, R133, R135): what it reads, the bits it sets, and when it ends in
exception 14. -/

namespace Sys2Proof.Machine

/-! ## Reading and marking entries -/

/-- The bus event of reading the entry at an address. -/
def State.entryRead (s : State) (a : PAddr) : BusEvent := .memRead false (s.mem.cellsAt [a, a + 1, a + 2, a + 3])

@[simp] theorem readEntry_run (a : PAddr) (s : State) :
    readEntry a s = .ok (s.mem.entry a) (s.traced (s.entryRead a)) := rfl

/-- The state with bits set in the low byte of a page entry; when they are set already nothing happens. -/
def State.entryMarked (s : State) (a : PAddr) (bits : Byte) : State :=
  if s.mem.read a &&& bits = bits then s
  else (s.store a (s.mem.read a ||| bits)).traced (.memWrite [(a, s.mem.read a ||| bits)])

@[simp] theorem setEntryBits_run (a : PAddr) (bits : Byte) (s : State) :
    setEntryBits a bits s = .ok () (s.entryMarked a bits) := rfl

theorem State.entryMarked_zero (s : State) (a : PAddr) : s.entryMarked a 0 = s := by
  exact if_pos BitVec.and_zero

/-- An OR with bits that are set already changes nothing. -/
theorem or_eq_self_of_and_eq {v bits : Byte} (h : v &&& bits = bits) : v ||| bits = v := by
  rw [← h]
  ext i hi
  rw [BitVec.getElem_or, BitVec.getElem_and]
  cases v[i] <;> rfl

theorem State.entryMarked_read {s : State} (h : s.mem.wf = true) (a : PAddr) (bits : Byte) (x : PAddr) :
    (s.entryMarked a bits).mem.read x = s.mem.read x ||| (if x = a then bits else 0) := by
  rw [State.entryMarked]
  split
  case isTrue hset =>
    split
    · subst x
      exact (or_eq_self_of_and_eq hset).symm
    · simp
  case isFalse =>
    rw [State.traced_mem, State.store, Memory.read_write h]
    split
    · subst x
      rfl
    · simp

theorem State.entryMarked_mem_wf {s : State} (h : s.mem.wf = true) (a : PAddr) (bits : Byte) :
    (s.entryMarked a bits).mem.wf = true := by
  rw [State.entryMarked]
  split
  · exact h
  · exact Memory.wf_write h _ _

/-! ## What the walk leaves alone -/

/-- The processor is the same, and the environment but for the bus events it has seen. -/
def State.TracedTo (s t : State) : Prop := t.cpu = s.cpu ∧ { t.env with trace := [] } = { s.env with trace := [] }

theorem State.TracedTo.refl (s : State) : s.TracedTo s := ⟨rfl, rfl⟩

theorem State.TracedTo.trans {s t u : State} (h : s.TracedTo t) (h' : t.TracedTo u) : s.TracedTo u :=
  ⟨h'.1.trans h.1, h'.2.trans h.2⟩

theorem State.tracedTo_traced (s : State) (e : BusEvent) : s.TracedTo (s.traced e) := ⟨rfl, rfl⟩

theorem State.tracedTo_entryMarked (s : State) (a : PAddr) (bits : Byte) : s.TracedTo (s.entryMarked a bits) := by
  rw [State.entryMarked]
  split
  · exact .refl s
  · exact ⟨rfl, rfl⟩

/-! ## The bits an access sets (R132) -/

/-- The bits an access sets in the directory entry: Accessed, when it is more than a check. -/
def Access.pdeBits : Access → Byte
  | .read | .write => 0x20
  | .verify | .peek => 0

/-- The bits an access sets in the table entry: Accessed, and Dirty for a write. -/
def Access.pteBits : Access → Byte
  | .read => 0x20
  | .write => 0x60
  | .verify | .peek => 0

/-- The state with the bits of an access set in the two entries. -/
def State.accessMarked (s : State) (acc : Access) (pdeA pteA : PAddr) : State :=
  (s.entryMarked pdeA acc.pdeBits).entryMarked pteA acc.pteBits

theorem State.accessMarked_read {s : State} (h : s.mem.wf = true) (acc : Access) (pdeA pteA x : PAddr) :
    (s.accessMarked acc pdeA pteA).mem.read x =
      s.mem.read x ||| (if x = pdeA then acc.pdeBits else 0) ||| (if x = pteA then acc.pteBits else 0) := by
  rw [State.accessMarked, State.entryMarked_read (State.entryMarked_mem_wf h _ _), State.entryMarked_read h]

theorem State.tracedTo_accessMarked (s : State) (acc : Access) (pdeA pteA : PAddr) :
    s.TracedTo (s.accessMarked acc pdeA pteA) :=
  (s.tracedTo_entryMarked _ _).trans (State.tracedTo_entryMarked _ _ _)

/-- A check sets no bit. -/
theorem State.accessMarked_check (s : State) {acc : Access} (h : acc = .verify ∨ acc = .peek) (pdeA pteA : PAddr) :
    s.accessMarked acc pdeA pteA = s := by
  obtain rfl | rfl := h <;>
    simp only [State.accessMarked, Access.pdeBits, Access.pteBits, State.entryMarked_zero]

/-- No bit but Accessed and Dirty is touched. -/
theorem State.accessMarked_otherBits {s : State} (h : s.mem.wf = true) (acc : Access) (pdeA pteA x : PAddr) :
    (s.accessMarked acc pdeA pteA).mem.read x &&& 0x9F = s.mem.read x &&& 0x9F := by
  have hpde : acc.pdeBits &&& 0x9F = 0 := by cases acc <;> rfl
  have hpte : acc.pteBits &&& 0x9F = 0 := by cases acc <;> rfl
  have hmasked : ∀ (p : Prop) [Decidable p] (bits : Byte), bits &&& 0x9F = 0 → (if p then bits else 0) &&& 0x9F = 0 :=
    fun p _ bits hbits => by
      split
      · exact hbits
      · rfl
  rw [State.accessMarked_read h, BitVec.and_or_distrib_right, BitVec.and_or_distrib_right, hmasked _ _ hpde, hmasked _ _ hpte]
  simp

/-! ## The walk -/

/-- A choice between two meanings, applied to a state. -/
theorem ite_run {α : Type} (p : Prop) [Decidable p] (m m' : M α) (s : State) :
    (if p then m else m') s = if p then m s else m' s := by
  split <;> rfl

/-- The TLB entry of a walk that ends at two entries. -/
def walkedEntry (la : Dword) (acc : Access) (pde pte : Dword) : TlbEntry :=
  { page := la.extractLsb' 12 20, frame := pte.extractLsb' 12 20, user := pde.getLsbD 2 && pte.getLsbD 2,
    writable := pde.getLsbD 1 && pte.getLsbD 1, dirty := pte.getLsbD 6 || acc == .write }

/-- The address of the directory entry a walk reads. -/
def State.pdePlace (s : State) (la : Dword) : PAddr := pdeAddr s.cpu.cr3 la

/-- The directory entry a walk reads. -/
def State.pdeOf (s : State) (la : Dword) : Dword := s.mem.entry (s.pdePlace la)

/-- The address of the table entry a walk reads. -/
def State.ptePlace (s : State) (la : Dword) : PAddr := pteAddr (s.pdeOf la) la

/-- The table entry a walk reads. -/
def State.pteOf (s : State) (la : Dword) : Dword := s.mem.entry (s.ptePlace la)

/-- Both entries are present. -/
def State.pagePresent (s : State) (la : Dword) : Bool := (s.pdeOf la).getLsbD 0 && (s.pteOf la).getLsbD 0

/-- The entries allow the access (R133). -/
def State.pageAllows (s : State) (la : Dword) (acc : Access) (user : Bool) : Bool :=
  !user || ((s.pdeOf la).getLsbD 2 && (s.pteOf la).getLsbD 2 &&
    (!acc.writes || ((s.pdeOf la).getLsbD 1 && (s.pteOf la).getLsbD 1)))

/-- The state with both entries read on the bus. -/
def State.entriesRead (s : State) (la : Dword) : State :=
  (s.traced (s.entryRead (s.pdePlace la))).traced (s.entryRead (s.ptePlace la))

theorem State.tracedTo_entriesRead (s : State) (la : Dword) : s.TracedTo (s.entriesRead la) :=
  (s.tracedTo_traced _).trans (State.tracedTo_traced _ _)

/-- The state after a walk that succeeds. -/
def State.walked (s : State) (la : Dword) (acc : Access) : State :=
  (s.entriesRead la).accessMarked acc (s.pdePlace la) (s.ptePlace la)

/-- The walk up to the rights of the two entries: they are read in turn, each has to be present. -/
theorem walk_eq (la : Dword) (acc : Access) (user : Bool) (s : State) : walk la acc user s =
    if !(s.pdeOf la).getLsbD 0 then pageFault la false acc user (s.traced (s.entryRead (s.pdePlace la)))
    else if !(s.pteOf la).getLsbD 0 then pageFault la false acc user (s.entriesRead la)
    else if !s.pageAllows la acc user then pageFault la true acc user (s.entriesRead la)
    else .ok (walkedEntry la acc (s.pdeOf la) (s.pteOf la)) (s.walked la acc) := by
  have hdenied : (user && (!((s.pdeOf la).getLsbD 2 && (s.pteOf la).getLsbD 2) ||
      (acc.writes && !((s.pdeOf la).getLsbD 1 && (s.pteOf la).getLsbD 1)))) = !s.pageAllows la acc user := by
    simp only [State.pageAllows, Bool.not_or, Bool.not_and, Bool.not_not]
  have hcheck : acc = .verify ∨ acc = .peek → s.walked la acc = s.entriesRead la := fun h => State.accessMarked_check _ h _ _
  simp only [walk, bind_run, getCpu_run, readEntry_run, ite_run, ← hdenied]
  cases acc with
  | verify => rw [hcheck (.inl rfl)]; rfl
  | peek => rw [hcheck (.inr rfl)]; rfl
  | read | write => rfl

/-- Present entries that allow the access: the walk ends at the page frame. -/
theorem walk_ok {la : Dword} {acc : Access} {user : Bool} {s : State} (hp : s.pagePresent la = true)
    (ha : s.pageAllows la acc user = true) :
    walk la acc user s = .ok (walkedEntry la acc (s.pdeOf la) (s.pteOf la)) (s.walked la acc) := by
  obtain ⟨hpde, hpte⟩ := Bool.and_eq_true_iff.mp hp
  simp only [walk_eq, hpde, hpte, ha, Bool.not_true, Bool.false_eq_true, if_false]

/-! ## Exception 14 (R135) -/

/-- The error code of a page fault, with its free bits 15:3. -/
def pageFaultCode (junk : Dword) (present : Bool) (acc : Access) (user : Bool) : Word :=
  junk.extractLsb' 0 13 ++ bit user ++ bit acc.writes ++ bit present

theorem getLsbD_append_bits {w : Nat} (v : BitVec w) (a b c : Bool) :
    (v ++ bit a ++ bit b ++ bit c).getLsbD 0 = c ∧ (v ++ bit a ++ bit b ++ bit c).getLsbD 1 = b ∧
    (v ++ bit a ++ bit b ++ bit c).getLsbD 2 = a := by
  simp only [BitVec.getLsbD_append]
  simp [bit]

/-- Bits 2:0 of the error code say who accessed the page, why, and whether it is present. -/
theorem pageFaultCode_reasons (junk : Dword) (present : Bool) (acc : Access) (user : Bool) :
    (pageFaultCode junk present acc user).getLsbD 0 = present ∧
    (pageFaultCode junk present acc user).getLsbD 1 = acc.writes ∧
    (pageFaultCode junk present acc user).getLsbD 2 = user := by
  exact getLsbD_append_bits _ user acc.writes present

/-- The exception of a page fault. -/
def pageFaultExc (junk : Dword) (la : Dword) (present : Bool) (acc : Access) (user : Bool) : Exc :=
  ⟨14, some (pageFaultCode junk present acc user), some la, 0, false⟩

theorem pageFault_run {α : Type} (la : Dword) (present : Bool) (acc : Access) (user : Bool) (s : State) :
    (pageFault la present acc user : M α) s = .error (.exc (pageFaultExc s.freeVal la present acc user)) s.drawn := rfl

/-- A walk that finds an entry not present, or the access forbidden, ends in exception 14 and writes nothing (D11). -/
theorem walk_faults {la : Dword} {acc : Access} {user : Bool} {s : State}
    (h : s.pagePresent la = false ∨ s.pageAllows la acc user = false) :
    ∃ t : State, walk la acc user s = .error (.exc (pageFaultExc s.freeVal la (s.pagePresent la) acc user)) t ∧
      s.TracedTo t ∧ t.mem = s.mem ∧ t.tlb = s.tlb := by
  rw [walk_eq]
  cases hpde : (s.pdeOf la).getLsbD 0 with
  | false =>
    have hp : s.pagePresent la = false := by rw [State.pagePresent, hpde, Bool.false_and]
    rw [hp]
    exact ⟨_, rfl, s.tracedTo_traced _, rfl, rfl⟩
  | true =>
    have hp : s.pagePresent la = (s.pteOf la).getLsbD 0 := by rw [State.pagePresent, hpde, Bool.true_and]
    rw [hp] at h ⊢
    cases hpte : (s.pteOf la).getLsbD 0 with
    | false => exact ⟨_, rfl, s.tracedTo_entriesRead la, rfl, rfl⟩
    | true =>
      have ha : s.pageAllows la acc user = false := h.resolve_left (by simp only [hpte, Bool.true_eq_false, not_false_eq_true])
      rw [ha]
      exact ⟨_, rfl, s.tracedTo_entriesRead la, rfl, rfl⟩

/-! ## Through an empty TLB (R134; log 10) -/

/-- An entry goes into the TLB, perhaps in the place of one drawn at random. -/
theorem tlbInsert_ok (e : TlbEntry) (s : State) :
    ∃ tlb free, tlbInsert e s = .ok () { s with tlb := tlb, free := free } := by
  by_cases h : s.tlb.length < Config.tlbSize
  · exact ⟨e :: s.tlb, s.free, by simp [tlbInsert, bind_run, h]⟩
  · exact ⟨e :: (s.tlb.eraseIdx (s.freeVal.toNat % Config.tlbSize)).take (Config.tlbSize - 1), s.free + 1,
      by simp [tlbInsert, bind_run, h]; rfl⟩

/-- What a walk finds may be kept in the TLB; a check keeps nothing. -/
theorem walkAndCache_ok {la : Dword} {acc : Access} {user : Bool} {s t : State} {e : TlbEntry}
    (h : walk la acc user s = .ok e t) : ∃ tlb free,
      walkAndCache la acc user s = .ok e { t with tlb := tlb, free := free } ∧
      (acc = .verify ∨ acc = .peek → tlb = t.tlb ∧ free = t.free) := by
  rw [walkAndCache, bind_ok h]
  obtain ⟨tlb, free, hinsert⟩ := tlbInsert_ok e { t with tlb := t.tlb.filter (fun e' => e'.page != e.page) }
  cases acc with
  | verify | peek => exact ⟨_, _, rfl, fun _ => ⟨rfl, rfl⟩⟩
  | read | write =>
    refine ⟨tlb, free, ?_, by simp⟩
    simp only [bind_run, tlbDrop, hinsert, pure_run]

/-- Nothing is found in an empty TLB. -/
theorem tlbLookup_nil {s : State} (h : s.tlb = []) (la : Dword) (acc : Access) (user : Bool) :
    tlbLookup la acc user s = walkAndCache la acc user s := by
  simp [tlbLookup, bind_run, h]

/-- One byte lies in one page. -/
theorem translate_byte {s : State} (h : s.cpu.cr0.pg = true) (la : Dword) (acc : Access) (user : Bool) :
    translate la 1 acc user s = ((fun e => [inFrame e.frame la]) <$> tlbLookup la acc user) s := by
  simp [translate, bind_run, map_run, h, addrsFrom]

/-- A translation that succeeds is a walk, and what it keeps in the TLB. -/
theorem translate_walk_ok {la : Dword} {acc : Access} {user : Bool} {s t : State} {e : TlbEntry} (hpg : s.cpu.cr0.pg = true)
    (htlb : s.tlb = []) (h : walk la acc user s = .ok e t) : ∃ tlb free,
      translate la 1 acc user s = .ok [inFrame e.frame la] { t with tlb := tlb, free := free } ∧
      (acc = .verify ∨ acc = .peek → tlb = t.tlb ∧ free = t.free) := by
  obtain ⟨tlb, free, hcached, hcheck⟩ := walkAndCache_ok h
  exact ⟨tlb, free, by rw [translate_byte hpg, map_run, tlbLookup_nil htlb, hcached], hcheck⟩

/-- A translation fails where its walk does. -/
theorem translate_walk_error {la : Dword} {acc : Access} {user : Bool} {s t : State} {stop : Stop} (hpg : s.cpu.cr0.pg = true)
    (htlb : s.tlb = []) (h : walk la acc user s = .error stop t) : translate la 1 acc user s = .error stop t := by
  rw [translate_byte hpg, map_run, tlbLookup_nil htlb, walkAndCache, bind_error h]

/-! ## The translation -/

theorem State.walked_read {s : State} (h : s.mem.wf = true) (la : Dword) (acc : Access) (x : PAddr) :
    (s.walked la acc).mem.read x =
      s.mem.read x ||| (if x = s.pdePlace la then acc.pdeBits else 0) ||| (if x = s.ptePlace la then acc.pteBits else 0) :=
  State.accessMarked_read (s := s.entriesRead la) h acc _ _ x

theorem State.walked_read_ne {s : State} (h : s.mem.wf = true) (la : Dword) (acc : Access) {x : PAddr}
    (hpde : x ≠ s.pdePlace la) (hpte : x ≠ s.ptePlace la) : (s.walked la acc).mem.read x = s.mem.read x := by
  simp [State.walked_read h, hpde, hpte]

/-- A read or write sets the Accessed bits of both entries. -/
theorem State.walked_accessed {s : State} (h : s.mem.wf = true) (la : Dword) {acc : Access} (hacc : acc = .read ∨ acc = .write) :
    ((s.walked la acc).mem.read (s.pdePlace la)).getLsbD 5 = true ∧
    ((s.walked la acc).mem.read (s.ptePlace la)).getLsbD 5 = true := by
  have hpde : acc.pdeBits.getLsbD 5 = true := by obtain rfl | rfl := hacc <;> rfl
  have hpte : acc.pteBits.getLsbD 5 = true := by obtain rfl | rfl := hacc <;> rfl
  simp [State.walked_read h, hpde, hpte]

/-- A write sets the Dirty bit of the table entry. -/
theorem State.walked_dirty {s : State} (h : s.mem.wf = true) (la : Dword) :
    ((s.walked la .write).mem.read (s.ptePlace la)).getLsbD 6 = true := by
  simp [State.walked_read h, Access.pteBits]

/-- A read sets no Dirty bit. -/
theorem State.walked_clean {s : State} (h : s.mem.wf = true) (la : Dword) (x : PAddr) :
    ((s.walked la .read).mem.read x).getLsbD 6 = (s.mem.read x).getLsbD 6 := by
  simp only [State.walked_read h, BitVec.getLsbD_or, Access.pdeBits, Access.pteBits, apply_ite (BitVec.getLsbD · 6)]
  simp

theorem State.walked_otherBits {s : State} (h : s.mem.wf = true) (la : Dword) (acc : Access) (x : PAddr) :
    (s.walked la acc).mem.read x &&& 0x9F = s.mem.read x &&& 0x9F :=
  State.accessMarked_otherBits (s := s.entriesRead la) h acc _ _ x

/-- A check reads the two entries and does nothing else. -/
theorem State.walked_check (s : State) (la : Dword) {acc : Access} (hacc : acc = .verify ∨ acc = .peek) :
    s.walked la acc = s.entriesRead la :=
  State.accessMarked_check _ hacc _ _

theorem State.tracedTo_walked (s : State) (la : Dword) (acc : Access) : s.TracedTo (s.walked la acc) :=
  (s.tracedTo_entriesRead la).trans (State.tracedTo_accessMarked _ _ _ _)

/-- Settles O53: with an empty TLB a translation is a walk, which either marks its two entries or ends in exception 14 before it
writes. -/
theorem pageTranslation : Obligations.PageTranslation := by
  unfold Obligations.PageTranslation
  intro la acc user s hwf hpg htlb pdeA pde pteA pte present allowed entryRead
  refine ⟨fun hp ha => ?_, fun h => ?_⟩
  · obtain ⟨tlb, free, htranslate, hcheck⟩ := translate_walk_ok hpg htlb (walk_ok (la := la) hp ha)
    obtain ⟨hcpu, henv⟩ := s.tracedTo_walked la acc
    refine ⟨_, htranslate, hcpu, henv, fun a => State.walked_read_ne hwf la acc, fun hacc => ?_,
      fun hacc => State.walked_accessed hwf la hacc, fun hacc => hacc ▸ State.walked_dirty hwf la,
      State.walked_otherBits hwf la acc, fun hacc => hacc ▸ State.walked_clean hwf la⟩
    obtain ⟨rfl, rfl⟩ := hcheck hacc
    exact s.walked_check la hacc
  · obtain ⟨t, hwalk, ⟨hcpu, henv⟩, hmem, htlb'⟩ := walk_faults (s := s) (la := la) h
    obtain ⟨hpresent, hwrites, huser⟩ := pageFaultCode_reasons s.freeVal present acc user
    exact ⟨_, _, t, translate_walk_error hpg htlb hwalk, rfl, rfl, rfl, hpresent, hwrites, huser, hcpu, hmem, htlb', henv⟩

end Sys2Proof.Machine

/-! PROOFS. The decode checks (R142, R243, R245, R516): every instruction but the prefixes runs in one of two shells, which say when
it raises exception 6 or 13 or is refused before its body begins. -/

namespace Sys2Proof.Machine

/-- The debug register an instruction moves to or from. -/
def debugOperand : Instr → Option DReg
  | .movDrReg d _ => some d
  | .movRegDr _ d => some d
  | _ => none

/-- The shell of an instruction: a MOV to or from a debug register looks at the register before its privilege (D6). -/
def runChecked (i : Instr) (body : M Ending) (s : State) : Host.Outcome State Fault Refusal :=
  match debugOperand i with
  | none => run i body s
  | some d => runDebug i d body s

/-- Every instruction but the prefixes runs in its shell. -/
theorem exec_eq_runChecked {i : Instr} (h : isPrefix i = false) : ∃ body : M Ending, ∀ s, exec i s = runChecked i body s := by
  cases i with
  | addressSizePrefix | lockPrefix | operandSizePrefix | csPrefix | dsPrefix | esPrefix | fsPrefix | gsPrefix | ssPrefix
  | repPrefix | repnePrefix => cases h
  | _ => exact ⟨_, fun _ => rfl⟩

/-- A MOV to or from a debug register that fails a decode check of R245 raises exception 6. -/
theorem runDebug_barred {i : Instr} {d : DReg} {body : M Ending} {s : State} (h : decodeFault i s.cpu = true) :
    runDebug i d body s = takeException .ud s := by
  simp [runDebug, outcome, bind_run, h, stopped]

/-- DR4 and DR5 are refused before the privilege check (R516, D6). -/
theorem runDebug_reserved {i : Instr} {d : DReg} {body : M Ending} {s : State} (h : decodeFault i s.cpu = false)
    (hd : d = .dr4 ∨ d = .dr5) : runDebug i d body s = .refused .reservedDebugRegister := by
  simp [runDebug, outcome, bind_run, h, refuseReservedDebug, hd, stopped]

/-- With another debug register the shell is the usual one. -/
theorem runDebug_eq_run {i : Instr} {d : DReg} {body : M Ending} {s : State} (h : decodeFault i s.cpu = false)
    (h4 : d ≠ .dr4) (h5 : d ≠ .dr5) : runDebug i d body s = run i body s := by
  simp [runDebug, run, outcome, bind_run, h, refuseReservedDebug, h4, h5]

/-- An instruction that fails a decode check of R245 raises exception 6. -/
theorem exec_of_decodeFault {i : Instr} {s : State} (hi : isPrefix i = false) (h : decodeFault i s.cpu = true) :
    exec i s = takeException .ud s := by
  obtain ⟨body, hbody⟩ := exec_eq_runChecked hi
  rw [hbody, runChecked]
  cases debugOperand i with
  | none =>
    have hbarred : s.mayRun i = false := by simp [State.mayRun, h]
    simp only [run_barred hbarred, h, if_true]
  | some d => exact runDebug_barred h

/-- A privileged instruction at another level than 0 raises exception 13 with error code 0 (R243). -/
theorem exec_of_unprivileged {i : Instr} {s : State} (hi : isPrefix i = false) (h : decodeFault i s.cpu = false)
    (hd : ∀ d, debugOperand i = some d → d ≠ .dr4 ∧ d ≠ .dr5) (hrule : (modeRule i).privileged? = true)
    (hcpl : s.cpu.cpl ≠ 0) :
    exec i s = takeException (.gp 0) s := by
  obtain ⟨body, hbody⟩ := exec_eq_runChecked hi
  have hbarred : s.mayRun i = false := by
    have hlevel : (s.cpu.cpl != 0) = true := bne_iff_ne.mpr hcpl
    rw [State.mayRun, hrule, hlevel, h]
    rfl
  have hrun : run i body s = takeException (.gp 0) s := by simp [run_barred hbarred, h]
  rw [hbody, runChecked]
  cases hoperand : debugOperand i with
  | none => exact hrun
  | some d =>
    obtain ⟨h4, h5⟩ := hd d hoperand
    exact (runDebug_eq_run h h4 h5).trans hrun

/-- A MOV to or from DR4 or DR5 is refused by name at every level (D6). -/
theorem exec_of_reservedDebug {i : Instr} {s : State} {d : DReg} (hi : isPrefix i = false) (h : decodeFault i s.cpu = false)
    (hoperand : debugOperand i = some d) (hd : d = .dr4 ∨ d = .dr5) : exec i s = .refused .reservedDebugRegister := by
  obtain ⟨body, hbody⟩ := exec_eq_runChecked hi
  rw [hbody, runChecked, hoperand]
  exact runDebug_reserved h hd

/-- Without LOCK an instruction for every mode passes the decode checks of R245. -/
theorem decodeFault_anyMode {i : Instr} {c : Cpu} (hlock : c.cur.pfx.lock = false) (hrule : (modeRule i).protectedOnly? = false) :
    decodeFault i c = false := by
  simp [decodeFault, hlock, hrule]

/-- Without LOCK every instruction passes them in Protected Mode. -/
theorem decodeFault_protected {i : Instr} {c : Cpu} (hlock : c.cur.pfx.lock = false) (hprot : c.prot = true) :
    decodeFault i c = false := by
  simp [decodeFault, hlock, hprot]

/-- The privileged instructions of every mode but the MOVs to and from debug registers. -/
theorem privileged_anyMode {i : Instr} {rm : RM} {m : Mem} {r : Reg} {cr : CReg} {t : TReg}
    (h : i ∈ [Instr.hlt, .clts, .lgdt m, .lidt m, .lmsw rm, .movCrReg cr r, .movRegCr r cr, .movTrReg t r, .movRegTr r t]) :
    isPrefix i = false ∧ modeRule i = .privileged ∧ debugOperand i = none := by
  simp only [List.mem_cons, List.not_mem_nil, or_false] at h
  obtain rfl | rfl | rfl | rfl | rfl | rfl | rfl | rfl | rfl := h <;> exact ⟨rfl, rfl, rfl⟩

/-- LLDT and LTR are privileged and for Protected Mode alone. -/
theorem privileged_protectedOnly {i : Instr} {rm : RM} (h : i ∈ [Instr.lldt rm, .ltr rm]) :
    isPrefix i = false ∧ modeRule i = .protectedPrivileged ∧ debugOperand i = none := by
  simp only [List.mem_cons, List.not_mem_nil, or_false] at h
  obtain rfl | rfl := h <;> exact ⟨rfl, rfl, rfl⟩

/-- The MOVs to and from debug registers are privileged in every mode. -/
theorem privileged_debug {i : Instr} {d : DReg} {r : Reg} (h : i ∈ [Instr.movDrReg d r, .movRegDr r d]) :
    isPrefix i = false ∧ modeRule i = .privileged ∧ debugOperand i = some d := by
  simp only [List.mem_cons, List.not_mem_nil, or_false] at h
  obtain rfl | rfl := h <;> exact ⟨rfl, rfl, rfl⟩

/-- Settles O50: each clause is one way to fail the checks of the shell, in the order of D16. -/
theorem decodeChecksRaise : Obligations.DecodeChecksRaise := by
  unfold Obligations.DecodeChecksRaise
  intro i rm m r cr d t s
  refine ⟨fun hi hlock hform => ?_, fun hi hlock hcpl => ?_, fun hi hprot hlock hcpl => ?_, fun hi h4 h5 hlock hcpl => ?_,
    fun hi hd hlock => ?_⟩
  · exact exec_of_decodeFault hi (by simp [decodeFault, hlock, hform])
  · obtain ⟨hprefix, hrule, hoperand⟩ := privileged_anyMode hi
    exact exec_of_unprivileged hprefix (decodeFault_anyMode hlock (by rw [hrule]; rfl)) (by simp [hoperand]) (by rw [hrule]; rfl) hcpl
  · obtain ⟨hprefix, hrule, hoperand⟩ := privileged_protectedOnly hi
    exact exec_of_unprivileged hprefix (decodeFault_protected hlock hprot) (by simp [hoperand]) (by rw [hrule]; rfl) hcpl
  · obtain ⟨hprefix, hrule, hoperand⟩ := privileged_debug hi
    have hnamed : ∀ d', debugOperand i = some d' → d' ≠ .dr4 ∧ d' ≠ .dr5 := fun d' h => by
      obtain rfl : d = d' := Option.some.inj (hoperand.symm.trans h)
      exact ⟨h4, h5⟩
    exact exec_of_unprivileged hprefix (decodeFault_anyMode hlock (by rw [hrule]; rfl)) hnamed (by rw [hrule]; rfl) hcpl
  · obtain ⟨hprefix, hrule, hoperand⟩ := privileged_debug hi
    exact exec_of_reservedDebug hprefix (decodeFault_anyMode hlock (by rw [hrule]; rfl)) hoperand hd

end Sys2Proof.Machine

/-! PROOFS. The decoder reads back what the encoder writes (R200 to R222). An encoding is an opcode followed by fields, and the row
of the opcode map names the reader of each field: one lemma for each kind of field, then every instruction is an opcode with such
fields. -/

namespace Sys2Proof

/-- The opcode maps read the encoding of `i` as `i`, whatever bytes follow, and no byte further. -/
def ReadsBack (c : Ctx) (i : Instr) : Prop := ∀ rest, take8 (encode i ++ rest) (decodeOneByte c) = .ok i rest

/-- What is read back is decoded with its own length. -/
theorem ReadsBack.decode {c : Ctx} {i : Instr} (h : ReadsBack c i) (rest : List Byte) :
    decode c (encode i ++ rest) = .ok i (encode i).length := by
  simp [Sys2Proof.decode, h rest]

/-! ## Opcodes (R221, R222) -/

/-- An opcode: one byte, or 0FH and a second byte. -/
inductive Opcode where
  | one (b : Byte)
  | two (b : Byte)

/-- The bytes of an opcode. -/
def Opcode.bytes : Opcode → List Byte
  | .one b => [b]
  | .two b => [0x0F, b]

/-- What the opcode maps say about the bytes after the opcode. -/
def Opcode.row (c : Ctx) : Opcode → List Byte → Parse
  | .one b => decodeOneByte c b
  | .two b => decodeTwoByte c b

/-- The decoder goes to the row of the opcode. -/
theorem take8_opcode (c : Ctx) (op : Opcode) (bs : List Byte) : take8 (op.bytes ++ bs) (decodeOneByte c) = op.row c bs := by
  cases op <;> rfl

/-! ## Fields after the opcode (R200, R209, R211)

`hi` splits the encoding into the opcode and its fields, `hrow` is the row of the opcode. -/

section Fields
variable {c : Ctx} (op : Opcode)

/-- The row of the opcode is the parser `p`, and `p` reads the fields. -/
theorem readsBack_of_row {i : Instr} {bs : List Byte} (p : List Byte → Parse) (hi : encode i = op.bytes ++ bs)
    (hrow : ∀ bs, op.row c bs = p bs) (hp : ∀ rest, p (bs ++ rest) = .ok i rest) : ReadsBack c i :=
  fun rest => by rw [hi, List.append_assoc, take8_opcode, hrow, hp]

/-- A full displacement, offset or immediate. -/
theorem readsBack_full (wide : Bool) (v : Imm) {k : Imm → Instr} (hv : v.isFull wide = true)
    (hi : encode (k v) = op.bytes ++ v.bytes) (hrow : ∀ bs, op.row c bs = takeFull wide bs fun v r => .ok (k v) r) :
    ReadsBack c (k v) :=
  readsBack_of_row op _ hi hrow fun rest => takeFull_bytes hv rest _

/-- An immediate of the operand's width. -/
theorem readsBack_imm (w : Bool) (v : Imm) {k : Imm → Instr} (hv : v.fits c w = true)
    (hi : encode (k v) = op.bytes ++ v.bytes) (hrow : ∀ bs, op.row c bs = takeImm c w bs fun v r => .ok (k v) r) :
    ReadsBack c (k v) :=
  readsBack_of_row op _ hi hrow fun rest => takeImm_bytes hv rest _

/-- A far pointer: the offset, then the selector. -/
theorem readsBack_far (off : Imm) (sel : Word) {k : Imm → Word → Instr} (hoff : off.isFull c.os32 = true)
    (hi : encode (k off sel) = op.bytes ++ (off.bytes ++ bytes16 sel))
    (hrow : ∀ bs, op.row c bs = takeFull c.os32 bs fun off rest => take16 rest fun sel r => .ok (k off sel) r) :
    ReadsBack c (k off sel) :=
  readsBack_of_row op _ hi hrow fun rest => by rw [List.append_assoc, takeFull_bytes hoff, take16_bytes16]

/-- A general register and an r/m operand (R212). -/
theorem readsBack_regRM (reg : Reg) (rm : RM) {k : Reg → RM → Instr} (hrm : rm.wf c = true)
    (hi : encode (k reg rm) = op.bytes ++ rm.bytes reg.num) (hrow : ∀ bs, op.row c bs = takeRegRM c bs k) :
    ReadsBack c (k reg rm) :=
  readsBack_of_row op _ hi hrow fun rest => by rw [takeRegRM, takeModRM_bytes hrm, Reg.ofNum_num]

/-- The same where the instruction names the r/m operand first. -/
theorem readsBack_rmReg (rm : RM) (reg : Reg) {k : RM → Reg → Instr} (hrm : rm.wf c = true)
    (hi : encode (k rm reg) = op.bytes ++ rm.bytes reg.num)
    (hrow : ∀ bs, op.row c bs = takeRegRM c bs fun reg rm => k rm reg) : ReadsBack c (k rm reg) :=
  readsBack_regRM op reg rm (k := fun reg rm => k rm reg) hrm hi hrow

/-- A general register and a memory operand (R217). -/
theorem readsBack_regMem (reg : Reg) (m : Mem) {k : Reg → Mem → Instr} (hm : m.wf c = true)
    (hi : encode (k reg m) = op.bytes ++ m.bytes reg.num) (hrow : ∀ bs, op.row c bs = takeRegMem c bs k) :
    ReadsBack c (k reg m) :=
  readsBack_of_row op _ hi hrow fun rest => by
    rw [takeRegMem]
    refine (takeModRM_bytes (rm := .mem m) hm reg.num rest _).trans ?_
    dsimp only
    rw [Reg.ofNum_num]

end Fields

/-- The byte `11 eee reg` is read back (R512). -/
theorem takeSpecial_cons (e : BitVec 3) (reg : Reg) (rest : List Byte) (k : BitVec 3 → Reg → List Byte → Parse) :
    takeSpecial ((0b11#2 ++ e ++ reg.num : Byte) :: rest) k = k e reg rest := by
  obtain ⟨hmod, heee, hreg⟩ := modRMByte_fields 3 e reg.num
  show takeSpecial (modRMByte 3 e reg.num :: rest) k = _
  rw [takeSpecial, take8_cons, hmod, heee, hreg, if_pos rfl, Reg.ofNum_num]

/-- The opcode of ESC carries `ttt` in its low three bits (R220). -/
theorem decodeOneByte_esc (c : Ctx) (ttt : BitVec 3) (bs : List Byte) :
    decodeOneByte c ((0b11011#5) ++ ttt) bs = takeModRM c bs fun lll rm r => .ok (.esc ttt lll rm) r := by
  have hhi : ((0b11011#5) ++ ttt : Byte).extractLsb' 3 5 = 0b11011 := by revert ttt; decide
  have hlo : ((0b11011#5) ++ ttt : Byte).extractLsb' 0 3 = ttt := by revert ttt; decide
  unfold decodeOneByte
  rw [hhi, hlo]
  rfl

theorem Imm.isByte_iff {v : Imm} : v.isByte = true ↔ ∃ b, v = .i8 b := by
  cases v <;> simp [Imm.isByte]

/-! ## The instructions -/

/-- Every instruction that has an encoding is read back. The decoder evaluates on an opcode and on fields of one byte; the other
fields go by the lemmas above, and the groups of R219 to R222 by the reg field of the mod r/m byte. -/
theorem readsBack_of_wf {c : Ctx} {i : Instr} (h : i.wf c = true) : ReadsBack c i := by
  cases i with
  | pusha | popEs | popSs | popDs | popa | clc | cld | cli | cmc | lahf | popf | pushf | sahf | sti | stc | std | aaa | aas
  | daa | das | cbw | cwd | xlat | repPrefix | repnePrefix | retNear | retFar | leave | int3 | into | iret | hlt | nop | wait
  | addressSizePrefix | lockPrefix | operandSizePrefix | csPrefix | dsPrefix | esPrefix | fsPrefix | gsPrefix | ssPrefix
  | pushFs | pushGs | popFs | popGs | clts | aad | aam
  | jmpShort | jcxz | loop | loopz | loopnz | int => exact fun _ => rfl
  | inDx w | outDx w | cmps w | ins w | lods w | movs w | outs w | scas w | stos w
  | inImm w | outImm w => cases w <;> exact fun _ => rfl
  | incReg r | decReg r | pushReg r | popReg r | pushSreg r | jccShort r => cases r <;> exact fun _ => rfl
  | xchgRegAcc r =>
    cases r with
    | eax => cases h
    | _ => exact fun _ => rfl
  | retNearImm n => exact fun rest => take16_bytes16 n rest fun n r => .ok (.retNearImm n) r
  | retFarImm n => exact fun rest => take16_bytes16 n rest fun n r => .ok (.retFarImm n) r
  | enter n l => exact fun rest => take16_bytes16 n (l :: rest) fun n bs => take8 bs fun l r => .ok (.enter n l) r
  | callRel v | jmpRel v => exact readsBack_full (.one _) c.os32 v h rfl fun _ => rfl
  | jccNear t v => exact readsBack_full (.two _) c.os32 v h rfl fun _ => by cases t <;> rfl
  | movAccMoffs w v | movMoffsAcc w v => exact readsBack_full (.one _) c.as32 v h rfl fun _ => by cases w <;> rfl
  | pushImm s v =>
    cases s with
    | false => exact readsBack_full (.one _) c.os32 v h rfl fun _ => rfl
    | true =>
      obtain ⟨b, rfl⟩ := Imm.isByte_iff.mp h
      exact fun _ => rfl
  | callFar off sel | jmpFar off sel => exact readsBack_far (.one _) off sel h rfl fun _ => rfl
  | addAccImm w v | adcAccImm w v | subAccImm w v | sbbAccImm w v | cmpAccImm w v | andAccImm w v | orAccImm w v | xorAccImm w v
  | testAccImm w v => exact readsBack_imm (.one _) w v h rfl fun _ => by cases w <;> rfl
  | movRegImm w r v => exact readsBack_imm (.one _) w v h rfl fun _ => by cases w <;> cases r <;> rfl
  | addRmReg d w m r | adcRmReg d w m r | subRmReg d w m r | sbbRmReg d w m r | cmpRmReg d w m r | andRmReg d w m r
  | orRmReg d w m r | xorRmReg d w m r => exact readsBack_rmReg (.one _) m r h rfl fun _ => by cases d <;> cases w <;> rfl
  | movRmReg w m r | xchgRmReg w m r | testRmReg w m r =>
    exact readsBack_rmReg (.one _) m r h rfl fun _ => by cases w <;> rfl
  | arpl m r => exact readsBack_rmReg (.one _) m r h rfl fun _ => rfl
  | shldCl m r | shrdCl m r | btReg m r | btcReg m r | btrReg m r | btsReg m r =>
    exact readsBack_rmReg (.two _) m r h rfl fun _ => rfl
  | movRegRm w r m => exact readsBack_regRM (.one _) r m h rfl fun _ => by cases w <;> rfl
  | movsx w r m | movzx w r m => exact readsBack_regRM (.two _) r m h rfl fun _ => by cases w <;> rfl
  | imulRegRm r m | bsf r m | bsr r m | lar r m | lsl r m =>
    exact readsBack_regRM (.two _) r m h rfl fun _ => rfl
  | lea r m | bound r m | lds r m | les r m => exact readsBack_regMem (.one _) r m h rfl fun _ => rfl
  | lfs r m | lgs r m | lss r m => exact readsBack_regMem (.two _) r m h rfl fun _ => rfl
  | esc t l m =>
    exact readsBack_of_row (.one _) _ rfl (decodeOneByte_esc c t) fun rest => takeModRM_bytes h l rest _
  | setcc t m =>
    exact readsBack_of_row (.two _) (takeModRM c · fun _ m r => .ok (.setcc t m) r) rfl (fun _ => by cases t <;> rfl)
      fun rest => takeModRM_bytes h 0 rest _
  | popRm m =>
    exact readsBack_of_row (.one _) (oneByte88 c 7) rfl (fun _ => rfl) fun _ => by
      simp only [oneByte88, takeModRM_bytes h, if_true]
  | movRmSreg m r =>
    exact readsBack_of_row (.one _) (oneByte88 c 4) rfl (fun _ => rfl) fun _ => by
      simp only [oneByte88, takeModRM_bytes h, SReg.ofNum?_num]
  | movSregRm r m =>
    obtain ⟨hr, hm⟩ := Bool.and_eq_true_iff.mp h
    refine readsBack_of_row (.one _) (oneByte88 c 6) rfl (fun _ => rfl) fun _ => ?_
    simp only [oneByte88, takeModRM_bytes hm, SReg.ofNum?_num]
    cases r with
    | cs => cases hr
    | _ => rfl
  | movRmImm w m v =>
    obtain ⟨hm, hv⟩ := Bool.and_eq_true_iff.mp h
    refine readsBack_of_row (.one _) (oneByteC0 c (if w then 7 else 6)) rfl (fun _ => by cases w <;> rfl) fun _ => ?_
    cases w <;> simp [oneByteC0, takeModRM_bytes hm, takeImm_bytes hv]
  | addRmImm s w m v | adcRmImm s w m v | subRmImm s w m v | sbbRmImm s w m v | cmpRmImm s w m v =>
    obtain ⟨hm, hv⟩ := Bool.and_eq_true_iff.mp h
    exact readsBack_of_row (.one _) (group1 c s w) rfl (fun _ => by cases s <;> cases w <;> rfl) fun _ => by
      simp [group1, takeModRM_bytes hm, takeImm_bytes hv]
  | andRmImm w m v | orRmImm w m v | xorRmImm w m v =>
    obtain ⟨hm, hv⟩ := Bool.and_eq_true_iff.mp h
    exact readsBack_of_row (.one _) (group1 c false w) rfl (fun _ => by cases w <;> rfl) fun _ => by
      simp [group1, takeModRM_bytes hm, takeImm_bytes hv]
  | andRmImm8 m b | orRmImm8 m b | xorRmImm8 m b =>
    exact readsBack_of_row (.one _) (group1 c true true) rfl (fun _ => rfl) fun _ => by simp [group1, takeModRM_bytes h]
  | rolOne w m | rorOne w m | rclOne w m | rcrOne w m | shlOne w m | shrOne w m | sarOne w m =>
    exact readsBack_of_row (.one _) (group2One c w) rfl (fun _ => by cases w <;> rfl) fun _ => by
      simp [group2One, takeModRM_bytes h]
  | rolCl w m | rorCl w m | rclCl w m | rcrCl w m | shlCl w m | shrCl w m | sarCl w m =>
    exact readsBack_of_row (.one _) (group2Cl c w) rfl (fun _ => by cases w <;> rfl) fun _ => by
      simp [group2Cl, takeModRM_bytes h]
  | rolImm w m | rorImm w m | rclImm w m | rcrImm w m | shlImm w m | shrImm w m | sarImm w m =>
    exact readsBack_of_row (.one _) (group2Imm c w) rfl (fun _ => by cases w <;> rfl) fun _ => by
      simp [group2Imm, takeModRM_bytes h]
  | notRm w m | negRm w m | mulAcc w m | imulAcc w m | divAcc w m | idivAcc w m =>
    exact readsBack_of_row (.one _) (group3 c w) rfl (fun _ => by cases w <;> rfl) fun _ => by
      simp [group3, takeModRM_bytes h]
  | testRmImm w m v =>
    obtain ⟨hm, hv⟩ := Bool.and_eq_true_iff.mp h
    exact readsBack_of_row (.one _) (group3 c w) rfl (fun _ => by cases w <;> rfl) fun _ => by
      simp [group3, takeModRM_bytes hm, takeImm_bytes hv]
  | incRm w m | decRm w m =>
    cases w with
    | false => exact readsBack_of_row (.one _) (group4 c) rfl (fun _ => rfl) fun _ => by simp [group4, takeModRM_bytes h]
    | true => exact readsBack_of_row (.one _) (group5 c) rfl (fun _ => rfl) fun _ => by simp [group5, takeModRM_bytes h]
  | callRm m | jmpRm m | pushRm m =>
    exact readsBack_of_row (.one _) (group5 c) rfl (fun _ => rfl) fun _ => by simp [group5, takeModRM_bytes h]
  | callFarMem m | jmpFarMem m =>
    exact readsBack_of_row (.one _) (group5 c) rfl (fun _ => rfl) fun rest => takeModRM_bytes (rm := .mem m) h _ rest _
  | sldt m | str m | lldt m | ltr m | verr m | verw m =>
    exact readsBack_of_row (.two _) (group6 c) rfl (fun _ => rfl) fun _ => by simp [group6, takeModRM_bytes h]
  | smsw m | lmsw m =>
    exact readsBack_of_row (.two _) (group7 c) rfl (fun _ => rfl) fun _ => by simp [group7, takeModRM_bytes h]
  | sgdt m | sidt m | lgdt m | lidt m =>
    exact readsBack_of_row (.two _) (group7 c) rfl (fun _ => rfl) fun rest => takeModRM_bytes (rm := .mem m) h _ rest _
  | btImm m | btsImm m | btrImm m | btcImm m =>
    exact readsBack_of_row (.two _) (group8 c) rfl (fun _ => rfl) fun _ => by simp [group8, takeModRM_bytes h]
  | imulRegRmImm s r m v =>
    obtain ⟨hm, hv⟩ := Bool.and_eq_true_iff.mp h
    cases s with
    | false =>
      exact readsBack_of_row (.one _) (oneByte68 c 1) rfl (fun _ => rfl) fun _ => by
        simp [oneByte68, takeModRM_bytes hm, takeFull_bytes hv]
    | true =>
      obtain ⟨b, rfl⟩ := Imm.isByte_iff.mp hv
      exact readsBack_of_row (.one _) (oneByte68 c 3) rfl (fun _ => rfl) fun _ => by
        simp [oneByte68, takeModRM_bytes hm, Imm.bytes]
  | shldImm m r b =>
    exact readsBack_of_row (.two _) (twoByteA0 c 4) rfl (fun _ => rfl) fun _ => by simp [twoByteA0, takeModRM_bytes h]
  | shrdImm m r b =>
    exact readsBack_of_row (.two _) (twoByteA8 c 4) rfl (fun _ => rfl) fun _ => by simp [twoByteA8, takeModRM_bytes h]
  | movRegCr r x => exact readsBack_of_row (.two _) (twoByte20 0) rfl (fun _ => rfl) fun _ => by simp [twoByte20, takeSpecial_cons]
  | movRegDr r x => exact readsBack_of_row (.two _) (twoByte20 1) rfl (fun _ => rfl) fun _ => by simp [twoByte20, takeSpecial_cons]
  | movCrReg x r => exact readsBack_of_row (.two _) (twoByte20 2) rfl (fun _ => rfl) fun _ => by simp [twoByte20, takeSpecial_cons]
  | movDrReg x r => exact readsBack_of_row (.two _) (twoByte20 3) rfl (fun _ => rfl) fun _ => by simp [twoByte20, takeSpecial_cons]
  | movRegTr r x => exact readsBack_of_row (.two _) (twoByte20 4) rfl (fun _ => rfl) fun _ => by simp [twoByte20, takeSpecial_cons]
  | movTrReg x r => exact readsBack_of_row (.two _) (twoByte20 6) rfl (fun _ => rfl) fun _ => by simp [twoByte20, takeSpecial_cons]

/-- Settles O56: what is read back is decoded. -/
theorem decodeEncode : Obligations.DecodeEncode := by
  unfold Obligations.DecodeEncode
  exact fun c i rest h => (readsBack_of_wf h).decode rest

/-- Settles O57: the words are the encodings of well-formed instructions, with no byte after them. -/
theorem wordsDecode : Obligations.WordsDecode := by
  unfold Obligations.WordsDecode
  intro c16 c32
  exact ⟨decodeEncode c16 (.addRmReg false false (.reg .eax) .ebx) [] rfl,
    decodeEncode c16 (.movRegRm true .eax (.mem (.base16 .bp (.d8 0xFE)))) [] rfl,
    decodeEncode c32 (.movRegRm true .eax (.mem (.sib .x4 (some .edi) .eax (.d8 0x10)))) [] rfl,
    decodeEncode c32 (.movRegImm true .eax (.i32 0x12345678)) [] rfl,
    decodeEncode c16 (.jmpFar (.i16 0x1000) 0xF000) [] rfl,
    decodeEncode c16 (.jccNear .e (.i16 0x1234)) [] rfl,
    decodeEncode c16 (.movCrReg .cr0 .eax) [] rfl,
    decodeEncode c16 (.btImm (.reg .ecx) 5) [] rfl,
    decodeEncode c16 (.shlImm true (.reg .edx) 4) [] rfl⟩

end Sys2Proof

/-! PROOFS. Outside Protected Mode the instructions that are for it alone fail their decode checks (R242). -/

namespace Sys2Proof.Machine

theorem Cpu.not_prot_of_real_or_v86 {c : Cpu} (h : c.real = true ∨ c.v86 = true) : c.prot = false := by
  cases hpe : c.cr0.pe <;> cases hvm : c.flags.vm <;> simp_all [Cpu.real, Cpu.v86, Cpu.prot]

/-- An instruction for Protected Mode alone fails a decode check in the other modes, with LOCK or without. -/
theorem decodeFault_protectedOnly {i : Instr} {c : Cpu} (hrule : (modeRule i).protectedOnly? = true) (hprot : c.prot = false) :
    decodeFault i c = true := by
  simp [decodeFault, hrule, hprot]

/-- The nine instructions for Protected Mode alone. -/
theorem protectedOnly_nine {i : Instr} {rm : RM} {r : Reg}
    (h : i ∈ [Instr.arpl rm r, .lar r rm, .lldt rm, .lsl r rm, .ltr rm, .sldt rm, .str rm, .verr rm, .verw rm]) :
    isPrefix i = false ∧ (modeRule i).protectedOnly? = true := by
  simp only [List.mem_cons, List.not_mem_nil, or_false] at h
  obtain rfl | rfl | rfl | rfl | rfl | rfl | rfl | rfl | rfl := h <;> exact ⟨rfl, rfl⟩

/-- Settles O49: the nine fail the decode check of their mode before their operands are looked at. -/
theorem protectedModeOnly : Obligations.ProtectedModeOnly := by
  unfold Obligations.ProtectedModeOnly
  intro rm r s hmode i hi
  obtain ⟨hprefix, hrule⟩ := protectedOnly_nine hi
  exact exec_of_decodeFault hprefix (decodeFault_protectedOnly hrule (Cpu.not_prot_of_real_or_v86 hmode))

end Sys2Proof.Machine

/-! PROOFS. MOV, XCHG, MOVSX, MOVZX and LEA (R261 to R266, R269, R271, R283, R284, R289): each body is a read of the source and a
write of the destination. -/

namespace Sys2Proof.Machine

/-- Settles O1: the reads and writes of each body are those of its operands. -/
theorem movXchgComplete : Obligations.MovXchgComplete := by
  unfold Obligations.MovXchgComplete
  intro w rm reg imm s
  dsimp only
  refine ⟨fun hready hdst => ?_, fun hready hsrc => ?_, fun hready hdst => ?_, fun hready => ?_, fun hready hsrc => ?_,
    fun hready hdst => ?_, fun hready hdst => ?_, fun hready => ?_⟩
  · exact run_next hready (by simp only [bind_run, opSize_run, readReg_run, writeRM_ok _ hdst, pure_run])
  · exact run_next hready (by simp only [bind_run, opSize_run, readRM_ok hsrc, writeReg_run, pure_run])
  · exact run_next hready (by simp only [bind_run, opSize_run, writeRM_ok _ hdst, pure_run])
  · exact run_next hready rfl
  · exact run_next hready (by simp only [bind_run, opSize_run, getCpu_run, segRead_ok hsrc, writeReg_run, pure_run])
  · exact run_next hready
      (by simp only [bind_run, opSize_run, getCpu_run, readReg_run, segWrite_ok _ hdst, pure_run])
  · exact run_next hready
      (by simp only [bind_run, opSize_run, readDest_ok hdst, readReg_run, State.rmRead_reg, writeRM_rmRead_ok _ hdst,
        writeReg_run, pure_run])
  · exact run_next hready rfl

/-- Settles O2: the extended source, or the effective address, is written to the register. -/
theorem extendAndLeaComplete : Obligations.ExtendAndLeaComplete := by
  unfold Obligations.ExtendAndLeaComplete
  intro w dst src m s
  refine ⟨fun hready hsrc => ?_, fun hready hsrc => ?_, fun hready => ?_⟩
  · exact run_next hready (by simp only [bind_run, getCpu_run, readRM_ok hsrc, writeReg_run, pure_run])
  · exact run_next hready (by simp only [bind_run, getCpu_run, readRM_ok hsrc, writeReg_run, pure_run])
  · exact run_next hready rfl

end Sys2Proof.Machine

/-! PROOFS. PUSH, PUSHA and POPA (R272 to R277, R282). -/

namespace Sys2Proof.Machine

/-! ## PUSH (R272 to R276) -/

/-- The body of PUSH of a segment register (R274, R275). -/
theorem pushSegment_ok {s : State} {r : SReg} (h : s.canPush s.cpu.osz = true) :
    pushSegment r s = .ok .next (s.pushedSelector s.cpu.osz (s.cpu.segs.get r).selector) := by
  simp only [pushSegment, bind_run, getCpu_run, pushSelector_ok h, pure_run]

/-- Settles O4: each form is a push of its value, read before the stack pointer moves. -/
theorem pushCompletes : Obligations.PushCompletes := by
  unfold Obligations.PushCompletes
  intro r rm sx imm g s hroom
  refine ⟨fun hready => ?_, fun hready hsrc => ?_, fun hready => ?_, fun hready => ?_, fun hready => ?_, fun hready => ?_⟩
  · exact run_next hready (by simp only [bind_run, getCpu_run, push_ok _ hroom, pure_run, State.reg])
  · have hroom' : (s.rmRead s.cpu.osz rm).canPush s.cpu.osz = true := by rw [State.rmRead_canPush]; exact hroom
    exact run_next hready (by simp only [bind_run, getCpu_run, readRM_ok hsrc, push_ok _ hroom', pure_run])
  · exact run_next hready (by simp only [bind_run, getCpu_run, push_ok _ hroom, pure_run])
  · exact run_next hready (pushSegment_ok hroom)
  · exact run_next hready (pushSegment_ok hroom)
  · exact run_next hready (pushSegment_ok hroom)

/-! ## PUSHA and POPA (R277, R282): lists of pushes and pops -/

/-- A list of pushes, the first of the list pushed first. -/
theorem forM_push_ok {sz : Sz} (vs : List (BitVec sz.bits)) :
    ∀ s : State, s.canPushAll sz vs = true → forM vs (push sz) s = .ok () (s.pushedAll sz vs) := by
  induction vs with
  | nil => intro s _; rfl
  | cons v vs ih =>
    intro s h
    simp only [State.canPushAll, Bool.and_eq_true] at h
    obtain ⟨hv, hvs⟩ := h
    rw [List.forM_cons, bind_ok (push_ok v hv)]
    exact ih _ hvs

/-- PUSHA pushes the registers in the order of their numbers (R277). -/
theorem pushRegisters_eq_forM (sz : Sz) (g : Gpr) : pushRegisters sz g =
    forM ([.eax, .ecx, .edx, .ebx, .esp, .ebp, .esi, .edi].map (g.read sz)) (push sz) := by
  simp [pushRegisters]

/-- An item popped into a register, or discarded. -/
def popItem (sz : Sz) : Option Reg → M Unit
  | none => do
    let _ ← pop sz
    pure ()
  | some r => popInto sz r

/-- An item is discarded: the stack pointer alone moves. -/
theorem popItem_none_ok {s : State} {sz : Sz} (h : s.canPeek sz 0 = true) : popItem sz none s = .ok () (s.popped sz) := by
  simp only [popItem, bind_run, pop_ok h, pure_run]

/-- An item popped into a register. -/
theorem popItem_some_ok {s : State} {sz : Sz} (r : Reg) (h : s.canPeek sz 0 = true) :
    popItem sz (some r) s = .ok () ((s.popped sz).withReg sz r (s.peek sz 0)) := by
  simp only [popItem, popInto, bind_run, pop_ok h, writeReg_run]

/-- A list of pops, each into its register or discarded. -/
theorem forM_popItem_ok {sz : Sz} (items : List (Option Reg)) :
    ∀ s : State, s.canPopInto sz items = true → forM items (popItem sz) s = .ok () (s.poppedInto sz items) := by
  induction items with
  | nil => intro s _; rfl
  | cons item items ih =>
    intro s h
    rw [List.forM_cons]
    cases item with
    | none =>
      simp only [State.canPopInto, Bool.and_eq_true] at h
      obtain ⟨hpop, hrest⟩ := h
      exact (bind_ok (popItem_none_ok hpop)).trans (ih _ hrest)
    | some r =>
      simp only [State.canPopInto, Bool.and_eq_true] at h
      obtain ⟨hpop, hrest⟩ := h
      exact (bind_ok (popItem_some_ok r hpop)).trans (ih _ hrest)

/-- POPA pops the items in the opposite order and discards that of ESP (R282). -/
theorem popRegisters_eq_forM (sz : Sz) (rest : M Ending) :
    (do popInto sz .edi; popInto sz .esi; popInto sz .ebp; let _ ← pop sz
        popInto sz .ebx; popInto sz .edx; popInto sz .ecx; popInto sz .eax; rest) =
      (do forM [some .edi, some .esi, some .ebp, none, some .ebx, some .edx, some .ecx, some .eax] (popItem sz); rest) := by
  simp [popItem]

/-- Settles O6: the eight items of each, in turn. -/
theorem pushaPopaComplete : Obligations.PushaPopaComplete := by
  unfold Obligations.PushaPopaComplete
  intro s
  refine ⟨fun hready hruns hroom hpush => ?_, fun hready hpop => ?_⟩
  · refine run_next hready ?_
    rw [bind_ok (getCpu_run s), if_neg (by simp [hruns]), bind_ok (requireRoom_ok hroom), pushRegisters_eq_forM]
    exact bind_ok (forM_push_ok _ s hpush)
  · refine run_next hready ?_
    rw [bind_ok (getCpu_run s), popRegisters_eq_forM]
    exact bind_ok (forM_popItem_ok _ s hpop)

end Sys2Proof.Machine

/-! PROOFS. The loads of segment registers by MOV and POP (R55, R127, R128, R267, R268, R278 to R281): what a load answers for
each kind of selector, and the instructions around it. -/

namespace Sys2Proof.Machine

/-- What is ready may run. -/
theorem State.mayRun_of_ready {i : Instr} {s : State} (h : s.ready i = true) : s.mayRun i = true := by
  simp only [State.ready, Bool.and_eq_true] at h
  exact h.1

/-! ## A load in Protected Mode (R127, R128) -/

/-- A null selector loads DS, ES, FS or GS, which it makes unusable (R127). -/
theorem loadSegment_null {s : State} {r : SReg} {sel : Word} (hp : s.cpu.prot = true) (hs : s.cpu.peSwitched = false)
    (hn : isNull sel = true) (hr : r ≠ .ss) :
    loadSegment r sel s = .ok () (s.withSeg r { s.cpu.segs.get r with selector := sel, valid := false }) := by
  rw [loadSegment_prot hp hs, if_neg hr]
  simp only [loadData, bind_run, getCpu_run, hn, if_true]
  rfl

/-- SS takes no null selector (R128). -/
theorem loadSegment_null_ss {s : State} {sel : Word} (hp : s.cpu.prot = true) (hs : s.cpu.peSwitched = false)
    (hn : isNull sel = true) : loadSegment .ss sel s = .error (.exc (.gp 0)) s := by
  rw [loadSegment_prot hp hs, if_pos rfl]
  simp only [loadStack, bind_run, hn, Bool.not_true, require_false, raiseExc_run]

/-- A selector outside its table is loaded into no segment register (R120). -/
theorem loadSegment_outside {s : State} {r : SReg} {sel : Word} (hp : s.cpu.prot = true) (hs : s.cpu.peSwitched = false)
    (hn : isNull sel = false) (ha : descriptorAddr s.cpu sel = none) :
    loadSegment r sel s = .error (.exc (.gp (selCode sel))) s := by
  rw [loadSegment_prot hp hs]
  split
  · simp only [loadStack, bind_run, hn, Bool.not_false, require_true, pure_run, readDescriptor_none ha]
  · simp only [loadData, bind_run, getCpu_run, hn, Bool.false_eq_true, if_false, readDescriptor_none ha]

/-- The descriptor is of a kind and of privilege levels that the segment register takes (R127, R128). -/
def Desc.suits (d : Desc) (r : SReg) (cpl : BitVec 2) (sel : Word) : Bool :=
  (if r = .ss then d.s && !d.exec && d.rw else d.s && (!d.exec || d.rw)) &&
    (if r = .ss then rpl sel == cpl && d.dpl == cpl
      else (d.exec && d.ec) || (decide (cpl ≤ d.dpl) && decide (rpl sel ≤ d.dpl)))

/-- A selector that names a descriptor: its kind and levels are looked at before its present bit (R127, R128). -/
theorem loadSegment_desc {s : State} {r : SReg} {sel : Word} {la : Dword} (hp : s.cpu.prot = true)
    (hs : s.cpu.peSwitched = false) (hpg : s.cpu.cr0.pg = false) (hn : isNull sel = false)
    (ha : descriptorAddr s.cpu sel = some la) :
    loadSegment r sel s =
      if (s.descAt la).suits r s.cpu.cpl sel = true then
        if (s.descAt la).present = true then
          .ok () (((s.descLoaded la).marked la (s.descAt la)).withSeg r ((s.descAt la).cache sel))
        else .error (.exc (if r = .ss then .ss (selCode sel) else .np (selCode sel))) (s.descLoaded la)
      else .error (.exc (.gp (selCode sel))) (s.descLoaded la) := by
  rw [loadSegment_prot hp hs]
  by_cases hr : r = .ss
  · subst hr
    exact loadStack_run hpg hn ha
  · simp only [hr, if_false, Desc.suits]
    exact loadData_run hpg hn ha

/-- A load of a segment register in Protected Mode, in an instruction that has read the selector and comes to `u`: it is enough
to say how the instruction goes on when the load answers and when it raises an exception. -/
theorem loadsSegment_of_load {s u v : State} {r : SReg} {sel : Word} {o : Host.Outcome State Fault Refusal}
    {done : State → Host.Outcome State Fault Refusal} {cur : Current} (hcpu : u.cpu = { s.cpu with cur := cur })
    (hmem : u.mem = s.mem) (hv : { u with cpu := s.cpu } = v) (hp : s.cpu.prot = true) (hs : s.cpu.peSwitched = false)
    (hpg : s.cpu.cr0.pg = false)
    (hok : ∀ (w : State) (g : SegReg), w.cpu = u.cpu → loadSegment r sel u = .ok () (w.withSeg r g) →
      o = done (w.withSeg r g))
    (herr : ∀ (e : Exc) (w : State), loadSegment r sel u = .error (.exc e) w → o = takeException e { w with cpu := s.cpu }) :
    LoadsSegment s r sel u v o done := by
  subst hv
  have hp' : u.cpu.prot = true := by rw [hcpu]; exact hp
  have hs' : u.cpu.peSwitched = false := by rw [hcpu]; exact hs
  have hpg' : u.cpu.cr0.pg = false := by rw [hcpu]; exact hpg
  have hsegs : u.cpu.segs = s.cpu.segs := by rw [hcpu]
  have hcpl : u.cpu.cpl = s.cpu.cpl := by rw [hcpu]
  have haddr : descriptorAddr u.cpu sel = descriptorAddr s.cpu sel := by rw [hcpu]; rfl
  have hdesc : ∀ la, u.descAt la = s.descAt la := fun la => by simp only [State.descAt, State.loadAt, hmem]
  refine ⟨fun hn hr => ?_, fun hn hr => ?_, fun hn ha => ?_, fun la hn ha => ?_⟩
  · rw [← hsegs]
    exact hok u _ rfl (loadSegment_null hp' hs' hn hr)
  · subst hr
    exact herr _ _ (loadSegment_null_ss hp' hs' hn)
  · exact herr _ _ (loadSegment_outside hp' hs' hn (haddr.trans ha))
  · have hload := loadSegment_desc (r := r) hp' hs' hpg' hn (haddr.trans ha)
    rw [hdesc, hcpl] at hload
    refine ⟨fun (hsuits : (s.descAt la).suits r s.cpu.cpl sel = false) => ?_,
      fun (hsuits : (s.descAt la).suits r s.cpu.cpl sel = true) hpresent => ?_,
      fun (hsuits : (s.descAt la).suits r s.cpu.cpl sel = true) hpresent => ?_⟩
    all_goals rw [hsuits] at hload
    · exact herr _ (u.descLoaded la) hload
    · rw [hpresent] at hload
      exact herr _ (u.descLoaded la) hload
    · rw [hpresent] at hload
      exact hok _ _ (State.marked_cpu _ _ _) hload

/-! ## MOV (R267, R268) -/

/-- Reading an operand changes no more of the processor than the record of breakpoints. -/
theorem State.rmRead_cpu (s : State) (sz : Sz) (rm : RM) :
    (s.rmRead sz rm).cpu = { s.cpu with cur := (s.rmRead sz rm).cpu.cur } := by
  cases rm <;> rfl

/-- MOV to a segment register whose load answers (R267, R611). -/
theorem exec_movSregRm_of_load {r : SReg} {rm : RM} {s t : State} (hready : s.ready (.movSregRm r rm) = true)
    (hsrc : s.canRead .w rm = true) (h : loadSegment r (s.rmValue .w rm) (s.rmRead .w rm) = .ok () t) :
    exec (.movSregRm r rm) s = .next (State.settle s (if r = .ss then .loadedSs else .next) t) :=
  run_advances hready (by rw [bind_ok (readRM_ok hsrc), bind_ok h]; rfl)

/-- MOV to a segment register whose load raises an exception (R267). -/
theorem exec_movSregRm_of_fault {r : SReg} {rm : RM} {s t : State} {e : Exc} (hready : s.ready (.movSregRm r rm) = true)
    (hsrc : s.canRead .w rm = true) (h : loadSegment r (s.rmValue .w rm) (s.rmRead .w rm) = .error (.exc e) t) :
    exec (.movSregRm r rm) s = takeException e { t with cpu := s.cpu } :=
  run_raises (State.mayRun_of_ready hready) (by rw [bind_ok (readRM_ok hsrc), bind_error h])

/-- Settles O3: the selector is read and loaded by the rules of the mode, or the selector of the register is stored. -/
theorem movSregCompletes : Obligations.MovSregCompletes := by
  unfold Obligations.MovSregCompletes
  intro r rm s
  dsimp only
  refine ⟨fun hready hsrc hp hs => ?_, fun hready hsrc hp hpg hs => ?_, fun reg hready => ?_, fun m hready hdst => ?_⟩
  · rw [← State.rmRead_seg8086 s .w rm]
    exact exec_movSregRm_of_load hready hsrc (loadSegment_8086 (by rw [State.rmRead_prot]; exact hp)
      (by rw [State.rmRead_peSwitched]; exact hs))
  · exact loadsSegment_of_load (State.rmRead_cpu s .w rm) (State.rmRead_mem s .w rm) (State.rmRead_restored s .w rm) hp hs hpg
      (fun _ _ _ h => exec_movSregRm_of_load hready hsrc h) (fun _ _ h => exec_movSregRm_of_fault hready hsrc h)
  · exact run_next hready
      (by simp only [bind_run, getCpu_run, writeSelector, selectorItem_run, writeReg_run, pure_run])
  · exact run_next hready (by simp only [bind_run, getCpu_run, writeSelector, writeMem_ok (sz := .w) _ hdst, pure_run])

/-! ## POP (R278 to R281) -/

/-- POP of a segment register runs in the usual shell (R280, R281). -/
theorem exec_popInstr {r : SReg} (hr : r ≠ .cs) (s : State) : exec (popInstr r) s = run (popInstr r) (popSegment r) s := by
  cases r with
  | cs => exact absurd rfl hr
  | es | ss | ds | fs | gs => rfl

/-- The item at the stack pointer, read in place. -/
theorem stackItem_zero_ok {s : State} {sz : Sz} (h : s.canPeek sz 0 = true) :
    stackItem sz 0 s = .ok (s.peek sz 0) (s.noted (s.stackLinear 0) sz.bytes) := by
  have hzero : BitVec.ofNat 32 (0 * sz.bytes) = 0 := by rw [Nat.zero_mul]; rfl
  have hitem := stackItem_ok (s := s) (sz := sz) (i := 0) (by rw [hzero]; exact h)
  rwa [hzero] at hitem

/-- A load of another segment register than CS leaves the operand size (R206). -/
theorem State.withSeg_osz {s : State} {r : SReg} (hr : r ≠ .cs) (g : SegReg) : (s.withSeg r g).cpu.osz = s.cpu.osz := by
  cases r with
  | cs => exact absurd rfl hr
  | es | ss | ds | fs | gs => rfl

/-- POP of a segment register whose load answers: the stack pointer moves last (R280; log 31). -/
theorem exec_popInstr_of_load {r : SReg} {g : SegReg} {s w : State} (hr : r ≠ .cs) (hready : s.ready (popInstr r) = true)
    (hroom : s.canPeek s.cpu.osz 0 = true) (hw : w.cpu = (s.noted (s.stackLinear 0) s.cpu.osz.bytes).cpu)
    (h : loadSegment r ((s.peek s.cpu.osz 0).setWidth 16) (s.noted (s.stackLinear 0) s.cpu.osz.bytes) = .ok () (w.withSeg r g)) :
    exec (popInstr r) s = .next (State.settle s (if r = .ss then .loadedSs else .next)
      ((w.withSeg r g).mapCpu fun c => c.withSp (c.spPlus (BitVec.ofNat 32 s.cpu.osz.bytes)))) := by
  have hosz : (w.withSeg r g).cpu.osz = s.cpu.osz := by rw [State.withSeg_osz hr, hw]; rfl
  rw [exec_popInstr hr]
  refine run_advances hready ?_
  simp only [popSegment, bind_run, getCpu_run, stackItem_zero_ok hroom, h, modifyCpu_run, pure_run, State.mapCpu, hosz]

/-- POP of a segment register whose load raises an exception. -/
theorem exec_popInstr_of_fault {r : SReg} {s w : State} {e : Exc} (hr : r ≠ .cs) (hready : s.ready (popInstr r) = true)
    (hroom : s.canPeek s.cpu.osz 0 = true)
    (h : loadSegment r ((s.peek s.cpu.osz 0).setWidth 16) (s.noted (s.stackLinear 0) s.cpu.osz.bytes) = .error (.exc e) w) :
    exec (popInstr r) s = takeException e { w with cpu := s.cpu } := by
  rw [exec_popInstr hr]
  refine run_raises (State.mayRun_of_ready hready) ?_
  simp only [popSegment, bind_run, getCpu_run, stackItem_zero_ok hroom, h]

/-- Settles O5: an item is popped into its operand, or read in place and loaded by the rules of the mode. -/
theorem popCompletes : Obligations.PopCompletes := by
  unfold Obligations.PopCompletes
  intro r rm g s hroom
  dsimp only
  refine ⟨fun hready => ?_, fun hready hdst => ?_, fun hcs hready hs => ⟨fun hp => ?_, fun hp => ?_⟩⟩
  · exact run_next hready (by simp only [bind_run, getCpu_run, popInto, pop_ok hroom, writeReg_run, pure_run])
  · exact run_next hready (by simp only [bind_run, getCpu_run, pop_ok hroom, writeRM_ok _ hdst, pure_run])
  · exact exec_popInstr_of_load hcs hready hroom rfl (loadSegment_8086 hp hs)
  · have hpg : s.cpu.cr0.pg = false := by
      simp only [State.canPeek, State.canAccess, Bool.and_eq_true, Bool.not_eq_true'] at hroom
      exact hroom.1
    exact loadsSegment_of_load rfl rfl (State.noted_restored s _ _) hp hs hpg
      (fun _ _ hw h => exec_popInstr_of_load hcs hready hroom hw h) (fun _ _ h => exec_popInstr_of_fault hcs hready hroom h)

end Sys2Proof.Machine

/-! PROOFS. IN and OUT (R138, R285 to R288). -/

namespace Sys2Proof.Machine

/-! ## What a look at the permission map leaves (R138) -/

/-- Looking at the permission map leaves everything but the record of bus events. -/
theorem State.ioBitsRead_frame (n : Nat) : ∀ (s : State) (port : Nat),
    ∃ trace, s.ioBitsRead port n = { s with env := { s.env with trace := trace } } := by
  induction n with
  | zero => exact fun s _ => ⟨s.env.trace, rfl⟩
  | succ n ih =>
    intro s port
    simp only [State.ioBitsRead]
    split
    · split
      · obtain ⟨trace, h⟩ := ih (s.sysLoaded (s.ioMapLinear port) 1) (port + 1)
        exact ⟨trace, by rw [h]; rfl⟩
      · exact ⟨_, rfl⟩
    · exact ⟨s.env.trace, rfl⟩

/-- So does the whole check, which reads the offset of the map first. -/
theorem State.ioChecked_frame (s : State) (port : Word) (n : Nat) :
    ∃ trace, s.ioChecked port n = { s with env := { s.env with trace := trace } } := by
  simp only [State.ioChecked]
  split
  · exact ⟨s.env.trace, rfl⟩
  · obtain ⟨trace, h⟩ := State.ioBitsRead_frame n (s.sysLoaded (s.cpu.tr.base + 0x66) 2) port.toNat
    exact ⟨trace, by rw [h]; rfl⟩

@[simp] theorem State.ioChecked_cpu (s : State) (port : Word) (n : Nat) : (s.ioChecked port n).cpu = s.cpu := by
  obtain ⟨trace, h⟩ := s.ioChecked_frame port n
  rw [h]

@[simp] theorem State.ioChecked_reg (s : State) (port : Word) (n : Nat) (sz : Sz) (r : Reg) :
    (s.ioChecked port n).reg sz r = s.reg sz r := by
  simp only [State.reg, State.ioChecked_cpu]

@[simp] theorem State.ioChecked_ioAnswer (s : State) (port : Word) (n : Nat) : (s.ioChecked port n).ioAnswer = s.ioAnswer := by
  obtain ⟨trace, h⟩ := s.ioChecked_frame port n
  rw [h]
  rfl

/-! ## The bodies of IN and OUT -/

section Ports

variable {w : Bool} {port : Word} {s : State}

/-- IN of ports that may be accessed (R138, R285). -/
theorem inPort_ok (h : (s.cpu.ioFree || !s.cpu.cr0.pg) = true) (hperm : s.ioPermits port (s.cpu.size w).bytes = true)
    (hlast : port.toNat + (s.cpu.size w).bytes ≤ 0x10000) :
    inPort w port s = .ok .next (((s.ioChecked port (s.cpu.size w).bytes).afterIoRead port (s.cpu.size w)).withReg
      (s.cpu.size w) .eax (s.ioAnswer.setWidth (s.cpu.size w).bits)) := by
  simp only [inPort, bind_run, opSize_run, requireIo_run h, hperm, if_true, ioRead_ok hlast, writeReg_run, pure_run,
    State.ioChecked_ioAnswer]

/-- OUT to ports that may be accessed (R138, R287). -/
theorem outPort_ok (h : (s.cpu.ioFree || !s.cpu.cr0.pg) = true) (hperm : s.ioPermits port (s.cpu.size w).bytes = true)
    (hlast : port.toNat + (s.cpu.size w).bytes ≤ 0x10000) :
    outPort w port s = .ok .next ((s.ioChecked port (s.cpu.size w).bytes).afterIoWrite port (s.cpu.size w)
      (s.reg (s.cpu.size w) .eax)) := by
  simp only [outPort, bind_run, opSize_run, requireIo_run h, hperm, if_true, readReg_run, State.ioChecked_reg,
    ioWrite_ok _ hlast, pure_run]

/-- IN of denied ports raises exception 13 with error code 0 (R138). -/
theorem inPort_denied (h : (s.cpu.ioFree || !s.cpu.cr0.pg) = true) (hperm : s.ioPermits port (s.cpu.size w).bytes = false) :
    inPort w port s = .error (.exc (.gp 0)) (s.ioChecked port (s.cpu.size w).bytes) := by
  simp only [inPort, bind_run, opSize_run, requireIo_run h, hperm, Bool.false_eq_true, if_false]

/-- OUT to denied ports raises exception 13 with error code 0 (R138). -/
theorem outPort_denied (h : (s.cpu.ioFree || !s.cpu.cr0.pg) = true) (hperm : s.ioPermits port (s.cpu.size w).bytes = false) :
    outPort w port s = .error (.exc (.gp 0)) (s.ioChecked port (s.cpu.size w).bytes) := by
  simp only [outPort, bind_run, opSize_run, requireIo_run h, hperm, Bool.false_eq_true, if_false]

/-- An access past port FFFFH is refused (U9). -/
theorem requirePorts_beyond {n : Nat} (h : 0x10000 < port.toNat + n) :
    requirePorts port n s = .error (.refuse .ioBeyondLastPort) s := by
  rw [requirePorts, if_neg (Nat.not_le.mpr h), refuse_run]

/-- IN past port FFFFH is refused after the look at the map (U9). -/
theorem inPort_beyond (h : (s.cpu.ioFree || !s.cpu.cr0.pg) = true) (hperm : s.ioPermits port (s.cpu.size w).bytes = true)
    (hlast : 0x10000 < port.toNat + (s.cpu.size w).bytes) :
    inPort w port s = .error (.refuse .ioBeyondLastPort) (s.ioChecked port (s.cpu.size w).bytes) := by
  simp only [inPort, ioRead, bind_run, opSize_run, requireIo_run h, hperm, if_true, requirePorts_beyond hlast]

/-- OUT past port FFFFH is refused after the look at the map (U9). -/
theorem outPort_beyond (h : (s.cpu.ioFree || !s.cpu.cr0.pg) = true) (hperm : s.ioPermits port (s.cpu.size w).bytes = true)
    (hlast : 0x10000 < port.toNat + (s.cpu.size w).bytes) :
    outPort w port s = .error (.refuse .ioBeyondLastPort) (s.ioChecked port (s.cpu.size w).bytes) := by
  simp only [outPort, ioWrite, bind_run, opSize_run, requireIo_run h, hperm, if_true, readReg_run, requirePorts_beyond hlast]

end Ports

/-! ## The shell around them -/

/-- An instruction whose body is refused. -/
theorem run_refuses {i : Instr} {body : M Ending} {s s' : State} {r : Refusal} (h : s.mayRun i = true)
    (hb : body s = .error (.refuse r) s') : run i body s = .refused r := by
  simp [run_mayRun h, hb, stopped]

/-- A denied access raises exception 13 in the state the look at the map leaves. -/
theorem run_denied {i : Instr} {body : M Ending} {s : State} {port : Word} {n : Nat} (h : s.mayRun i = true)
    (hb : body s = .error (.exc (.gp 0)) (s.ioChecked port n)) : run i body s = takeException (.gp 0) (s.ioChecked port n) := by
  rw [run_raises h hb, ← State.ioChecked_cpu s port n]

/-- A fixed port is at most FFH, so no access to it runs past port FFFFH. -/
theorem fixedPort_last (port : Byte) (sz : Sz) : (port.setWidth 16 : Word).toNat + sz.bytes ≤ 0x10000 := by
  have hport : (port.setWidth 16 : Word).toNat < 0x100 := by
    rw [BitVec.toNat_setWidth]
    omega
  have hsz : sz.bytes ≤ 4 := by cases sz <;> decide
  omega

/-- Settles O7: whether the ports are permitted and whether they end by port FFFFH decide each form. -/
theorem inOutComplete : Obligations.InOutComplete := by
  unfold Obligations.InOutComplete
  intro w port s hmap
  dsimp only
  refine ⟨fun hperm => ⟨fun hready => ?_, fun hready => ?_⟩, fun hdenied => ⟨fun hruns => ?_, fun hruns => ?_⟩,
    fun hperm => ⟨fun hlast => ⟨fun hready => ?_, fun hready => ?_⟩, fun hlast => ⟨fun hruns => ?_, fun hruns => ?_⟩⟩,
    fun hdenied => ⟨fun hruns => ?_, fun hruns => ?_⟩⟩
  · exact run_next hready (inPort_ok hmap hperm (fixedPort_last port _))
  · exact run_next hready (outPort_ok hmap hperm (fixedPort_last port _))
  · exact run_denied hruns (inPort_denied hmap hdenied)
  · exact run_denied hruns (outPort_denied hmap hdenied)
  · exact run_next hready (inPort_ok hmap hperm hlast)
  · exact run_next hready (outPort_ok hmap hperm hlast)
  · exact run_refuses hruns (inPort_beyond hmap hperm hlast)
  · exact run_refuses hruns (outPort_beyond hmap hperm hlast)
  · exact run_denied hruns (inPort_denied hmap hdenied)
  · exact run_denied hruns (outPort_denied hmap hdenied)

end Sys2Proof.Machine

/-! PROOFS. LDS, LES, LFS, LGS and LSS (R300 to R305): the far pointer is read, and then the load of the segment register
decides. -/

namespace Sys2Proof.Machine

/-! ## The far pointer in memory (R300) -/

/-- The linear address of the selector of a far pointer: it lies above the offset. -/
def State.pointerSelectorAt (s : State) (m : Mem) : Dword := s.memLinear m (BitVec.ofNat 32 s.cpu.osz.bytes)

/-- The selector of a far pointer in memory. -/
def State.pointerSelector (s : State) (m : Mem) : Word := s.loadAt (s.pointerSelectorAt m) .w

/-- The offset of a far pointer in memory. -/
def State.pointerOffset (s : State) (m : Mem) : BitVec s.cpu.osz.bits := s.loadAt (s.memLinear m 0) s.cpu.osz

/-- The state after the program reads a far pointer: the offset, then the selector. -/
def State.pointerRead (s : State) (m : Mem) : State :=
  (s.noted (s.memLinear m 0) s.cpu.osz.bytes).noted (s.pointerSelectorAt m) 2

/-- Both parts of the far pointer can be read. -/
structure State.CanReadPointer (s : State) (m : Mem) : Prop where
  offset : s.memCan m 0 s.cpu.osz.bytes .read = true
  selector : s.memCan m (BitVec.ofNat 32 s.cpu.osz.bytes) 2 .read = true

/-- Where a far pointer can be read, paging is off. -/
theorem State.CanReadPointer.pg {s : State} {m : Mem} (h : s.CanReadPointer m) : s.cpu.cr0.pg = false := by
  have hoffset := h.offset
  simp only [State.memCan, State.canAccess, Bool.and_eq_true, Bool.not_eq_true'] at hoffset
  exact hoffset.1

/-- What an exception after the reads of a far pointer leaves: the registers put back, both reads on the bus. -/
theorem State.pointerRead_restored (s : State) (m : Mem) : { s.pointerRead m with cpu := s.cpu } =
    (s.sysLoaded (s.memLinear m 0) s.cpu.osz.bytes).sysLoaded (s.pointerSelectorAt m) 2 := rfl

/-! ## The loads (R300 to R305) -/

section LoadPointer

variable {r : SReg} {dst : Reg} {m : Mem} {s : State}

/-- The five instructions run one body in the usual shell (R301 to R305). -/
theorem exec_loadPointerInstr (hr : r ≠ .cs) (dst : Reg) (m : Mem) (s : State) :
    exec (loadPointerInstr r dst m) s = run (loadPointerInstr r dst m) (loadPointer r dst m) s := by
  cases r with
  | cs => exact absurd rfl hr
  | es | ss | ds | fs | gs => rfl

/-- With the far pointer read, the segment register is loaded, and the general register after it (R300). -/
theorem loadPointer_run (h : s.CanReadPointer m) : loadPointer r dst m s =
    (do loadSegment r (s.pointerSelector m)
        writeReg s.cpu.osz dst (s.pointerOffset m)
        pure .next : M Ending) (s.pointerRead m) := by
  have hselector : readMem .w m (BitVec.ofNat 32 s.cpu.osz.bytes) (s.noted (s.memLinear m 0) s.cpu.osz.bytes) =
      .ok (s.pointerSelector m) (s.pointerRead m) := readMem_ok h.selector
  rw [loadPointer, bind_ok (getCpu_run s), bind_ok (readMem_ok h.offset), bind_ok hselector]
  rfl

/-- A far pointer whose segment load answers: the offset goes into its register, with no inhibit for SS (R300, D17). -/
theorem exec_loadPointerInstr_of_load {t : State} (hr : r ≠ .cs) (hready : s.ready (loadPointerInstr r dst m) = true)
    (h : s.CanReadPointer m) (hload : loadSegment r (s.pointerSelector m) (s.pointerRead m) = .ok () t) :
    exec (loadPointerInstr r dst m) s = completes s (t.withReg s.cpu.osz dst (s.pointerOffset m)) := by
  rw [exec_loadPointerInstr hr]
  exact run_next hready (by rw [loadPointer_run h, bind_ok hload]; rfl)

/-- A far pointer whose segment load raises an exception: the general register is not written (R300). -/
theorem exec_loadPointerInstr_of_fault {t : State} {e : Exc} (hr : r ≠ .cs)
    (hready : s.ready (loadPointerInstr r dst m) = true) (h : s.CanReadPointer m)
    (hload : loadSegment r (s.pointerSelector m) (s.pointerRead m) = .error (.exc e) t) :
    exec (loadPointerInstr r dst m) s = takeException e { t with cpu := s.cpu } := by
  rw [exec_loadPointerInstr hr]
  exact run_raises (State.mayRun_of_ready hready) (by rw [loadPointer_run h, bind_error hload])

end LoadPointer

/-- Settles O8: the far pointer is read and its selector loaded by the rules of the mode, then its offset is written. -/
theorem loadPointerCompletes : Obligations.LoadPointerCompletes := by
  unfold Obligations.LoadPointerCompletes
  intro r dst m s hr hready
  dsimp only
  intro hoffset hselector hs
  have hread : s.CanReadPointer m := ⟨hoffset, hselector⟩
  refine ⟨fun hp => ?_, fun hp => ?_⟩
  · exact exec_loadPointerInstr_of_load hr hready hread (loadSegment_8086 hp hs)
  · exact loadsSegment_of_load rfl rfl (State.pointerRead_restored s m) hp hs hread.pg
      (fun _ _ _ hload => exec_loadPointerInstr_of_load hr hready hread hload)
      (fun _ _ hload => exec_loadPointerInstr_of_fault hr hready hread hload)

end Sys2Proof.Machine

/-! PROOFS. The flag control instructions (R311 to R322): the privilege checks as equations, then one body each. -/

namespace Sys2Proof.Machine

/-! ## The privilege checks (R244, R313, R317, R318) -/

/-- IOPL forbids CLI and STI: it lies below CPL, or in Virtual 8086 Mode it is not 3 (R244, R313). -/
def Cpu.ioplForbids (c : Cpu) : Bool := (c.prot && decide (c.flags.iopl < c.cpl)) || (c.v86 && c.flags.iopl != 3)

/-- The check of CLI and STI raises GP(0) exactly when IOPL forbids them, and changes nothing. -/
theorem requireIopl_run (s : State) :
    requireIopl s = if s.cpu.ioplForbids then .error (.exc (.gp 0)) s else .ok () s := by
  simp only [requireIopl, bind_run, getCpu_run, Cpu.ioplForbids]
  by_cases hlow : (s.cpu.prot && decide (s.cpu.flags.iopl < s.cpu.cpl)) = true
  · simp only [hlow, Bool.not_true, require_false, raiseExc_run, Bool.true_or, if_true]
  · rw [Bool.not_eq_true] at hlow
    simp only [hlow, Bool.not_false, require_true, pure_run, Bool.false_or]
    cases s.cpu.v86 && s.cpu.flags.iopl != 3 <;> rfl

/-- The check of PUSHF and POPF raises GP(0) exactly in Virtual 8086 Mode with IOPL below 3, and changes nothing. -/
theorem requireV86Iopl_run (s : State) :
    requireV86Iopl s = if s.cpu.v86 && s.cpu.flags.iopl != 3 then .error (.exc (.gp 0)) s else .ok () s := by
  simp only [requireV86Iopl, bind_run, getCpu_run, require_run]
  cases s.cpu.v86 && s.cpu.flags.iopl != 3 <;> rfl

theorem requireIopl_ok {s : State} (h : s.cpu.ioplForbids = false) : requireIopl s = .ok () s := by
  rw [requireIopl_run, h]
  rfl

theorem requireIopl_error {s : State} (h : s.cpu.ioplForbids = true) : requireIopl s = .error (.exc (.gp 0)) s := by
  rw [requireIopl_run, h]
  rfl

theorem requireV86Iopl_ok {s : State} (h : (s.cpu.v86 && s.cpu.flags.iopl != 3) = false) :
    requireV86Iopl s = .ok () s := by
  rw [requireV86Iopl_run, h]
  rfl

theorem requireV86Iopl_error {s : State} (h : (s.cpu.v86 && s.cpu.flags.iopl != 3) = true) :
    requireV86Iopl s = .error (.exc (.gp 0)) s := by
  rw [requireV86Iopl_run, h]
  rfl

/-- In each of the three modes, where IOPL allows CLI and STI it does not forbid them. -/
theorem Cpu.ioplForbids_eq_false {c : Cpu}
    (h : (c.real || (c.prot && decide (c.cpl ≤ c.flags.iopl)) || (c.v86 && c.flags.iopl == 3)) = true) :
    c.ioplForbids = false := by
  simp only [Cpu.ioplForbids, Cpu.real, Cpu.prot, Cpu.v86] at *
  cases hpe : c.cr0.pe with
  | false => rfl
  | true =>
    cases hvm : c.flags.vm with
    | false => simpa [hpe, hvm] using h
    | true => simpa [hpe, hvm] using h

/-! ## The bodies -/

@[simp] theorem flagOp_run (f : EFlags → EFlags) (s : State) :
    flagOp f s = .ok .next (s.withFlags (f s.cpu.flags)) := rfl

@[simp] theorem State.popped_flags (s : State) (sz : Sz) : (s.popped sz).cpu.flags = s.cpu.flags := rfl

/-- A truncation keeps the lowest bit and truncates what stands above it. -/
theorem setWidth_succ_append_bit {n : Nat} (x : BitVec n) (b : BitVec 1) (k : Nat) :
    (x ++ b).setWidth (k + 1) = x.setWidth k ++ b := by
  rw [BitVec.setWidth_append_of_eq rfl, BitVec.setWidth_eq]

/-- The low byte of FLAGS, which LAHF writes to AH (R316, D2). -/
theorem EFlags.image16_low (f : EFlags) : f.image16.setWidth 8 =
    bit f.sf ++ bit f.zf ++ 0#1 ++ bit f.af ++ 0#1 ++ bit f.pf ++ 1#1 ++ bit f.cf := by
  simp only [EFlags.image16, setWidth_succ_append_bit, BitVec.zero_width_append]
  rfl

/-- Settles O9: each opcode is the encoding of its instruction, and each body is one change of the flags, or of AH. -/
theorem flagOpsComplete : Obligations.FlagOpsComplete := by
  unfold Obligations.FlagOpsComplete
  intro c s
  refine ⟨⟨decodeEncode c .clc [] rfl, fun hready => ?_⟩, ⟨decodeEncode c .stc [] rfl, fun hready => ?_⟩,
    ⟨decodeEncode c .cmc [] rfl, fun hready => ?_⟩, ⟨decodeEncode c .cld [] rfl, fun hready => ?_⟩,
    ⟨decodeEncode c .std [] rfl, fun hready => ?_⟩, ⟨decodeEncode c .sahf [] rfl, fun hready => ?_⟩,
    ⟨decodeEncode c .lahf [] rfl, fun hready => ?_⟩⟩
  · exact run_next hready (flagOp_run _ s)
  · exact run_next hready (flagOp_run _ s)
  · exact run_next hready (flagOp_run _ s)
  · exact run_next hready (flagOp_run _ s)
  · exact run_next hready (flagOp_run _ s)
  · exact run_next hready (by rw [bind_ok (getCpu_run s), flagOp_run]; rfl)
  · rw [← EFlags.image16_low]
    exact run_next hready (by simp only [bind_run, getFlags_run, writeAh_run, pure_run])

/-- Settles O10: the check of IOPL decides, and after it the body is one change of the processor. -/
theorem cliStiComplete : Obligations.CliStiComplete := by
  unfold Obligations.CliStiComplete
  intro s
  refine ⟨fun hallows => ?_, fun hforbids => ⟨fun hruns => ?_, fun hruns => ?_⟩, fun hready => ?_⟩
  · have hcheck : requireIopl s = .ok () s := requireIopl_ok (Cpu.ioplForbids_eq_false hallows)
    refine ⟨fun hready => ?_, fun hready => ?_⟩
    · exact run_next hready (by rw [bind_ok hcheck, flagOp_run])
    · exact run_advances hready (by simp only [bind_run, hcheck, getFlags_run, modifyFlags_run, pure_run])
  · exact run_raises hruns (bind_error (requireIopl_error hforbids))
  · exact run_raises hruns (bind_error (requireIopl_error hforbids))
  · exact run_next hready (by simp only [bind_run, modifyCpu_run, pure_run])

/-- Settles O11: the check of IOPL in Virtual 8086 Mode decides, and after it the body is one push or pop. -/
theorem pushfPopfComplete : Obligations.PushfPopfComplete := by
  unfold Obligations.PushfPopfComplete
  intro s
  refine ⟨fun hallows => ⟨fun hready hroom => ?_, fun hready hroom => ?_⟩,
    fun hforbids => ⟨fun hruns => ?_, fun hruns => ?_⟩⟩
  · exact run_next hready
      (by simp only [bind_run, requireV86Iopl_ok hallows, getCpu_run, push_ok _ hroom, pure_run])
  · exact run_advances hready
      (by simp only [bind_run, requireV86Iopl_ok hallows, getCpu_run, pop_ok hroom, modifyFlags_run, State.popped_flags,
        pure_run])
  · exact run_raises hruns (bind_error (requireV86Iopl_error hforbids))
  · exact run_raises hruns (bind_error (requireV86Iopl_error hforbids))

end Sys2Proof.Machine

/-! PROOFS. The arithmetic instructions whose results the processor computes in one operation: ADD, ADC, SUB, SBB, CMP, TEST, INC,
DEC, NEG, NOT (R331 to R338, R392, R395). -/

namespace Sys2Proof.Machine

/-! ## Results and flags (R330) -/

/-- The result the model computes is the one the statements name. -/
theorem Alu.result_eq {n : Nat} (op : Alu) (f : EFlags) (a b : BitVec n) : op.result f a b = aluResult op f.cf a b := by
  cases op <;> rfl

/-- The flags the model computes are those the statements name. -/
theorem Alu.flags_eq {n : Nat} (op : Alu) (f : EFlags) (a b : BitVec n) : op.flags f a b = aluFlags op f a b := by
  cases op <;> rfl

/-- Without a carry in, the result is the sum. -/
theorem addResult_false {n : Nat} (a b : BitVec n) : addResult a b false = a + b := BitVec.add_zero (a + b)

/-- Without a borrow in, the result is the difference. -/
theorem subResult_false {n : Nat} (a b : BitVec n) : subResult a b false = a - b := BitVec.sub_zero (a - b)

/-! ## The bodies -/

theorem compareFlags_run {n : Nat} (a b : BitVec n) (s : State) :
    compareFlags a b s = .ok .next (s.withFlags (s.cpu.flags.sub a b false)) := rfl

theorem logicFlags_run {n : Nat} (r : BitVec n) (s : State) :
    logicFlags r s = .ok .next (s.drawn.withFlags (s.cpu.flags.logic r s.freeVal)) := rfl

/-- A destination read, then written with a function of its value, then the flags of that value (R260, R330). -/
theorem modifyDest_ok {s : State} {sz : Sz} {rm : RM} (h : s.canWrite sz rm = true) (result : BitVec sz.bits → BitVec sz.bits)
    (flags : BitVec sz.bits → EFlags → EFlags) :
    (do let a ← readDest sz rm
        writeRM sz rm (result a)
        modifyFlags (flags a)
        pure .next : M Ending) s =
      .ok .next (((s.rmRead sz rm).rmWritten sz rm (result (s.rmValue sz rm))).withFlags
        (flags (s.rmValue sz rm) s.cpu.flags)) := by
  simp only [bind_run, readDest_ok h, writeRM_rmRead_ok _ h, modifyFlags_run, State.rmWritten_flags, State.rmRead_flags, pure_run]

section Alu

variable (op : Alu) {w : Bool} {rm : RM} {s : State}

/-- The r/m operand is the destination: it is read, and written with the result. -/
theorem aluRmReg_toRm (reg : Reg) (h : s.canWrite (s.cpu.size w) rm = true) : aluRmReg op false w rm reg s = .ok .next
    (((s.rmRead (s.cpu.size w) rm).rmWritten (s.cpu.size w) rm
      (aluResult op s.cpu.flags.cf (s.rmValue (s.cpu.size w) rm) (s.reg (s.cpu.size w) reg))).withFlags
      (aluFlags op s.cpu.flags (s.rmValue (s.cpu.size w) rm) (s.reg (s.cpu.size w) reg))) := by
  simp only [aluRmReg, bind_run, opSize_run, getFlags_run, Bool.false_eq_true, if_false, readDest_ok h, readReg_run,
    State.rmRead_reg, writeRM_rmRead_ok _ h, modifyFlags_run, State.rmWritten_flags, State.rmRead_flags, Alu.result_eq,
    Alu.flags_eq, pure_run]

/-- The register is the destination: the r/m operand is only read. -/
theorem aluRmReg_toReg (reg : Reg) (h : s.canRead (s.cpu.size w) rm = true) : aluRmReg op true w rm reg s = .ok .next
    (((s.rmRead (s.cpu.size w) rm).withReg (s.cpu.size w) reg
      (aluResult op s.cpu.flags.cf (s.reg (s.cpu.size w) reg) (s.rmValue (s.cpu.size w) rm))).withFlags
      (aluFlags op s.cpu.flags (s.reg (s.cpu.size w) reg) (s.rmValue (s.cpu.size w) rm))) := by
  simp only [aluRmReg, bind_run, opSize_run, getFlags_run, if_true, readRM_ok h, readReg_run, State.rmRead_reg, writeReg_run,
    modifyFlags_run, State.withReg_flags, State.rmRead_flags, Alu.result_eq, Alu.flags_eq, pure_run]

/-- With an immediate the destination alone is read. -/
theorem aluRmImm_ok (imm : Imm) (h : s.canWrite (s.cpu.size w) rm = true) : aluRmImm op w rm imm s = .ok .next
    (((s.rmRead (s.cpu.size w) rm).rmWritten (s.cpu.size w) rm
      (aluResult op s.cpu.flags.cf (s.rmValue (s.cpu.size w) rm) (immValue (s.cpu.size w) imm))).withFlags
      (aluFlags op s.cpu.flags (s.rmValue (s.cpu.size w) rm) (immValue (s.cpu.size w) imm))) := by
  rw [aluRmImm, bind_ok (opSize_run w s), bind_ok (getFlags_run s), modifyDest_ok h _ (fun a f => op.flags f a _),
    Alu.result_eq, Alu.flags_eq]

/-- The accumulator and an immediate. -/
theorem aluAccImm_run (imm : Imm) : aluAccImm op w imm s = .ok .next
    ((s.withReg (s.cpu.size w) .eax
      (aluResult op s.cpu.flags.cf (s.reg (s.cpu.size w) .eax) (immValue (s.cpu.size w) imm))).withFlags
      (aluFlags op s.cpu.flags (s.reg (s.cpu.size w) .eax) (immValue (s.cpu.size w) imm))) := by
  simp only [aluAccImm, bind_run, opSize_run, getFlags_run, readReg_run, writeReg_run, modifyFlags_run, State.withReg_flags,
    Alu.result_eq, Alu.flags_eq, pure_run]

end Alu

/-! ## The shell around them -/

theorem exec_aluRmRegInstr (op : Alu) (d w : Bool) (rm : RM) (reg : Reg) (s : State) :
    exec (aluRmRegInstr op d w rm reg) s = run (aluRmRegInstr op d w rm reg) (aluRmReg op d w rm reg) s := by
  cases op <;> rfl

theorem exec_aluRmImmInstr (op : Alu) (sx w : Bool) (rm : RM) (imm : Imm) (s : State) :
    exec (aluRmImmInstr op sx w rm imm) s = run (aluRmImmInstr op sx w rm imm) (aluRmImm op w rm imm) s := by
  cases op <;> rfl

theorem exec_aluAccImmInstr (op : Alu) (w : Bool) (imm : Imm) (s : State) :
    exec (aluAccImmInstr op w imm) s = run (aluAccImmInstr op w imm) (aluAccImm op w imm) s := by
  cases op <;> rfl

/-- Settles O12: the four operations share one body for each form, and the body is that of its operands. -/
theorem aluCompletes : Obligations.AluCompletes := by
  unfold Obligations.AluCompletes
  intro op sx w rm reg imm s
  rw [exec_aluRmRegInstr, exec_aluRmRegInstr, exec_aluRmImmInstr, exec_aluAccImmInstr]
  exact ⟨fun hready hdst => run_next hready (aluRmReg_toRm op reg hdst),
    fun hready hsrc => run_next hready (aluRmReg_toReg op reg hsrc),
    fun hready hdst => run_next hready (aluRmImm_ok op imm hdst),
    fun hready => run_next hready (aluAccImm_run op imm)⟩

/-- Settles O13: each body reads its operands and ends in a change of the flags. -/
theorem compareAndTestComplete : Obligations.CompareAndTestComplete := by
  unfold Obligations.CompareAndTestComplete
  intro d sx w rm reg imm s
  refine ⟨fun hready hsrc => ?_, fun hready hsrc => ?_, fun hready => ?_, fun hready hsrc => ?_, fun hready hsrc => ?_,
    fun hready => ?_⟩
  · refine run_next hready ?_
    simp only [bind_run, opSize_run, readRM_ok hsrc, readReg_run, State.rmRead_reg, compareFlags_run, State.rmRead_flags]
    cases d <;> rfl
  · exact run_next hready (by simp only [bind_run, opSize_run, readRM_ok hsrc, compareFlags_run, State.rmRead_flags])
  · exact run_next hready (by simp only [bind_run, opSize_run, readReg_run, compareFlags_run])
  · exact run_next hready
      (by simp only [bind_run, opSize_run, readRM_ok hsrc, readReg_run, State.rmRead_reg, logicFlags_run, State.rmRead_flags,
        State.rmRead_freeVal])
  · exact run_next hready
      (by simp only [bind_run, opSize_run, readRM_ok hsrc, logicFlags_run, State.rmRead_flags, State.rmRead_freeVal])
  · exact run_next hready (by simp only [bind_run, opSize_run, readReg_run, logicFlags_run])

/-- Settles O14: 1 is added or subtracted without a carry in, the operand is subtracted from 0, or its bits are inverted. -/
theorem unaryCompletes : Obligations.UnaryCompletes := by
  unfold Obligations.UnaryCompletes
  intro w rm reg s
  simp only [← addResult_false, ← subResult_false, ← BitVec.zero_sub]
  refine ⟨fun hdst => ⟨fun hready => ?_, fun hready => ?_, fun hready => ?_, fun hready => ?_⟩, fun hready => ?_,
    fun hready => ?_⟩
  · exact run_next hready ((bind_ok (opSize_run w s)).trans
      (modifyDest_ok hdst _ fun a f => { f.add a 1 false with cf := f.cf }))
  · exact run_next hready ((bind_ok (opSize_run w s)).trans
      (modifyDest_ok hdst _ fun a f => { f.sub a 1 false with cf := f.cf }))
  · exact run_next hready ((bind_ok (opSize_run w s)).trans (modifyDest_ok hdst _ fun a f => f.sub 0 a false))
  · exact run_next hready (by simp only [bind_run, opSize_run, readDest_ok hdst, writeRM_rmRead_ok _ hdst, pure_run])
  · exact run_next hready rfl
  · exact run_next hready rfl

end Sys2Proof.Machine

/-! PROOFS. AAA, AAS, DAA, DAS, AAD, AAM, CBW and CWD (R339 to R342, R366 to R369). -/

namespace Sys2Proof.Machine

/-- The low digit of AL is above 9, or AF is set (R339 to R342). -/
theorem asciiAdjusts_eq (f : EFlags) (al : Byte) : asciiAdjusts f al = (decide (9 < al.toNat % 16) || f.af) := by
  have hdigit : (al &&& 0x0F).toNat = al.toNat % 16 := by
    rw [BitVec.toNat_and]
    exact Nat.and_two_pow_sub_one_eq_mod al.toNat 4
  simp only [asciiAdjusts, BitVec.lt_def, hdigit]
  rfl

/-- Settles O15: each body writes its registers and then the flags, the comparisons of bytes being those of the numbers. -/
theorem adjustCompletes : Obligations.AdjustCompletes := by
  unfold Obligations.AdjustCompletes
  intro s
  dsimp only
  simp only [← asciiAdjusts_eq]
  refine ⟨fun hready => ?_, fun hready => ?_, fun hready => ?_, fun hready => ?_, fun hready => ?_, fun hready => ?_,
    fun hready => ?_, fun hready => ?_⟩
  · exact run_next hready rfl
  · exact run_next hready rfl
  · exact run_next hready rfl
  · exact run_next hready rfl
  · exact run_next hready rfl
  · exact run_next hready rfl
  · refine run_next hready ?_
    rw [bind_ok (getCpu_run s), Cpu.osz]
    cases s.cpu.os32 <;> rfl
  · exact run_next hready rfl

end Sys2Proof.Machine

/-! PROOFS. MUL, IMUL, DIV and IDIV (R343 to R348, R623): what the model computes in exact integers, in the words of the
statements, and the two requirements of a division. -/

namespace Sys2Proof.Machine

/-! ## Products (R343 to R346) -/

theorem afterMul_run (wide : Bool) (s : State) : afterMul wide s =
    .ok .next (s.drawn.withFlags ((s.cpu.flags.setMul wide).freeSzap s.freeVal)) := rfl

theorem signedProduct_run {sz : Sz} (dst : Reg) (a b : BitVec sz.bits) (s : State) : signedProduct dst a b s =
    .ok .next ((s.withReg sz dst (a * b)).drawn.withFlags
      ((s.cpu.flags.setMul ((a * b).toInt != a.toInt * b.toInt)).freeSzap s.freeVal)) := rfl

/-- The low half of the unsigned product. -/
theorem ofNat_toNat_mul {n : Nat} (a b : BitVec n) : BitVec.ofNat n (a.toNat * b.toNat) = a * b := by
  rw [BitVec.ofNat_mul, BitVec.ofNat_toNat, BitVec.ofNat_toNat, BitVec.setWidth_eq, BitVec.setWidth_eq]

/-- The low half of the signed product is that of the unsigned one. -/
theorem ofInt_toInt_mul {n : Nat} (a b : BitVec n) : BitVec.ofInt n (a.toInt * b.toInt) = a * b := by
  rw [BitVec.ofInt_mul, BitVec.ofInt_toInt, BitVec.ofInt_toInt]

/-- The high half of the unsigned product is 0 exactly when the low half holds it. -/
theorem highProduct_ne_zero {n : Nat} (a b : BitVec n) :
    (BitVec.ofNat n (a.toNat * b.toNat / 2 ^ n) != 0) = decide (2 ^ n ≤ a.toNat * b.toNat) := by
  have hproduct : a.toNat * b.toNat < 2 ^ n * 2 ^ n := Nat.mul_lt_mul'' a.isLt b.isLt
  have hhigh : (BitVec.ofNat n (a.toNat * b.toNat / 2 ^ n)).toNat = a.toNat * b.toNat / 2 ^ n := by
    rw [BitVec.toNat_ofNat, Nat.mod_eq_of_lt (Nat.div_lt_of_lt_mul hproduct)]
  rw [Bool.eq_iff_iff, bne_iff_ne, decide_eq_true_iff, ne_eq, ← BitVec.toNat_inj, hhigh, BitVec.ofNat_eq_ofNat,
    BitVec.toNat_ofNat, Nat.zero_mod, Nat.div_eq_zero_iff_lt (Nat.two_pow_pos n), Nat.not_lt]

/-- Settles O16: the model narrows the exact product; the flags say whether that lost anything. -/
theorem multiplyCompletes : Obligations.MultiplyCompletes := by
  unfold Obligations.MultiplyCompletes
  intro w sx rm dst imm s
  dsimp only
  refine ⟨fun hsrc => ⟨fun hready => ?_, fun hready => ?_⟩, fun hsrc => ⟨fun hready => ?_, fun hready => ?_⟩⟩
  · exact run_next hready
      (by simp only [bind_run, opSize_run, readReg_run, readRM_ok hsrc, writeReg_run, afterMul_run, ofNat_toNat_mul,
        highProduct_ne_zero, State.withReg_flags, State.withReg_freeVal, State.rmRead_flags, State.rmRead_freeVal])
  · exact run_next hready
      (by simp only [bind_run, opSize_run, readReg_run, readRM_ok hsrc, writeReg_run, afterMul_run, ofInt_toInt_mul,
        State.withReg_flags, State.withReg_freeVal, State.rmRead_flags, State.rmRead_freeVal])
  · exact run_next hready
      (by simp only [bind_run, getCpu_run, readReg_run, readRM_ok hsrc, signedProduct_run, State.rmRead_flags,
        State.rmRead_freeVal])
  · exact run_next hready
      (by simp only [bind_run, getCpu_run, readRM_ok hsrc, signedProduct_run, State.rmRead_flags, State.rmRead_freeVal])

/-! ## Divisions (R347, R348) -/

/-- The double-length dividend in signed integers: the sign is that of its high half (R348). -/
theorem dividend_toInt (s : State) (sz : Sz) :
    (dividend s sz).toInt = (s.reg sz (highReg sz)).toInt * 2 ^ sz.bits + (s.reg sz .eax).toNat := by
  have hbits : ¬ (sz.bits == 0) = true := by cases sz <;> decide
  rw [dividend, BitVec.toInt_append, if_neg hbits, Int.mul_comm]

/-- The quotient goes into the low half of the dividend, the remainder into the high half, and the status flags are free. -/
def storeDivision (sz : Sz) (quotient remainder : BitVec sz.bits) : M Ending := do
  writeReg sz .eax quotient
  writeReg sz (highReg sz) remainder
  let j ← draw
  modifyFlags fun f => f.freeAll j
  pure .next

theorem storeDivision_rmRead (s : State) (sz : Sz) (rm : RM) (quotient remainder : BitVec sz.bits) :
    storeDivision sz quotient remainder (s.rmRead sz rm) = .ok .next
      (((((s.rmRead sz rm).withReg sz .eax quotient).withReg sz (highReg sz) remainder).drawn).withFlags
        (s.cpu.flags.freeAll s.freeVal)) := by
  simp only [storeDivision, bind_run, writeReg_run, draw_run, modifyFlags_run, pure_run, State.withReg_freeVal,
    State.drawn_cpu, State.withReg_flags, State.rmRead_flags, State.rmRead_freeVal]

/-- The two requirements of a division, on its divisor and on its quotient, and what follows them. -/
def divideIf (divisor quotient : Bool) (store : M Ending) : M Ending := do
  require divisor .de
  require quotient .de
  store

theorem divideIf_run (divisor quotient : Bool) (store : M Ending) (s : State) :
    divideIf divisor quotient store s = if divisor && quotient then store s else .error (.exc .de) s := by
  cases divisor <;> cases quotient <;> rfl

/-- The quotient of DIV exists and fits (R347). -/
def divFits {sz : Sz} (n : BitVec (sz.bits + sz.bits)) (d : BitVec sz.bits) : Bool :=
  d != 0 && decide (n.toNat / d.toNat < 2 ^ sz.bits)

/-- The quotient of IDIV exists and fits (R348). -/
def idivFits {sz : Sz} (n : BitVec (sz.bits + sz.bits)) (d : BitVec sz.bits) : Bool :=
  d != 0 && (decide (-(2 ^ (sz.bits - 1)) ≤ n.toInt.tdiv d.toInt) && decide (n.toInt.tdiv d.toInt < 2 ^ (sz.bits - 1)))

theorem divFits_eq_true {sz : Sz} {n : BitVec (sz.bits + sz.bits)} {d : BitVec sz.bits} (hd : d ≠ 0)
    (hfits : n.toNat / d.toNat < 2 ^ sz.bits) : divFits n d = true := by
  rw [divFits, bne_iff_ne.mpr hd, decide_eq_true hfits, Bool.and_self]

theorem divFits_eq_false {sz : Sz} {n : BitVec (sz.bits + sz.bits)} {d : BitVec sz.bits}
    (h : d = 0 ∨ 2 ^ sz.bits ≤ n.toNat / d.toNat) : divFits n d = false := by
  obtain hzero | hwide := h
  · rw [divFits, bne_eq_false_iff_eq.mpr hzero, Bool.false_and]
  · rw [divFits, decide_eq_false (Nat.not_lt.mpr hwide), Bool.and_false]

theorem idivFits_eq_true {sz : Sz} {n : BitVec (sz.bits + sz.bits)} {d : BitVec sz.bits} (hd : d ≠ 0)
    (hlow : -(2 ^ (sz.bits - 1)) ≤ n.toInt.tdiv d.toInt) (hhigh : n.toInt.tdiv d.toInt < - -(2 ^ (sz.bits - 1))) :
    idivFits n d = true := by
  rw [Int.neg_neg] at hhigh
  rw [idivFits, bne_iff_ne.mpr hd, decide_eq_true hlow, decide_eq_true hhigh, Bool.and_self, Bool.and_self]

theorem idivFits_eq_false {sz : Sz} {n : BitVec (sz.bits + sz.bits)} {d : BitVec sz.bits}
    (h : d = 0 ∨ n.toInt.tdiv d.toInt < -(2 ^ (sz.bits - 1)) ∨ - -(2 ^ (sz.bits - 1)) ≤ n.toInt.tdiv d.toInt) :
    idivFits n d = false := by
  rw [Int.neg_neg] at h
  obtain hzero | hlow | hhigh := h
  · rw [idivFits, bne_eq_false_iff_eq.mpr hzero, Bool.false_and]
  · rw [idivFits, decide_eq_false (Int.not_le.mpr hlow), Bool.false_and, Bool.and_false]
  · rw [idivFits, decide_eq_false (Int.not_lt.mpr hhigh), Bool.and_false, Bool.and_false]

section Divide

variable (w : Bool) (rm : RM)

/-- DIV reads its operand and divides when the quotient fits (R347). -/
theorem exec_divAcc : ∃ body : M Ending, (∀ s, exec (.divAcc w rm) s = run (.divAcc w rm) body s) ∧
    ∀ s : State, s.canRead (s.cpu.size w) rm = true → body s =
      if divFits (dividend s (s.cpu.size w)) (s.rmValue (s.cpu.size w) rm) then
        storeDivision (s.cpu.size w)
          (BitVec.ofNat _ ((dividend s (s.cpu.size w)).toNat / (s.rmValue (s.cpu.size w) rm).toNat))
          (BitVec.ofNat _ ((dividend s (s.cpu.size w)).toNat % (s.rmValue (s.cpu.size w) rm).toNat))
          (s.rmRead (s.cpu.size w) rm)
      else .error (.exc .de) (s.rmRead (s.cpu.size w) rm) := by
  refine ⟨_, fun _ => rfl, fun s hsrc => ?_⟩
  rw [bind_ok (opSize_run w s), bind_ok (readRM_ok hsrc), bind_ok (readReg_run _ _ _), bind_ok (readReg_run _ _ _),
    State.rmRead_reg, State.rmRead_reg, ← dividend_toNat]
  exact divideIf_run _ _ (storeDivision _ _ _) _

/-- IDIV reads its operand and divides when the quotient fits (R348). -/
theorem exec_idivAcc : ∃ body : M Ending, (∀ s, exec (.idivAcc w rm) s = run (.idivAcc w rm) body s) ∧
    ∀ s : State, s.canRead (s.cpu.size w) rm = true → body s =
      if idivFits (dividend s (s.cpu.size w)) (s.rmValue (s.cpu.size w) rm) then
        storeDivision (s.cpu.size w)
          (BitVec.ofInt _ ((dividend s (s.cpu.size w)).toInt.tdiv (s.rmValue (s.cpu.size w) rm).toInt))
          (BitVec.ofInt _ ((dividend s (s.cpu.size w)).toInt.tmod (s.rmValue (s.cpu.size w) rm).toInt))
          (s.rmRead (s.cpu.size w) rm)
      else .error (.exc .de) (s.rmRead (s.cpu.size w) rm) := by
  refine ⟨_, fun _ => rfl, fun s hsrc => ?_⟩
  rw [bind_ok (opSize_run w s), bind_ok (readRM_ok hsrc), bind_ok (readReg_run _ _ _), bind_ok (readReg_run _ _ _),
    State.rmRead_reg, State.rmRead_reg, ← dividend_toInt]
  exact divideIf_run _ _ (storeDivision _ _ _) _

end Divide

/-- Settles O17: whether the quotient exists and fits decides; an exception leaves of the reads what is on the bus. -/
theorem divideCompletes : Obligations.DivideCompletes := by
  unfold Obligations.DivideCompletes
  intro w rm s
  dsimp only
  intro hsrc
  obtain ⟨divBody, hdivExec, hdiv⟩ := exec_divAcc w rm
  obtain ⟨idivBody, hidivExec, hidiv⟩ := exec_idivAcc w rm
  rw [hdivExec, hidivExec]
  refine ⟨fun hd hfits hready => ?_, fun hd hlow hhigh hready => ?_, fun hfault hruns => ?_, fun hfault hruns => ?_⟩
  · exact run_next hready (by rw [hdiv s hsrc, if_pos (divFits_eq_true hd hfits), storeDivision_rmRead])
  · exact run_next hready (by rw [hidiv s hsrc, if_pos (idivFits_eq_true hd hlow hhigh), storeDivision_rmRead])
  · rw [run_raises hruns ((hdiv s hsrc).trans (by rw [divFits_eq_false hfault]; rfl)), State.rmRead_restored]
  · rw [run_raises hruns ((hidiv s hsrc).trans (by rw [idivFits_eq_false hfault]; rfl)), State.rmRead_restored]

end Sys2Proof.Machine

/-! PROOFS. AND, OR and XOR, and the bodies of the shifts, the rotates, SHLD and SHRD for every count (R380 to R391, R393, R394). -/

namespace Sys2Proof.Machine

/-! ## AND, OR and XOR (R390, R391, R393, R394) -/

/-- The result the model computes is the one the statement names. -/
theorem Logic.result_eq {n : Nat} (op : Logic) (a b : BitVec n) : op.result a b = logicResult op a b := by
  cases op <;> rfl

section Logic

variable (op : Logic) {w : Bool} {rm : RM} {s : State}

/-- The r/m operand is the destination: it is read, and written with the result. -/
theorem logicRmReg_toRm (reg : Reg) (h : s.canWrite (s.cpu.size w) rm = true) : logicRmReg op false w rm reg s = .ok .next
    ((((s.rmRead (s.cpu.size w) rm).rmWritten (s.cpu.size w) rm
      (logicResult op (s.rmValue (s.cpu.size w) rm) (s.reg (s.cpu.size w) reg))).drawn).withFlags
      (s.cpu.flags.logic (logicResult op (s.rmValue (s.cpu.size w) rm) (s.reg (s.cpu.size w) reg)) s.freeVal)) := by
  simp only [logicRmReg, bind_run, opSize_run, Bool.false_eq_true, if_false, readDest_ok h, readReg_run, State.rmRead_reg,
    writeRM_rmRead_ok _ h, logicFlags_run, State.rmWritten_flags, State.rmRead_flags, State.rmWritten_freeVal,
    State.rmRead_freeVal, Logic.result_eq]

/-- The register is the destination: the r/m operand is only read. -/
theorem logicRmReg_toReg (reg : Reg) (h : s.canRead (s.cpu.size w) rm = true) : logicRmReg op true w rm reg s = .ok .next
    ((((s.rmRead (s.cpu.size w) rm).withReg (s.cpu.size w) reg
      (logicResult op (s.reg (s.cpu.size w) reg) (s.rmValue (s.cpu.size w) rm))).drawn).withFlags
      (s.cpu.flags.logic (logicResult op (s.reg (s.cpu.size w) reg) (s.rmValue (s.cpu.size w) rm)) s.freeVal)) := by
  simp only [logicRmReg, bind_run, opSize_run, if_true, readRM_ok h, readReg_run, State.rmRead_reg, writeReg_run,
    logicFlags_run, State.withReg_flags, State.rmRead_flags, State.withReg_freeVal, State.rmRead_freeVal, Logic.result_eq]

/-- With an immediate the destination alone is read. -/
theorem logicRmImm_ok (imm : Imm) (h : s.canWrite (s.cpu.size w) rm = true) : logicRmImm op w rm imm s = .ok .next
    ((((s.rmRead (s.cpu.size w) rm).rmWritten (s.cpu.size w) rm
      (logicResult op (s.rmValue (s.cpu.size w) rm) (immValue (s.cpu.size w) imm))).drawn).withFlags
      (s.cpu.flags.logic (logicResult op (s.rmValue (s.cpu.size w) rm) (immValue (s.cpu.size w) imm)) s.freeVal)) := by
  simp only [logicRmImm, bind_run, opSize_run, readDest_ok h, writeRM_rmRead_ok _ h, logicFlags_run, State.rmWritten_flags,
    State.rmRead_flags, State.rmWritten_freeVal, State.rmRead_freeVal, Logic.result_eq]

end Logic

theorem exec_logicRmRegInstr (op : Logic) (d w : Bool) (rm : RM) (reg : Reg) (s : State) :
    exec (logicRmRegInstr op d w rm reg) s = run (logicRmRegInstr op d w rm reg) (logicRmReg op d w rm reg) s := by
  cases op <;> rfl

theorem exec_logicRmImmInstr (op : Logic) (w : Bool) (rm : RM) (imm : Imm) (s : State) :
    exec (logicRmImmInstr op w rm imm) s = run (logicRmImmInstr op w rm imm) (logicRmImm op w rm imm) s := by
  cases op <;> rfl

/-- A sign-extended byte is an immediate of the operand size (R390). -/
theorem exec_logicRmImm8Instr (op : Logic) (rm : RM) (b : Byte) (s : State) :
    exec (logicRmImm8Instr op rm b) s = run (logicRmImm8Instr op rm b) (logicRmImm op true rm (.i8 b)) s := by
  cases op <;> rfl

/-- The accumulator and an immediate (R390). -/
theorem logicAccImmInstr_completes {op : Logic} {w : Bool} {imm : Imm} {s : State}
    (h : s.ready (logicAccImmInstr op w imm) = true) :
    exec (logicAccImmInstr op w imm) s = completes s
      (((s.withReg (s.cpu.size w) .eax (logicResult op (s.reg (s.cpu.size w) .eax) (immValue (s.cpu.size w) imm))).drawn).withFlags
        (s.cpu.flags.logic (logicResult op (s.reg (s.cpu.size w) .eax) (immValue (s.cpu.size w) imm)) s.freeVal)) := by
  cases op <;> exact run_next h rfl

/-- Settles O21: the three operations share one body for each form with an r/m operand, and the sign-extended byte is a form
of the immediate. -/
theorem logicCompletes : Obligations.LogicCompletes := by
  unfold Obligations.LogicCompletes
  intro op w rm reg imm b s
  rw [exec_logicRmRegInstr, exec_logicRmRegInstr, exec_logicRmImmInstr, exec_logicRmImm8Instr]
  exact ⟨fun hready hdst => run_next hready (logicRmReg_toRm op reg hdst),
    fun hready hsrc => run_next hready (logicRmReg_toReg op reg hsrc),
    fun hready hdst => run_next hready (logicRmImm_ok op imm hdst),
    fun hready hdst => run_next hready (logicRmImm_ok op (.i8 b) hdst),
    logicAccImmInstr_completes⟩

/-! ## Shifts and rotates: the shell (R380) -/

/-- A shift or rotate in one of its three forms. -/
def shiftForm (op : Shift) (k : CountForm) (w : Bool) (rm : RM) : M Ending :=
  match k with
  | .one => shiftRm op w rm 1
  | .cl => do
    let c ← getCpu
    shiftRm op w rm (c.gpr.read .b .ecx)
  | .imm n => shiftRm op w rm n

/-- The forms differ in their count alone. -/
theorem shiftForm_run (op : Shift) (k : CountForm) (w : Bool) (rm : RM) (s : State) :
    shiftForm op k w rm s = shiftRm op w rm (k.count s) s := by
  cases k <;> rfl

theorem exec_shiftInstr (op : Shift) (k : CountForm) (w : Bool) (rm : RM) (s : State) :
    exec (shiftInstr op k w rm) s = run (shiftInstr op k w rm) (shiftForm op k w rm) s := by
  cases op <;> cases k <;> rfl

/-- Settles O18: each form is the one body with its own count. -/
theorem shiftCompletes : Obligations.ShiftCompletes := by
  unfold Obligations.ShiftCompletes
  intro op k w rm s sz x n hready hdst
  rw [exec_shiftInstr]
  exact run_next hready ((shiftForm_run op k w rm s).trans (shiftRm_ok op w rm (k.count s) hdst))

/-! ## SHLD and SHRD (R388, R389, U16) -/

/-- A double shift by an immediate count, or by CL. -/
def doubleForm (left : Bool) (k : Option Byte) (rm : RM) (reg : Reg) : M Ending :=
  match k with
  | none => do
    let c ← getCpu
    doubleShift left rm reg (c.gpr.read .b .ecx)
  | some n => doubleShift left rm reg n

/-- The two forms differ in their count alone. -/
theorem doubleForm_run (left : Bool) (k : Option Byte) (rm : RM) (reg : Reg) (s : State) :
    doubleForm left k rm reg s = doubleShift left rm reg (k.getD (s.reg .b .ecx)) s := by
  cases k <;> rfl

theorem exec_doubleShiftInstr (left : Bool) (k : Option Byte) (rm : RM) (reg : Reg) (s : State) :
    exec (doubleShiftInstr left k rm reg) s = run (doubleShiftInstr left k rm reg) (doubleForm left k rm reg) s := by
  cases left <;> cases k <;> rfl

/-- A draw leaves what may be written. -/
theorem State.drawn_canWrite (s : State) (sz : Sz) (rm : RM) : s.drawn.canWrite sz rm = s.canWrite sz rm := by
  cases rm <;> rfl

/-- Reading an operand leaves what the second draw takes. -/
theorem State.rmRead_drawn_freeVal (s : State) (sz : Sz) (rm : RM) : (s.rmRead sz rm).drawn.freeVal = s.drawn.freeVal := by
  cases rm <;> rfl

/-- A double shift by the count modulo 32 (R388, R389, U16). -/
theorem doubleShift_ok {s : State} (left : Bool) {rm : RM} (reg : Reg) (b : Byte) (h : s.canWrite s.cpu.osz rm = true) :
    doubleShift left rm reg b s = .ok .next
      (let x := s.rmValue s.cpu.osz rm
       let r := doubleResult left x (s.reg s.cpu.osz reg) (b.toNat % 32)
       if b.toNat % 32 = 0 then s.rmRead s.cpu.osz rm
       else if b.toNat % 32 ≤ s.cpu.osz.bits then
         (((s.rmRead s.cpu.osz rm).drawn).rmWritten s.cpu.osz rm r).withFlags
           (doubleFlags left s.cpu.flags x r (b.toNat % 32) s.freeVal)
       else
         ((((s.rmRead s.cpu.osz rm).drawn).drawn).rmWritten s.cpu.osz rm (s.drawn.freeVal.setWidth s.cpu.osz.bits)).withFlags
           (s.cpu.flags.freeAll s.freeVal)) := by
  have hsize : opSize true s = .ok s.cpu.osz s := rfl
  rw [doubleShift, bind_ok hsize, bind_ok (readDest_ok h), bind_ok (readReg_run _ _ _)]
  simp only [maskCount_eq, State.rmRead_reg]
  split
  case isTrue hzero => rfl
  case isFalse hpos =>
    rw [bind_ok (draw_run _)]
    split
    case isTrue hwithin =>
      rw [bind_ok (writeRM_ok _ (by rw [State.drawn_canWrite, State.canWrite_rmRead, h])), bind_ok (modifyFlags_run _ _),
        State.rmRead_freeVal, State.rmWritten_flags, State.drawn_cpu, State.rmRead_flags, pure_run]
    case isFalse hbeyond =>
      rw [bind_ok (draw_run _),
        bind_ok (writeRM_ok _ (by rw [State.drawn_canWrite, State.drawn_canWrite, State.canWrite_rmRead, h])),
        bind_ok (modifyFlags_run _ _), State.rmRead_freeVal, State.rmRead_drawn_freeVal, State.rmWritten_flags,
        State.drawn_cpu, State.drawn_cpu, State.rmRead_flags, pure_run]

/-- Settles O20: the two forms are the one body with their own counts. -/
theorem doubleShiftCompletes : Obligations.DoubleShiftCompletes := by
  unfold Obligations.DoubleShiftCompletes
  intro left k rm reg s sz x y n r hready hdst
  rw [exec_doubleShiftInstr]
  exact run_next hready ((doubleForm_run left k rm reg s).trans (doubleShift_ok left reg _ hdst))

end Sys2Proof.Machine

/-! PROOFS. What the shifts and rotates compute (R380 to R387): a rotation moves the bit at each place to the place `c` further
round, RCL and RCR rotate CF and the operand as one value, and each flag has its value from one clause of the model. -/

namespace Sys2Proof.Machine

/-! ## Rotations bit by bit -/

/-- A place that moves past the end comes round once. -/
theorem add_mod_of_round {w i r : Nat} (hi : i < w) (hr : r < w) (hround : w ≤ i + r) : (i + r) % w = i + r - w := by
  rw [Nat.mod_eq_sub_mod hround, Nat.mod_eq_of_lt (by omega)]

/-- Rotated left by `c`, the bit at `i` is at `i + c`, counted round. -/
theorem getLsbD_rotateLeft_add_mod {w : Nat} (x : BitVec w) (c : Nat) {i : Nat} (hi : i < w) :
    (x.rotateLeft c).getLsbD ((i + c) % w) = x.getLsbD i := by
  have hc : c % w < w := Nat.mod_lt c (by omega)
  rw [BitVec.getLsbD_rotateLeft, ← Nat.add_mod_mod]
  rcases Nat.lt_or_ge (i + c % w) w with hlow | hround
  · rw [Nat.mod_eq_of_lt hlow, decide_eq_false (by omega), decide_eq_true hlow, cond_false, Bool.true_and, Nat.add_sub_cancel]
  · rw [add_mod_of_round hi hc hround, decide_eq_true (by omega), cond_true]
    congr 1
    omega

/-- Rotated right by `c`, the bit at `i` comes from `i + c`, counted round. -/
theorem getLsbD_rotateRight_eq {w : Nat} (x : BitVec w) (c : Nat) {i : Nat} (hi : i < w) :
    (x.rotateRight c).getLsbD i = x.getLsbD ((i + c) % w) := by
  have hc : c % w < w := Nat.mod_lt c (by omega)
  rw [BitVec.getLsbD_rotateRight, ← Nat.add_mod_mod]
  rcases Nat.lt_or_ge (i + c % w) w with hlow | hround
  · rw [Nat.mod_eq_of_lt hlow, decide_eq_true (by omega), cond_true, Nat.add_comm]
  · rw [add_mod_of_round hi hc hround, decide_eq_false (by omega), decide_eq_true hi, cond_false,
      Bool.true_and]
    congr 1
    omega

/-- Rotated left by nothing. -/
theorem rotateLeft_zero {w : Nat} (x : BitVec w) : x.rotateLeft 0 = x :=
  BitVec.eq_of_getLsbD_eq fun i hi => by simpa [Nat.mod_eq_of_lt hi] using getLsbD_rotateLeft_add_mod x 0 hi

/-- Rotated right by nothing. -/
theorem rotateRight_zero {w : Nat} (x : BitVec w) : x.rotateRight 0 = x :=
  BitVec.eq_of_getLsbD_eq fun i hi => by simpa [Nat.mod_eq_of_lt hi] using getLsbD_rotateRight_eq x 0 hi

/-! ## CF and the operand as one value (R383, R384) -/

/-- The bits of CF and the operand together. -/
theorem withCarry_getLsbD {n : Nat} (cf : Bool) (x : BitVec n) (i : Nat) : (withCarry cf x).getLsbD i = carriedBit cf x i :=
  BitVec.getLsbD_cons cf x i

/-- A value taken apart into CF and the operand has the same bits. -/
theorem carriedBit_msb_setWidth {n i : Nat} (v : BitVec (n + 1)) (hi : i ≤ n) :
    carriedBit v.msb (v.setWidth n) i = v.getLsbD i := by
  rw [carriedBit]
  split
  case isTrue htop => rw [htop, BitVec.msb_eq_getLsbD_last, Nat.add_sub_cancel]
  case isFalse hbelow => rw [BitVec.getLsbD_setWidth, decide_eq_true (by omega), Bool.true_and]

/-! ## Results (R381 to R387) -/

section Results

variable {n : Nat} (cf : Bool) (x : BitVec n) (c : Nat)

/-- SHL multiplies by a power of 2 (R385). -/
theorem Shift.result_shl_toNat : (Shift.shl.result cf x c).toNat = x.toNat * 2 ^ c % 2 ^ n := by
  rw [Shift.result, BitVec.toNat_shiftLeft, Nat.shiftLeft_eq]

/-- SHR divides the unsigned value by a power of 2 (R386). -/
theorem Shift.result_shr_toNat : (Shift.shr.result cf x c).toNat = x.toNat / 2 ^ c := by
  rw [Shift.result, BitVec.toNat_ushiftRight, Nat.shiftRight_eq_div_pow]

/-- SAR divides the signed value by a power of 2, rounding down (R387). -/
theorem Shift.result_sar_toInt : (Shift.sar.result cf x c).toInt = x.toInt / 2 ^ c := by
  rw [Shift.result, BitVec.toInt_sshiftRight, Int.shiftRight_eq_div_pow]
  norm_cast

/-- ROL moves each bit `c` places up, round the end (R381). -/
theorem Shift.result_rol_getLsbD {i : Nat} (hi : i < n) : (Shift.rol.result cf x c).getLsbD ((i + c) % n) = x.getLsbD i := by
  rw [Shift.result, BitVec.rotateLeft_mod_eq_rotateLeft, getLsbD_rotateLeft_add_mod x c hi]

/-- ROR moves each bit `c` places down, round the end (R382). -/
theorem Shift.result_ror_getLsbD {i : Nat} (hi : i < n) : (Shift.ror.result cf x c).getLsbD i = x.getLsbD ((i + c) % n) := by
  rw [Shift.result, BitVec.rotateRight_mod_eq_rotateRight, getLsbD_rotateRight_eq x c hi]

/-- RCL moves each bit of CF and the operand `c` places up, round the end (R383). -/
theorem Shift.carried_rcl (j : Bool) {i : Nat} (hi : i ≤ n) :
    carriedBit (Shift.rcl.carry cf x c j) (Shift.rcl.result cf x c) ((i + c) % (n + 1)) = carriedBit cf x i := by
  rw [Shift.carry, Shift.result, BitVec.rotateLeft_mod_eq_rotateLeft,
    carriedBit_msb_setWidth _ (Nat.le_of_lt_succ (Nat.mod_lt _ n.succ_pos)),
    getLsbD_rotateLeft_add_mod _ c (Nat.lt_succ_of_le hi), withCarry_getLsbD]

/-- RCR moves each bit of CF and the operand `c` places down, round the end (R384). -/
theorem Shift.carried_rcr (j : Bool) {i : Nat} (hi : i ≤ n) :
    carriedBit (Shift.rcr.carry cf x c j) (Shift.rcr.result cf x c) i = carriedBit cf x ((i + c) % (n + 1)) := by
  rw [Shift.carry, Shift.result, BitVec.rotateRight_mod_eq_rotateRight, carriedBit_msb_setWidth _ hi,
    getLsbD_rotateRight_eq _ c (Nat.lt_succ_of_le hi), withCarry_getLsbD]

/-- An idle rotation leaves the operand (R383, R384). -/
theorem Shift.result_of_idle {op : Shift} (h : op.idle n c = true) : op.result cf x c = x := by
  cases op with
  | rcl | rcr =>
    have hc : c % (n + 1) = 0 := beq_iff_eq.mp h
    simp only [Shift.result, hc, rotateLeft_zero, rotateRight_zero, withCarry, BitVec.setWidth_cons]
  | rol | ror | shl | shr | sar => exact absurd h Bool.false_ne_true

/-- An idle rotation leaves CF (R383, R384). -/
theorem Shift.carry_of_idle {op : Shift} (j : Bool) (h : op.idle n c = true) : op.carry cf x c j = cf := by
  cases op with
  | rcl | rcr =>
    have hc : c % (n + 1) = 0 := beq_iff_eq.mp h
    simp only [Shift.carry, hc, rotateLeft_zero, rotateRight_zero, withCarry, BitVec.msb_cons]
  | rol | ror | shl | shr | sar => exact absurd h Bool.false_ne_true

end Results

/-! ## Flags (R380 to R387) -/

section Flags

variable {n : Nat} (op : Shift) (f : EFlags) (x : BitVec n) (c : Nat) (j : Dword)

/-- An idle rotation leaves the flags (R383, R384). -/
theorem Shift.flags_of_idle (h : op.idle n c = true) : op.flags f x c j = f := if_pos h

/-- CF is the carry, of an idle rotation too. -/
theorem Shift.flags_cf : (op.flags f x c j).cf = op.carry f.cf x c (j.getLsbD 0) := by
  cases h : op.idle n c with
  | true => rw [Shift.flags_of_idle op f x c j h, Shift.carry_of_idle f.cf x c _ h]
  | false => simp only [Shift.flags, h, Bool.false_eq_true, if_false]

/-- No operation is idle for a count of 1 (R383, R384). -/
theorem Shift.idle_one (hn : 0 < n) : op.idle n 1 = false := by
  cases op with
  | rcl | rcr => rw [Shift.idle, Nat.mod_eq_of_lt (Nat.succ_lt_succ hn), beq_eq_false_iff_ne]; exact Nat.one_ne_zero
  | rol | ror | shl | shr | sar => rfl

/-- OF for a count of 1 (R381 to R387). -/
theorem Shift.flags_ovf_one (hn : 0 < n) : (op.flags f x 1 j).ovf =
    op.overflow x (op.result f.cf x 1) (op.carry f.cf x 1 (j.getLsbD 0)) := by
  simp only [Shift.flags, Shift.idle_one op hn, Bool.false_eq_true, if_false, if_true]

/-- OF is free for any other count, unless the rotation is idle. -/
theorem Shift.flags_ovf_free (hc : c ≠ 1) (hbusy : op.idle n c = false) : (op.flags f x c j).ovf = j.getLsbD 11 := by
  simp only [Shift.flags, hbusy, hc, Bool.false_eq_true, if_false]

/-- A rotate changes CF and OF alone. -/
theorem Shift.flags_of_rotate (h : op.isRotate = true) :
    op.flags f x c j = { f with cf := op.carry f.cf x c (j.getLsbD 0), ovf := (op.flags f x c j).ovf } := by
  rw [← Shift.flags_cf]
  simp only [Shift.flags, h, if_true]
  split <;> rfl

/-- A shift sets SF, ZF and PF by its result and leaves AF free. -/
theorem Shift.flags_of_shift (h : op.isRotate = false) : op.flags f x c j =
    { (f.setSzp (op.result f.cf x c)).freeAf j with cf := op.carry f.cf x c (j.getLsbD 0), ovf := (op.flags f x c j).ovf } := by
  have hbusy : op.idle n c = false := by
    cases op with
    | rol | ror | rcl | rcr => exact absurd h.symm Bool.false_ne_true
    | shl | shr | sar => rfl
  simp only [Shift.flags, h, hbusy, Bool.false_eq_true, if_false]

end Flags

/-- Settles O19: the results and the carries are the bits moved by the count, and each flag is the one its clause of the model
gives it. -/
theorem shiftMeaning : Obligations.ShiftMeaning := by
  unfold Obligations.ShiftMeaning
  intro sz f x n j _
  have hbits : 0 < sz.bits := by cases sz <;> decide
  have hrotates : ∀ op ∈ [Shift.rol, .ror, .rcl, .rcr], op.isRotate = true := by decide
  have hshifts : ∀ op ∈ [Shift.shl, .shr, .sar], op.isRotate = false := by decide
  simp only [Shift.flags_cf, ← BitVec.msb_eq_getLsbD_last]
  refine ⟨Shift.result_shl_toNat _ _ _, Shift.result_shr_toNat _ _ _, Shift.result_sar_toInt _ _ _,
    fun i hi => ⟨Shift.result_rol_getLsbD _ _ _ hi, Shift.result_ror_getLsbD _ _ _ hi⟩,
    fun i hi => ⟨Shift.carried_rcl _ _ _ _ hi, Shift.carried_rcr _ _ _ _ hi⟩, rfl, rfl,
    fun hle => ⟨if_pos hle, if_pos hle, if_pos hle⟩,
    fun hgt => ⟨if_neg (Nat.not_le.mpr hgt), if_neg (Nat.not_le.mpr hgt), if_neg (Nat.not_le.mpr hgt)⟩,
    fun hone => ?_, fun hmany => ⟨?_, fun hbusy => ?_⟩, fun hidle => ?_,
    fun op hop => Shift.flags_of_rotate op f x n j (hrotates op hop),
    fun op hop => Shift.flags_of_shift op f x n j (hshifts op hop)⟩
  · subst hone
    simp only [Shift.flags_ovf_one _ f x j hbits, List.forall_mem_cons]
    exact ⟨⟨rfl, rfl, rfl, List.forall_mem_nil _⟩, ⟨rfl, rfl, List.forall_mem_nil _⟩, rfl, rfl⟩
  · have hnever : ∀ op ∈ [Shift.rol, .ror, .shl, .shr, .sar], op.idle sz.bits n = false := by
      simp only [List.forall_mem_cons, Shift.idle, List.not_mem_nil, false_implies, implies_true, and_self]
    exact fun op hop => Shift.flags_ovf_free op f x n j hmany (hnever op hop)
  · exact ⟨Shift.flags_ovf_free .rcl f x n j hmany (beq_false_of_ne hbusy),
      Shift.flags_ovf_free .rcr f x n j hmany (beq_false_of_ne hbusy)⟩
  · have hidles : (n % (sz.bits + 1) == 0) = true := beq_iff_eq.mpr hidle
    exact ⟨Shift.result_of_idle (op := .rcl) _ _ _ hidles, Shift.result_of_idle (op := .rcr) _ _ _ hidles,
      Shift.flags_of_idle .rcl f x n j hidles, Shift.flags_of_idle .rcr f x n j hidles⟩

end Sys2Proof.Machine

/-! PROOFS. The string instructions and XLAT (R410 to R421): one element of each, the repetition around it, and the permission map
before INS and OUTS (R138). -/

namespace Sys2Proof.Machine

/-! ## What INS and OUTS leave alone (R138, R412, R415) -/

@[simp] theorem State.ioChecked_mem (s : State) (port : Word) (n : Nat) : (s.ioChecked port n).mem = s.mem := by
  obtain ⟨trace, h⟩ := s.ioChecked_frame port n
  rw [h]

@[simp] theorem State.ioChecked_loadAt (s : State) (port : Word) (n : Nat) (la : Dword) (sz : Sz) :
    (s.ioChecked port n).loadAt la sz = s.loadAt la sz := by
  simp only [State.loadAt, State.ioChecked_mem]

@[simp] theorem State.ioChecked_canAccess (s : State) (port : Word) (n : Nat) (r : SReg) (off : Dword) (k : Nat)
    (acc : Access) : (s.ioChecked port n).canAccess r off k acc = s.canAccess r off k acc := by
  simp only [State.canAccess, State.ioChecked_cpu]

@[simp] theorem State.afterIoRead_cpu (s : State) (port : Word) (sz : Sz) : (s.afterIoRead port sz).cpu = s.cpu := by
  simp only [State.afterIoRead, State.traced_cpu]
  split <;> rfl

@[simp] theorem State.hit_ioAnswer (s : State) (la : Dword) (n : Nat) (write : Bool) :
    (s.hit la n write).ioAnswer = s.ioAnswer := rfl

@[simp] theorem State.afterIoWrite_cpu (s : State) (port : Word) (sz : Sz) (v : BitVec sz.bits) :
    (s.afterIoWrite port sz v).cpu = s.cpu := rfl

/-- Noting a breakpoint and reading a port commute. -/
theorem State.hit_afterIoRead (s : State) (la : Dword) (n : Nat) (write : Bool) (port : Word) (sz : Sz) :
    (s.hit la n write).afterIoRead port sz = (s.afterIoRead port sz).hit la n write := by
  simp only [State.afterIoRead, State.ioAnswer, State.hit_env]
  cases s.env.ioIn <;> rfl

/-! ## The elements of INS and OUTS (R412, R415) -/

/-- The port is DX. -/
theorem setWidth_edx (s : State) : s.cpu.gpr.edx.setWidth 16 = s.reg .w .edx := rfl

section Ports

variable {s : State} {sz : Sz}

/-- INS stores what the ports answer; the breakpoint on the destination is noted before they are read (R412). -/
theorem insElement_ok (hmap : (s.cpu.ioFree || !s.cpu.cr0.pg) = true) (hperm : s.ioPermits (s.reg .w .edx) sz.bytes = true)
    (hlast : (s.reg .w .edx).toNat + sz.bytes ≤ 0x10000) (hdst : s.canAccess .es (s.cpu.index .edi) sz.bytes .write = true) :
    insElement sz s = .ok () ((((s.ioChecked (s.reg .w .edx) sz.bytes).afterIoRead (s.reg .w .edx) sz).storedAt
      (s.cpu.linear .es (s.cpu.index .edi)) sz (s.ioAnswer.setWidth sz.bits)).stepped .edi sz) := by
  simp only [State.canAccess, Bool.and_eq_true, Bool.not_eq_true'] at hdst
  obtain ⟨hpg, hallowed⟩ := hdst
  have hcheck : segCheck .es (s.cpu.index .edi) sz.bytes .write (s.ioChecked (s.reg .w .edx) sz.bytes) =
      .ok (s.cpu.linear .es (s.cpu.index .edi)) (s.ioChecked (s.reg .w .edx) sz.bytes) := by
    rw [segCheck_ok (by rw [State.ioChecked_cpu]; exact hallowed), State.ioChecked_cpu]
  have htranslate (la : Dword) : translate la sz.bytes .write s.cpu.user
      ((s.ioChecked (s.reg .w .edx) sz.bytes).hit la sz.bytes true) =
      .ok (physBytes la sz.bytes) ((s.ioChecked (s.reg .w .edx) sz.bytes).hit la sz.bytes true) :=
    translate_off (by rw [State.hit_cr0, State.ioChecked_cpu]; exact hpg) _ _ _ _
  simp only [insElement, bind_run, getCpu_run, setWidth_edx, requireIo_run hmap, hperm, if_true, hcheck, noteData_run, htranslate,
    ioRead_ok hlast, State.hit_ioAnswer, State.ioChecked_ioAnswer, State.hit_afterIoRead, writeAll_run, stepIndex_run]
  rfl

/-- OUTS writes its source to the ports once the map has permitted them (R415). -/
theorem outsElement_ok (hmap : (s.cpu.ioFree || !s.cpu.cr0.pg) = true) (hperm : s.ioPermits (s.reg .w .edx) sz.bytes = true)
    (hlast : (s.reg .w .edx).toNat + sz.bytes ≤ 0x10000)
    (hsrc : s.canAccess s.cpu.stringSegment (s.cpu.index .esi) sz.bytes .read = true) :
    outsElement sz s = .ok () ((((s.ioChecked (s.reg .w .edx) sz.bytes).noted
      (s.cpu.linear s.cpu.stringSegment (s.cpu.index .esi)) sz.bytes).afterIoWrite (s.reg .w .edx) sz
      (s.loadAt (s.cpu.linear s.cpu.stringSegment (s.cpu.index .esi)) sz)).stepped .esi sz) := by
  have hread := segRead_ok (s := s.ioChecked (s.reg .w .edx) sz.bytes) (by rw [State.ioChecked_canAccess]; exact hsrc)
  simp only [outsElement, bind_run, getCpu_run, setWidth_edx, requireIo_run hmap, hperm, if_true, hread, ioWrite_ok _ hlast,
    stepIndex_run, State.ioChecked_cpu, State.ioChecked_loadAt]

/-- INS of denied ports raises exception 13 before its destination is looked at (R138). -/
theorem insElement_denied (hmap : (s.cpu.ioFree || !s.cpu.cr0.pg) = true)
    (hdenied : s.ioPermits (s.reg .w .edx) sz.bytes = false) :
    insElement sz s = .error (.exc (.gp 0)) (s.ioChecked (s.reg .w .edx) sz.bytes) := by
  simp only [insElement, bind_run, getCpu_run, setWidth_edx, requireIo_run hmap, hdenied, Bool.false_eq_true, if_false]

/-- OUTS to denied ports raises exception 13 before its source is read (R138). -/
theorem outsElement_denied (hmap : (s.cpu.ioFree || !s.cpu.cr0.pg) = true)
    (hdenied : s.ioPermits (s.reg .w .edx) sz.bytes = false) :
    outsElement sz s = .error (.exc (.gp 0)) (s.ioChecked (s.reg .w .edx) sz.bytes) := by
  simp only [outsElement, bind_run, getCpu_run, setWidth_edx, requireIo_run hmap, hdenied, Bool.false_eq_true, if_false]

end Ports

/-! ## The body around an element (R420, R421) -/

/-- The body the seven string instructions share. -/
def stringBody (w comparing : Bool) (element : Sz → M Unit) : M Ending := do
  let sz ← opSize w
  repeated comparing (element sz)

/-- Each string instruction runs its element in that body. -/
theorem exec_eq_run_stringBody {i : Instr} {w : Bool}
    (h : i ∈ [Instr.cmps w, .ins w, .lods w, .movs w, .outs w, .scas w, .stos w]) :
    ∃ comparing element, ∀ s, exec i s = run i (stringBody w comparing element) s := by
  simp only [List.mem_cons, List.not_mem_nil, or_false] at h
  obtain rfl | rfl | rfl | rfl | rfl | rfl | rfl := h <;> exact ⟨_, _, fun _ => rfl⟩

/-- The state after an element of a repetition is counted (R420). -/
def State.counted (s : State) : State := s.mapCpu fun c => c.withIndex .ecx (c.index .ecx - 1)

section Body

variable {w comparing : Bool} {element : Sz → M Unit} {s t : State} {p : Rep}

/-- Unrepeated, the body is one element. -/
theorem stringBody_once (hrep : s.cpu.cur.pfx.rep = none) (helement : element (s.cpu.size w) s = .ok () t) :
    stringBody w comparing element s = .ok .next t := by
  rw [stringBody, bind_ok (opSize_run w s), repeated_once hrep, bind_ok helement, pure_run]

/-- It stops where the element stops. -/
theorem stringBody_stops {stop : Stop} (hrep : s.cpu.cur.pfx.rep = none)
    (helement : element (s.cpu.size w) s = .error stop t) : stringBody w comparing element s = .error stop t := by
  rw [stringBody, bind_ok (opSize_run w s), repeated_once hrep, bind_error helement]

/-- A repetition with a count of 0 does nothing (R420). -/
theorem stringBody_idle (hrep : s.cpu.cur.pfx.rep = some p) (hcount : s.cpu.index .ecx = 0) :
    stringBody w comparing element s = .ok .next s := by
  simp only [stringBody, repeated, bind_run, opSize_run, getCpu_run, hrep, hcount, if_true, pure_run]

/-- A repetition does one element and counts it; it ends after the last, and after one that ends the comparison (R420). -/
theorem stringBody_counts (hrep : s.cpu.cur.pfx.rep = some p) (hcount : s.cpu.index .ecx ≠ 0)
    (helement : element (s.cpu.size w) s = .ok () t) (hkept : t.cpu.index .ecx = s.cpu.index .ecx) :
    stringBody w comparing element s = .ok
      (if s.cpu.index .ecx = 1 ∨ (comparing && endsRepeat p t.cpu.flags.zf) = true then .next else .again) t.counted := by
  have hends : (t.cpu.withIndex .ecx (t.cpu.index .ecx - 1)).index .ecx = 0 ↔ s.cpu.index .ecx = 1 := by
    rw [Cpu.count_ends (by rw [hkept]; exact hcount), hkept]
  simp only [stringBody, repeated, bind_run, opSize_run, getCpu_run, hrep, hcount, if_false, helement, modifyCpu_run, pure_run,
    State.mapCpu_cpu, Cpu.withIndex_flags, Bool.or_eq_true, beq_iff_eq, hends, State.counted]

end Body

/-! ## The count over an element -/

@[simp] theorem State.stepped_esi_count (s : State) (sz : Sz) : (s.stepped .esi sz).cpu.index .ecx = s.cpu.index .ecx :=
  State.stepped_index_of_ne (by decide) sz

@[simp] theorem State.stepped_edi_count (s : State) (sz : Sz) : (s.stepped .edi sz).cpu.index .ecx = s.cpu.index .ecx :=
  State.stepped_index_of_ne (by decide) sz

/-- A write of the accumulator leaves the count. -/
theorem State.withReg_eax_count (s : State) (sz : Sz) (v : BitVec sz.bits) :
    (s.withReg sz .eax v).cpu.index .ecx = s.cpu.index .ecx := by
  cases sz <;> rfl

/-- Flags with the same VM leave the index registers: VM has a part in the address size. -/
theorem State.withFlags_index {s : State} {f : EFlags} (h : f.vm = s.cpu.flags.vm) (r : Reg) :
    (s.withFlags f).cpu.index r = s.cpu.index r := by
  simp [Cpu.index, Cpu.as32, Cpu.code32, Cpu.prot, h]

/-! ## The statements -/

/-- Settles O22: unrepeated, each instruction is one element, and XLAT is one read. -/
theorem stringCompletes : Obligations.StringCompletes := by
  unfold Obligations.StringCompletes
  intro w s
  refine ⟨fun hrep => ⟨fun hready hsrc hdst => ?_, fun hready hsrc => ?_, fun hready hsrc hdst => ?_, fun hready hdst => ?_,
    fun hready hdst => ?_⟩, fun hready hsrc => ?_⟩
  · exact run_next hready (stringBody_once hrep (cmpsElement_ok hsrc hdst))
  · exact run_next hready (stringBody_once hrep (lodsElement_ok hsrc))
  · exact run_next hready (stringBody_once hrep (movsElement_ok hsrc hdst))
  · exact run_next hready (stringBody_once hrep (scasElement_ok hdst))
  · exact run_next hready (stringBody_once hrep (stosElement_ok hdst))
  · exact run_next hready ((bind_ok (getCpu_run s)).trans (bind_ok (segRead_ok (sz := .b) hsrc)))

/-- Settles O23: the permission map decides first, before the operand in memory. -/
theorem stringIoCompletes : Obligations.StringIoCompletes := by
  unfold Obligations.StringIoCompletes
  intro w s
  dsimp only
  intro hmap hrep
  refine ⟨fun hperm hlast => ⟨fun hready hdst => ?_, fun hready hsrc => ?_⟩, fun hdenied => ⟨fun hruns => ?_, fun hruns => ?_⟩⟩
  · exact run_next hready (stringBody_once hrep (insElement_ok hmap hperm hlast hdst))
  · exact run_next hready (stringBody_once hrep (outsElement_ok hmap hperm hlast hsrc))
  · exact run_denied hruns (stringBody_stops hrep (insElement_denied hmap hdenied))
  · exact run_denied hruns (stringBody_stops hrep (outsElement_denied hmap hdenied))

/-- Settles O24: a count of 0 does nothing; otherwise one element is done, which leaves the count, and then counted. -/
theorem repeatSteps : Obligations.RepeatSteps := by
  unfold Obligations.RepeatSteps
  intro w p s hrep
  dsimp only
  refine ⟨fun i hi hcount hready => ?_, fun hcount => ⟨fun hready hsrc hdst => ?_, fun hready hsrc => ?_, fun hready hdst => ?_,
    fun hready hsrc hdst => ?_, fun hready hdst => ?_,
    fun hmap hperm hlast => ⟨fun hready hdst => ?_, fun hready hsrc => ?_⟩⟩⟩
  · obtain ⟨comparing, element, hbody⟩ := exec_eq_run_stringBody hi
    rw [hbody]
    exact run_next hready (stringBody_idle hrep hcount)
  · refine run_advances hready (stringBody_counts hrep hcount (movsElement_ok hsrc hdst) ?_)
    simp only [State.stepped_edi_count, State.stepped_esi_count, State.storedAt_index, State.noted_index]
  · refine run_advances hready (stringBody_counts hrep hcount (lodsElement_ok hsrc) ?_)
    simp only [State.stepped_esi_count, State.withReg_eax_count, State.noted_index]
  · refine run_advances hready (stringBody_counts hrep hcount (stosElement_ok hdst) ?_)
    simp only [State.stepped_edi_count, State.storedAt_index]
  · refine run_advances hready (stringBody_counts hrep hcount (cmpsElement_ok hsrc hdst) ?_)
    simp only [State.stepped_edi_count, State.stepped_esi_count]
    exact State.withFlags_index (EFlags.sub_vm _ _ _ _) _
  · refine run_advances hready (stringBody_counts hrep hcount (scasElement_ok hdst) ?_)
    simp only [State.stepped_edi_count]
    exact State.withFlags_index (EFlags.sub_vm _ _ _ _) _
  · refine run_advances hready (stringBody_counts hrep hcount (insElement_ok hmap hperm hlast hdst) ?_)
    simp only [State.stepped_edi_count, State.storedAt_index, State.afterIoRead_cpu, State.ioChecked_cpu]
  · refine run_advances hready (stringBody_counts hrep hcount (outsElement_ok hmap hperm hlast hsrc) ?_)
    simp only [State.stepped_esi_count, State.afterIoWrite_cpu, State.noted_index, State.ioChecked_cpu]

end Sys2Proof.Machine

/-! PROOFS. BSF and BSR (R431, R432, U7), and BT, BTC, BTR, BTS (R430, R433 to R436): where a scan ends, and the one body of the
tests around the reads and writes of their operands. -/

namespace Sys2Proof.Machine

/-! ## BSF and BSR (R431, R432) -/

section Scan

variable {index : (sz : Sz) → BitVec sz.bits → Nat} {dst : Reg} {src : RM} {s : State}

/-- Of 0 the destination is free, drawn after the free flags, and ZF is set (U7). -/
theorem scanBits_zero (hsrc : s.canRead s.cpu.osz src = true) (hzero : s.rmValue s.cpu.osz src = 0) :
    scanBits index dst src s = .ok .next
      ((((s.rmRead s.cpu.osz src).drawn.drawn).withReg s.cpu.osz dst (s.drawn.freeVal.setWidth s.cpu.osz.bits)).withFlags
        { s.cpu.flags.freeAll s.freeVal with zf := decide (s.rmValue s.cpu.osz src = 0) }) := by
  have hsize : opSize true s = .ok s.cpu.osz s := rfl
  rw [scanBits, bind_ok hsize, bind_ok (readRM_ok hsrc), bind_ok (draw_run _), if_pos hzero]
  simp only [bind_run, draw_run, writeReg_run, modifyFlags_run, pure_run, State.rmRead_drawn_freeVal, State.rmRead_freeVal,
    State.withReg_flags, State.drawn_cpu, State.rmRead_flags]
  rfl

/-- Of another value the destination is the number the scan ends at, and ZF is cleared. -/
theorem scanBits_of_ne_zero (hsrc : s.canRead s.cpu.osz src = true) (hne : s.rmValue s.cpu.osz src ≠ 0) :
    scanBits index dst src s = .ok .next
      ((((s.rmRead s.cpu.osz src).drawn).withReg s.cpu.osz dst
        (BitVec.ofNat _ (index s.cpu.osz (s.rmValue s.cpu.osz src)))).withFlags
        { s.cpu.flags.freeAll s.freeVal with zf := decide (s.rmValue s.cpu.osz src = 0) }) := by
  have hsize : opSize true s = .ok s.cpu.osz s := rfl
  rw [scanBits, bind_ok hsize, bind_ok (readRM_ok hsrc), bind_ok (draw_run _), if_neg hne]
  simp only [bind_run, writeReg_run, modifyFlags_run, pure_run, State.rmRead_freeVal, State.withReg_flags, State.drawn_cpu,
    State.rmRead_flags]
  rfl

end Scan

/-- A value with a 1 bit is not 0. -/
theorem ne_zero_of_getLsbD {n : Nat} {v : BitVec n} {k : Nat} (hbit : v.getLsbD k = true) : v ≠ 0 := by
  rintro rfl
  rw [BitVec.ofNat_eq_ofNat, BitVec.getLsbD_zero] at hbit
  cases hbit

/-- Settles O25: a source of 0 takes the one branch of the body, a source with a 1 bit the other, where the scan ends at that bit
because the bits it passes before are 0. -/
theorem bitScanCompletes : Obligations.BitScanCompletes := by
  unfold Obligations.BitScanCompletes
  intro dst rm s sz v f hsrc
  refine ⟨fun hzero => ⟨fun hready => ?_, fun hready => ?_⟩,
    fun k hbit => ⟨fun hbelow hready => ?_, fun habove hready => ?_⟩⟩
  · exact run_next hready (scanBits_zero hsrc hzero)
  · exact run_next hready (scanBits_zero hsrc hzero)
  · have hlowest : lowestBit v 0 sz.bits = k :=
      lowestBit_eq v k hbit hbelow sz.bits 0 (Nat.zero_le k) (by rw [Nat.zero_add]; exact BitVec.lt_of_getLsbD hbit)
    rw [← hlowest]
    exact run_next hready (scanBits_of_ne_zero hsrc (ne_zero_of_getLsbD hbit))
  · have hhighest : highestBit v sz.bits = k := highestBit_eq v k hbit habove sz.bits (BitVec.lt_of_getLsbD hbit)
    rw [← hhighest]
    exact run_next hready (scanBits_of_ne_zero hsrc (ne_zero_of_getLsbD hbit))

/-! ## The bodies of BT, BTC, BTR and BTS (R430) -/

theorem bitFlags_run (b : Bool) (s : State) : bitFlags b s = .ok .next (s.drawn.withFlags (bitTestFlags s b)) := rfl

/-- A read leaves the flags a bit test ends with. -/
theorem bitTestFlags_noted (s : State) (la : Dword) (n : Nat) (b : Bool) :
    bitTestFlags (s.noted la n) b = bitTestFlags s b := rfl

/-- A store leaves the flags a bit test ends with. -/
theorem bitTestFlags_storedAt (s : State) (la : Dword) (sz : Sz) (v : BitVec sz.bits) (b : Bool) :
    bitTestFlags (s.storedAt la sz v) b = bitTestFlags s b := by
  rw [bitTestFlags, bitTestFlags, State.storedAt_flags, State.storedAt_freeVal]

section Bodies

variable {sz : Sz} {k : Nat} {s : State}

/-- A bit of a register is tested. -/
theorem testBit_reg (r : Reg) (disp : Dword) : testBit sz (.reg r) k disp s = .ok .next
    (s.drawn.withFlags (bitTestFlags s ((s.reg sz r).getLsbD k))) := rfl

/-- A bit of memory is tested: the operand is read. -/
theorem testBit_mem {m : Mem} {disp : Dword} (h : s.memCan m disp sz.bytes .read = true) :
    testBit sz (.mem m) k disp s = .ok .next ((s.noted (s.memLinear m disp) sz.bytes).drawn.withFlags
      (bitTestFlags s ((s.loadAt (s.memLinear m disp) sz).getLsbD k))) := by
  have hread : readBitOperand sz (.mem m) disp s = .ok _ _ := readMem_ok h
  rw [testBit, bind_ok hread, bitFlags_run, bitTestFlags_noted]

/-- A bit of a register is tested and changed. -/
theorem changeBit_reg (f : Bool → Bool) (r : Reg) (disp : Dword) : changeBit f sz (.reg r) k disp s = .ok .next
    ((s.withReg sz r (withBit (s.reg sz r) k (f ((s.reg sz r).getLsbD k)))).drawn.withFlags
      (bitTestFlags s ((s.reg sz r).getLsbD k))) := rfl

/-- A bit of memory is tested and changed: the operand may be written, is read, and is written. -/
theorem changeBit_mem (f : Bool → Bool) {m : Mem} {disp : Dword} (h : s.memCan m disp sz.bytes .write = true) :
    changeBit f sz (.mem m) k disp s = .ok .next
      (((s.noted (s.memLinear m disp) sz.bytes).storedAt (s.memLinear m disp) sz
        (withBit (s.loadAt (s.memLinear m disp) sz) k (f ((s.loadAt (s.memLinear m disp) sz).getLsbD k)))).drawn.withFlags
        (bitTestFlags s ((s.loadAt (s.memLinear m disp) sz).getLsbD k))) := by
  have hread : readBitOperand sz (.mem m) disp s = .ok _ _ := readMem_ok (State.canAccess_read_of_write h)
  have hwrite (v : BitVec sz.bits) : writeBitOperand sz (.mem m) disp v (s.noted (s.memLinear m disp) sz.bytes) =
      .ok () ((s.noted (s.memLinear m disp) sz.bytes).storedAt (s.memLinear m disp) sz v) := writeMem_ok v h
  rw [changeBit, bind_ok (verifyBitOperand_ok h), bind_ok hread, bind_ok (hwrite _), bitFlags_run,
    bitTestFlags_storedAt, bitTestFlags_noted]
  rfl

end Bodies

/-! ## The two forms of the offset (R430) -/

/-- BTC, BTR or BTS with an immediate offset: the bit lies inside the operand. -/
def changeBitImm (op : BitOp) (rm : RM) (off : Byte) : M Ending := do
  let sz ← opSize true
  changeBit op.newBit sz rm (off.toNat % sz.bits) 0

/-- BTC, BTR or BTS with the offset in a register: in memory it selects the operand too. -/
def changeBitReg (op : BitOp) (rm : RM) (reg : Reg) : M Ending := do
  let sz ← opSize true
  let o ← readReg sz reg
  changeBit op.newBit sz rm (selectBit sz rm o).1 (selectBit sz rm o).2

/-- The three operations differ in the new bit alone. -/
theorem exec_bitImmInstr (op : BitOp) (rm : RM) (off : Byte) (s : State) :
    exec (bitImmInstr op rm off) s = run (bitImmInstr op rm off) (changeBitImm op rm off) s := by
  cases op <;> rfl

theorem exec_bitRegInstr (op : BitOp) (rm : RM) (reg : Reg) (s : State) :
    exec (bitRegInstr op rm reg) s = run (bitRegInstr op rm reg) (changeBitReg op rm reg) s := by
  cases op <;> rfl

/-- With an immediate offset the bit number is the offset modulo the operand size. -/
theorem changeBitImm_run (op : BitOp) (rm : RM) (off : Byte) (s : State) :
    changeBitImm op rm off s = changeBit op.newBit s.cpu.osz rm (off.toNat % s.cpu.osz.bits) 0 s := rfl

/-- An offset in a register names a bit of the register operand modulo its size. -/
theorem changeBitReg_reg_run (op : BitOp) (r reg : Reg) (s : State) : changeBitReg op (.reg r) reg s =
    changeBit op.newBit s.cpu.osz (.reg r) ((s.reg s.cpu.osz reg).toNat % s.cpu.osz.bits) 0 s := rfl

/-- An offset in a register names a bit of the memory operand that it selects. -/
theorem changeBitReg_mem_run (op : BitOp) (m : Mem) (reg : Reg) (s : State) : changeBitReg op (.mem m) reg s =
    changeBit op.newBit s.cpu.osz (.mem m) ((s.reg s.cpu.osz reg).toNat % s.cpu.osz.bits)
      (bitDisplacement s.cpu.osz (s.reg s.cpu.osz reg)) s := rfl

/-- Settles O26: each form is the one body with its own bit number and displacement. -/
theorem bitTestCompletes : Obligations.BitTestCompletes := by
  unfold Obligations.BitTestCompletes
  intro op r reg m off s
  dsimp only
  simp only [exec_bitImmInstr, exec_bitRegInstr]
  refine ⟨fun hready => ?_, fun hready => ?_, fun hready => ?_, fun hready => ?_, fun hready hsrc => ?_,
    fun hready hsrc => ?_, fun hready hdst => ?_, fun hready hdst => ?_⟩
  · exact run_next hready (testBit_reg r 0)
  · exact run_next hready (testBit_reg r 0)
  · exact run_next hready ((changeBitImm_run ..).trans (changeBit_reg op.newBit r 0))
  · exact run_next hready ((changeBitReg_reg_run ..).trans (changeBit_reg op.newBit r 0))
  · exact run_next hready (testBit_mem hsrc)
  · exact run_next hready (testBit_mem hsrc)
  · exact run_next hready ((changeBitImm_run ..).trans (changeBit_mem op.newBit hdst))
  · exact run_next hready ((changeBitReg_mem_run ..).trans (changeBit_mem op.newBit hdst))

end Sys2Proof.Machine

/-! PROOFS. Near transfers of control (R440 to R451): a taken transfer goes to a checked target, and each instruction says when it is
taken and what it does before. -/

namespace Sys2Proof.Machine

/-- The state after a taken transfer to an offset: EIP is the offset, and nothing fetched before is used (R440). -/
def State.wentTo (s : State) (t : Dword) : State :=
  { s with cpu := { s.cpu with eip := t }, queue := [], prefetch := [], pgSwitch := none }

@[simp] theorem setEip_run (t : Dword) (s : State) : setEip t s = .ok () (s.wentTo t) := rfl

/-- An instruction whose body goes to an offset transfers control. -/
theorem run_goes {i : Instr} {body : M Ending} {s u : State} {t : Dword} (hruns : s.mayRun i = true)
    (hbody : body s = .ok .jumped (u.wentTo t)) : run i body s = transfers s u t :=
  run_ends hruns hbody rfl

/-- An instruction whose body raises an exception leaves what is no register. -/
theorem run_raises_leaving {i : Instr} {body : M Ending} {s u t : State} {e : Exc} (hruns : s.mayRun i = true)
    (hbody : body s = .error (.exc e) u) (ht : { u with cpu := s.cpu } = t) : run i body s = takeException e t := by
  rw [run_raises hruns hbody, ht]

/-- A target within the limit of CS passes its check (R441). -/
theorem requireTarget_ok {t : Dword} {s : State} (h : t ≤ s.cpu.segs.cs.limit) : requireTarget t s = .ok () s := by
  simp only [requireTarget, bind_run, getCpu_run, require_run, decide_eq_true h, if_true]

/-- A target beyond it raises exception 13 (R441). -/
theorem requireTarget_beyond {t : Dword} {s : State} (h : s.cpu.segs.cs.limit < t) :
    requireTarget t s = .error (.exc (.gp 0)) s := by
  simp only [requireTarget, bind_run, getCpu_run, require_run, decide_eq_false (BitVec.not_le.mpr h), Bool.false_eq_true,
    if_false]

/-! ## Loops (R451) -/

/-- Counting the count register down ends at 0 exactly from 1, also where it wraps (R451). -/
theorem Cpu.count_ends_iff (c : Cpu) : (c.withIndex .ecx (c.index .ecx - 1)).index .ecx = 0 ↔ c.index .ecx = 1 := by
  by_cases hzero : c.index .ecx = 0
  · have hwraps : (c.withIndex .ecx (0 - 1)).index .ecx = if c.as32 then 0xFFFFFFFF else 0xFFFF := by
      rw [Cpu.index, Cpu.withIndex_as32, Cpu.withIndex]
      cases c.as32
      · simp only [Bool.false_eq_true, if_false, Gpr.get_set, if_true, low16]
        rfl
      · simp only [if_true, Gpr.get_set]
        rfl
    rw [hzero, hwraps]
    cases c.as32 <;> decide
  · exact Cpu.count_ends hzero

section Loops

variable {cond : EFlags → Bool} {disp : Byte} {s : State}

/-- A loop counts and then jumps or goes on. -/
theorem loopWhile_run (cond : EFlags → Bool) (disp : Byte) (s : State) : loopWhile cond disp s =
    if s.cpu.index .ecx ≠ 1 ∧ cond s.cpu.flags = true then jumpRel (disp.signExtend 32) s.counted
    else .ok .next s.counted := by
  have htaken : ((s.counted.cpu.index .ecx != 0 && cond s.counted.cpu.flags) = true) ↔
      (s.cpu.index .ecx ≠ 1 ∧ cond s.cpu.flags = true) := by
    rw [Bool.and_eq_true, bne_iff_ne]
    exact and_congr_left' (not_congr (Cpu.count_ends_iff s.cpu))
  rw [loopWhile, bind_ok (modifyCpu_run _ s), bind_ok (getCpu_run _), ite_run]
  exact ite_congr (propext htaken) (fun _ => rfl) fun _ => rfl

/-- A loop that goes on, to a target within the limit. -/
theorem loopWhile_taken (hmore : s.cpu.index .ecx ≠ 1) (hcond : cond s.cpu.flags = true)
    (h : s.cpu.target (s.cpu.next + disp.signExtend 32) ≤ s.cpu.segs.cs.limit) :
    loopWhile cond disp s = .ok .jumped (s.counted.wentTo (s.cpu.target (s.cpu.next + disp.signExtend 32))) := by
  rw [loopWhile_run, if_pos ⟨hmore, hcond⟩, jumpRel, bind_ok (getCpu_run _)]
  exact jumpTo_ok (s := s.counted) h

/-- A loop that goes on, to a target beyond the limit. -/
theorem loopWhile_beyond (hmore : s.cpu.index .ecx ≠ 1) (hcond : cond s.cpu.flags = true)
    (h : s.cpu.segs.cs.limit < s.cpu.target (s.cpu.next + disp.signExtend 32)) :
    loopWhile cond disp s = .error (.exc (.gp 0)) s.counted := by
  rw [loopWhile_run, if_pos ⟨hmore, hcond⟩, jumpRel, bind_ok (getCpu_run _)]
  exact jumpTo_beyond (s := s.counted) h

/-- A loop that ends. -/
theorem loopWhile_ends (h : s.cpu.index .ecx = 1 ∨ cond s.cpu.flags = false) :
    loopWhile cond disp s = .ok .next s.counted := by
  rw [loopWhile_run, if_neg]
  rintro ⟨hmore, hcond⟩
  rcases h with h | h
  · exact hmore h
  · rw [hcond] at h
    cases h

end Loops

/-! ## Jumps (R444 to R446, R449, R450) -/

section Jumps

variable {s : State}

theorem jumpRel_ok {disp : Dword} (h : s.cpu.target (s.cpu.next + disp) ≤ s.cpu.segs.cs.limit) :
    jumpRel disp s = .ok .jumped (s.wentTo (s.cpu.target (s.cpu.next + disp))) := by
  rw [jumpRel, bind_ok (getCpu_run s)]
  exact jumpTo_ok h

theorem jumpRel_beyond {disp : Dword} (h : s.cpu.segs.cs.limit < s.cpu.target (s.cpu.next + disp)) :
    jumpRel disp s = .error (.exc (.gp 0)) s := by
  rw [jumpRel, bind_ok (getCpu_run s)]
  exact jumpTo_beyond h

/-- The operand of an indirect near transfer is a target of the operand size, also once it is read. -/
theorem State.rmRead_target (s : State) (rm : RM) : (s.rmRead s.cpu.osz rm).cpu.target
    ((s.rmValue s.cpu.osz rm).setWidth 32) = (s.rmValue s.cpu.osz rm).setWidth 32 := by
  have hsame : (s.rmRead s.cpu.osz rm).cpu.target = s.cpu.target := by cases rm <;> rfl
  exact (congrFun hsame _).trans (Cpu.target_operand s (s.rmValue s.cpu.osz rm))

end Jumps

/-- Settles O27: each body is the jump or the loop, taken or not by its own condition. -/
theorem nearJumpsComplete : Obligations.NearJumpsComplete := by
  unfold Obligations.NearJumpsComplete
  intro disp full cond rm s
  refine ⟨fun hin => ⟨fun hruns => ?_, fun hcond hruns => ?_, fun hcount hruns => ?_, fun hmore hruns => ?_,
      fun hmore hzf hruns => ?_, fun hmore hzf hruns => ?_⟩,
    fun hin => ⟨fun hruns => ?_, fun hcond hruns => ?_⟩, fun hruns hsrc hin => ?_,
    fun hcond => ⟨fun hready => ?_, fun hready => ?_⟩, fun hcount hready => ?_, fun hone hready => ?_,
    fun hends hready => ?_, fun hends hready => ?_⟩
  · exact run_goes hruns (jumpRel_ok hin)
  · exact run_goes hruns (by rw [bind_ok (getFlags_run s), if_pos hcond, jumpRel_ok hin])
  · exact run_goes hruns (by rw [bind_ok (getCpu_run s), if_pos hcount, jumpRel_ok hin])
  · exact run_goes hruns (loopWhile_taken hmore rfl hin)
  · exact run_goes hruns (loopWhile_taken hmore hzf hin)
  · exact run_goes hruns (loopWhile_taken hmore (by rw [hzf]; rfl) hin)
  · exact run_goes hruns (jumpRel_ok hin)
  · exact run_goes hruns (by rw [bind_ok (getFlags_run s), if_pos hcond, jumpRel_ok hin])
  · refine run_goes hruns ?_
    rw [bind_ok (getCpu_run s), bind_ok (readRM_ok hsrc), jumpTo_ok (by rw [State.rmRead_target, State.rmRead_segs]; exact hin),
      State.rmRead_target]
    rfl
  · exact run_next hready (by rw [bind_ok (getFlags_run s), if_neg (by rw [hcond]; decide), pure_run])
  · exact run_next hready (by rw [bind_ok (getFlags_run s), if_neg (by rw [hcond]; decide), pure_run])
  · exact run_next hready (by rw [bind_ok (getCpu_run s), if_neg hcount, pure_run])
  · exact run_next hready (loopWhile_ends (.inl hone))
  · exact run_next hready (loopWhile_ends hends)
  · exact run_next hready (loopWhile_ends (hends.imp_right fun hzf => by rw [hzf]; rfl))

/-! ## CALL and RET (R442, R443, R447, R448) -/

section CallReturn

variable {sz : Sz} {s : State} {t : Dword}

/-- CALL checks its target, pushes the return offset and goes there. -/
theorem callTo_ok (hsz : s.cpu.osz = sz) (hin : s.cpu.target t ≤ s.cpu.segs.cs.limit) (hroom : s.canPush sz = true) :
    callTo t s = .ok .jumped ((s.pushed sz (s.cpu.next.setWidth sz.bits)).wentTo (s.cpu.target t)) := by
  subst hsz
  rw [callTo, bind_ok (getCpu_run s), bind_ok (requireTarget_ok hin), bind_ok (push_ok _ hroom), bind_ok (setEip_run _ _),
    pure_run]

/-- CALL to a target beyond the limit pushes nothing (R441). -/
theorem callTo_beyond (hbeyond : s.cpu.segs.cs.limit < s.cpu.target t) : callTo t s = .error (.exc (.gp 0)) s := by
  rw [callTo, bind_ok (getCpu_run s), bind_error (requireTarget_beyond hbeyond)]

/-- RET pops its target, checks it, and discards more bytes (R448). -/
theorem returnNear_ok (bytes : Dword) (hroom : s.canPeek s.cpu.osz 0 = true)
    (hin : (s.peek s.cpu.osz 0).setWidth 32 ≤ s.cpu.segs.cs.limit) : returnNear bytes s = .ok .jumped
      (((s.popped s.cpu.osz).mapCpu fun c => c.withSp (c.spPlus bytes)).wentTo ((s.peek s.cpu.osz 0).setWidth 32)) := by
  rw [returnNear, bind_ok (getCpu_run s), bind_ok (pop_ok hroom), bind_ok (requireTarget_ok (s := s.popped _) hin),
    bind_ok (modifyCpu_run _ _), bind_ok (setEip_run _ _), pure_run]

/-- RET to a target beyond the limit has popped it (R441). -/
theorem returnNear_beyond (bytes : Dword) (hroom : s.canPeek s.cpu.osz 0 = true)
    (hbeyond : s.cpu.segs.cs.limit < (s.peek s.cpu.osz 0).setWidth 32) :
    returnNear bytes s = .error (.exc (.gp 0)) (s.popped s.cpu.osz) := by
  rw [returnNear, bind_ok (getCpu_run s), bind_ok (pop_ok hroom),
    bind_error (requireTarget_beyond (s := s.popped _) hbeyond)]

/-- The stack pointer replaced by itself. -/
@[simp] theorem Cpu.withSp_sp (c : Cpu) : c.withSp c.sp = c := by
  simp only [Cpu.withSp, Cpu.sp]
  split
  · rfl
  · have hjoin : c.gpr.esp.extractLsb' 16 16 ++ ((c.gpr.esp.setWidth 16).setWidth 32).setWidth 16 = c.gpr.esp := by
      ext i hi
      simp only [BitVec.getElem_append, BitVec.getElem_setWidth, BitVec.getLsbD_setWidth, BitVec.getElem_extractLsb']
      by_cases hlow : i < 16
      · simp [hlow, hi, BitVec.getLsbD_eq_getElem]
      · simp [hlow, hi, BitVec.getLsbD_eq_getElem, Nat.add_sub_cancel' (Nat.le_of_not_lt hlow)]
    rw [hjoin]

/-- Nothing more is discarded by RET without an immediate. -/
theorem State.discard_zero (s : State) : (s.mapCpu fun c => c.withSp (c.spPlus 0)) = s := by
  simp only [State.mapCpu, BitVec.ofNat_eq_ofNat, Cpu.spPlus_zero, Cpu.withSp_sp]

end CallReturn

/-- Settles O28: the operand is read before the push, and RET is a pop with a checked target. -/
theorem nearCallReturnComplete : Obligations.NearCallReturnComplete := by
  unfold Obligations.NearCallReturnComplete
  intro full rm n s
  refine ⟨fun hruns hin hroom => ?_, fun hruns hsrc hin hroom => ?_, fun hroom hin => ⟨fun hruns => ?_, fun hruns => ?_⟩⟩
  · exact run_goes hruns (by rw [bind_ok (getCpu_run s), callTo_ok rfl hin hroom])
  · refine run_goes hruns ?_
    have hsz : (s.rmRead s.cpu.osz rm).cpu.osz = s.cpu.osz := by cases rm <;> rfl
    have hnext : (s.rmRead s.cpu.osz rm).cpu.next = s.cpu.next := by cases rm <;> rfl
    rw [bind_ok (getCpu_run s), bind_ok (readRM_ok hsrc),
      callTo_ok hsz (by rw [State.rmRead_target, State.rmRead_segs]; exact hin) (by rw [State.rmRead_canPush]; exact hroom),
      State.rmRead_target, hnext]
  · refine run_goes hruns ?_
    rw [returnNear_ok 0 hroom hin, State.discard_zero]
  · exact run_goes hruns (returnNear_ok _ hroom hin)

/-- Settles O29: the check of the target fails before anything is pushed; the registers an instruction has changed by then are put
back. -/
theorem nearTargetBeyondLimit : Obligations.NearTargetBeyondLimit := by
  unfold Obligations.NearTargetBeyondLimit
  intro disp full cond rm n s
  refine ⟨fun hbeyond => ⟨fun hruns => ?_, fun hcond hruns => ?_, fun hcount hruns => ?_, fun hmore hruns => ?_,
      fun hmore hzf hruns => ?_, fun hmore hzf hruns => ?_⟩,
    fun hbeyond => ⟨fun hruns => ?_, fun hcond hruns => ?_, fun hruns => ?_⟩,
    fun hsrc hbeyond => ?_, fun hroom hbeyond => ⟨fun hruns => ?_, fun hruns => ?_⟩⟩
  · exact run_raises hruns (jumpRel_beyond hbeyond)
  · exact run_raises hruns (by rw [bind_ok (getFlags_run s), if_pos hcond, jumpRel_beyond hbeyond])
  · exact run_raises hruns (by rw [bind_ok (getCpu_run s), if_pos hcount, jumpRel_beyond hbeyond])
  · exact run_raises_leaving hruns (loopWhile_beyond hmore rfl hbeyond) rfl
  · exact run_raises_leaving hruns (loopWhile_beyond hmore hzf hbeyond) rfl
  · exact run_raises_leaving hruns (loopWhile_beyond hmore (by rw [hzf]; rfl) hbeyond) rfl
  · exact run_raises hruns (jumpRel_beyond hbeyond)
  · exact run_raises hruns (by rw [bind_ok (getFlags_run s), if_pos hcond, jumpRel_beyond hbeyond])
  · exact run_raises hruns (by rw [bind_ok (getCpu_run s), callTo_beyond hbeyond])
  · have hbeyond' : (s.rmRead s.cpu.osz rm).cpu.segs.cs.limit <
        (s.rmRead s.cpu.osz rm).cpu.target ((s.rmValue s.cpu.osz rm).setWidth 32) := by
      rw [State.rmRead_target, State.rmRead_segs]
      exact hbeyond
    rw [← State.rmRead_restored]
    refine ⟨fun hruns => ?_, fun hruns => ?_⟩
    · exact run_raises hruns (by rw [bind_ok (getCpu_run s), bind_ok (readRM_ok hsrc), jumpTo_beyond hbeyond'])
    · exact run_raises hruns (by rw [bind_ok (getCpu_run s), bind_ok (readRM_ok hsrc), callTo_beyond hbeyond'])
  · exact run_raises hruns (returnNear_beyond 0 hroom hbeyond)
  · exact run_raises hruns (returnNear_beyond _ hroom hbeyond)

end Sys2Proof.Machine

/-! PROOFS. SETcc, ENTER and LEAVE (R480 to R482). -/

namespace Sys2Proof.Machine

section Frames

variable {size : Word} {level : Byte} {s : State}

/-- The state after ENTER sets the frame pointer and makes room (R481; log 31). -/
def State.framed (s : State) (sz : Sz) (frame : Dword) (size : Word) : State :=
  (s.mapCpu fun c => { c with gpr := { c.gpr with
    ebp := if sz = .d && c.segs.ss.big then frame else c.gpr.ebp.extractLsb' 16 16 ++ frame.setWidth 16 } }).mapCpu
      fun c => c.withSp (c.spPlus (-(size.setWidth 32)))

/-- ENTER at depth 0 pushes the frame pointer and sets it (R481). -/
theorem exec_enter_outermost (hready : s.ready (.enter size level) = true) (hdepth : level.toNat % 32 = 0)
    (hroom : s.canPush s.cpu.osz = true) :
    let t := s.pushed s.cpu.osz (s.reg s.cpu.osz .ebp)
    exec (.enter size level) s = completes s (t.framed s.cpu.osz t.cpu.sp size) := by
  refine run_next hready ?_
  rw [bind_ok (getCpu_run s), hdepth, bind_ok (push_ok _ hroom), bind_ok (getCpu_run _), if_neg (by decide)]
  rfl

/-- ENTER at a depth above 0 copies the frame pointers of the enclosing procedures and pushes its own too (R481). -/
theorem exec_enter_nested (hready : s.ready (.enter size level) = true) (hdepth : level.toNat % 32 ≠ 0)
    (hroom : s.canPush s.cpu.osz = true) :
    let sz := s.cpu.osz
    let t := s.pushed sz (s.reg sz .ebp)
    let u := t.framesCopied sz (level.toNat % 32 - 1)
    t.canCopyFrames sz (level.toNat % 32 - 1) = true → u.canPush sz = true →
    exec (.enter size level) s = completes s ((u.framePointerPushed sz t.cpu.sp).framed sz t.cpu.sp size) := by
  intro sz t u hcopy hlast
  refine run_next hready ?_
  rw [bind_ok (getCpu_run s), bind_ok (push_ok _ hroom), bind_ok (getCpu_run _), if_pos (bne_iff_ne.mpr hdepth)]
  exact (bind_ok (copyFrames_ok sz _ t hcopy)).trans (bind_ok (pushFramePointer_ok hlast))

end Frames

/-- Settles O33: SETcc is one write, ENTER its pushes and copies before the frame is set, LEAVE a pop from the frame pointer. -/
theorem frameInstructionsComplete : Obligations.FrameInstructionsComplete := by
  unfold Obligations.FrameInstructionsComplete
  intro cond rm size level s
  refine ⟨fun hready hdst => ?_, fun hready hdepth hroom => exec_enter_outermost hready hdepth hroom,
    fun hready hdepth hroom hcopy hlast => exec_enter_nested hready hdepth hroom hcopy hlast, fun hready hroom => ?_⟩
  · exact run_next hready (by rw [bind_ok (getFlags_run s), bind_ok (writeRM_ok _ hdst), pure_run])
  · refine run_next hready ?_
    rw [bind_ok (modifyCpu_run _ s), bind_ok (opSize_run true _)]
    exact bind_ok (pop_ok hroom)

end Sys2Proof.Machine

/-! PROOFS. Interrupts and exceptions (R490 to R497, R603, R620 to R622, R632 to R635): each entry is one delivery, which the laws of
Real Mode and of gates answer, and IRET reads its frame before it loads CS. -/

namespace Sys2Proof.Machine

/-! ## Exceptions (R603, R620) -/

section Exceptions

variable {e : Exc} {s t : State}

/-- The exception's own bits are applied before it is delivered, and EIP is that of the instruction (R135, R516, R671). -/
theorem takeException_run (e : Exc) (s : State) : takeException e s = deliverAt (e.event s.cpu.eip) (s.withExc e) := rfl

theorem deliverAt_ok {ev : Event} (h : deliver deliverDepth ev s = .ok () t) : deliverAt ev s = .next (settleDelivery t) := by
  rw [deliverAt, h]

/-- Another vector than 1 leaves DR7.GD (R674). -/
theorem State.withoutGd_of_ne {vector : Byte} (h : vector ≠ 1) (s : State) : s.withoutGd vector = s := by
  simp only [State.withoutGd, State.mapCpu, if_neg h]

/-- Exception 1 alone clears DR7.GD (R674). -/
theorem State.withoutGd_of_exception (vector : Byte) (s : State) :
    (if vector == 1 && EventKind.exception == .exception then s.withoutGd vector else s) = s.withoutGd vector := by
  split
  · rfl
  · next h => exact (State.withoutGd_of_ne (by simpa using h) s).symm

end Exceptions

/-- Settles O51: the exception is delivered at the first attempt. -/
theorem realModeEntry : Obligations.RealModeEntry := by
  unfold Obligations.RealModeEntry
  intro e s h
  rw [takeException_run, deliverAt_ok (deliver_real (ev := e.event s.cpu.eip) h)]
  exact congrArg (fun t => Host.Outcome.next (settleDelivery t)) (State.withoutGd_of_exception _ _)

/-- Settles O52: the exception is delivered at the first attempt, whatever the DPL of its gate. -/
theorem protectedModeEntry : Obligations.ProtectedModeEntry := by
  unfold Obligations.ProtectedModeEntry
  intro e s cla h
  have hdeliver := deliver_gate (ev := e.event s.cpu.eip) h rfl (fun hkind => nomatch hkind)
  rw [takeException_run, deliverAt_ok hdeliver]
  exact congrArg (fun t => Host.Outcome.next (settleDelivery t)) (State.withoutGd_of_exception _ _)

/-! ## INT n, INT 3 and INTO (R490 to R493) -/

section Software

variable {vector : Byte} {s : State}

/-- What can enter a Real Mode handler is in Real Mode. -/
theorem State.real_of_canEnterReal {ret : Dword} (h : s.canEnterReal vector ret = true) : s.cpu.real = true := by
  simp only [State.canEnterReal, Bool.and_eq_true] at h
  obtain ⟨⟨⟨⟨hreal, _⟩, _⟩, _⟩, _⟩ := h
  exact hreal

/-- What can enter through a gate is in Protected Mode. -/
theorem State.prot_of_canEnterGate {rf : Bool} {ret : Dword} {code : Option Word} {cla : Dword}
    (h : s.canEnterGate vector rf ret code cla = true) : s.cpu.prot = true := by
  simp only [State.canEnterGate, Bool.and_eq_true] at h
  obtain ⟨⟨⟨⟨⟨⟨⟨⟨⟨⟨⟨⟨⟨⟨⟨hprot, _⟩, _⟩, _⟩, _⟩, _⟩, _⟩, _⟩, _⟩, _⟩, _⟩, _⟩, _⟩, _⟩, _⟩, _⟩ := h
  exact hprot

/-- In Real and Protected Mode INT n is not sensitive to IOPL (R491). -/
theorem Cpu.v86_of_real {c : Cpu} (h : c.real = true) : c.v86 = false := by
  simp only [Cpu.real, Cpu.v86] at *
  simp only [Bool.not_eq_true'] at h
  rw [h, Bool.false_and]

theorem Cpu.v86_of_prot {c : Cpu} (h : c.prot = true) : c.v86 = false := by
  simp only [Cpu.prot, Cpu.v86, Bool.and_eq_true, Bool.not_eq_true'] at *
  rw [h.2, Bool.and_false]

theorem Cpu.real_of_prot {c : Cpu} (h : c.prot = true) : c.real = false := by
  simp only [Cpu.prot, Cpu.real, Bool.and_eq_true, Bool.not_eq_true'] at *
  rw [h.1, Bool.not_true]

theorem requireV86Iopl_of_not_v86 (h : s.cpu.v86 = false) : requireV86Iopl s = .ok () s :=
  requireV86Iopl_ok (by rw [h, Bool.false_and])

/-- The event a software interrupt delivers: it returns to the next instruction (R490). -/
def softwareEvent (vector : Byte) (c : Cpu) : Event :=
  { vector := vector, kind := .software, code := none, rf := false, ret := c.next, start := c.eip, nmi := false }

/-- A software interrupt is a delivery, after which Real Mode clears RF too (R490; log 29). -/
theorem softwareInterrupt_ok {t : State} (h : deliver deliverDepth (softwareEvent vector s.cpu) s = .ok () t) :
    softwareInterrupt vector s =
      .ok .interrupted (if s.cpu.real then t.withFlags { t.cpu.flags with rf := false } else t) := by
  rw [softwareInterrupt, bind_ok (getCpu_run s)]
  refine (bind_ok h).trans ?_
  cases s.cpu.real <;> rfl

/-- A software interrupt in Real Mode: RF is clear in the handler too (R490; log 29). -/
theorem softwareInterrupt_real (h : s.canEnterReal vector s.cpu.next = true) : softwareInterrupt vector s =
    .ok .interrupted ((s.realEntered vector s.cpu.next).withFlags
      { s.cpu.flags with intf := false, tf := false, nt := false, rf := false }) := by
  have hdeliver := deliver_real (ev := softwareEvent vector s.cpu) h
  rw [if_neg (by simp [softwareEvent])] at hdeliver
  rw [softwareInterrupt_ok hdeliver, if_pos (State.real_of_canEnterReal h)]
  rfl

/-- A software interrupt through a gate that the CPL may use (R491, R634). -/
theorem softwareInterrupt_gate {cla : Dword} (h : s.canEnterGate vector false s.cpu.next none cla = true)
    (hdpl : s.cpu.cpl ≤ (s.descAt (s.gateAddr vector)).dpl) : softwareInterrupt vector s =
    .ok .interrupted (s.gateEntered vector false s.cpu.next none cla) := by
  have hdeliver := deliver_gate (ev := softwareEvent vector s.cpu) h rfl fun _ => hdpl
  rw [if_neg (by simp [softwareEvent])] at hdeliver
  rw [softwareInterrupt_ok hdeliver, if_neg (by rw [Cpu.real_of_prot (State.prot_of_canEnterGate h)]; decide)]
  rfl

end Software

/-- Settles O34: the three instructions are one delivery, INTO where OF asks for it. -/
theorem softwareInterruptEntersReal : Obligations.SoftwareInterruptEntersReal := by
  unfold Obligations.SoftwareInterruptEntersReal
  intro vector s
  refine ⟨fun h hruns => ?_, fun h hruns => ?_, fun h hof hruns => ?_, fun hof hready => ?_⟩
  · have hv86 := Cpu.v86_of_real (State.real_of_canEnterReal h)
    exact run_ends hruns (by rw [bind_ok (requireV86Iopl_of_not_v86 hv86), softwareInterrupt_real h]) rfl
  · exact run_ends hruns (softwareInterrupt_real h) rfl
  · exact run_ends hruns (by rw [bind_ok (getFlags_run s), if_pos hof, softwareInterrupt_real h]) rfl
  · exact run_next hready (by rw [bind_ok (getFlags_run s), if_neg (by rw [hof]; decide), pure_run])

/-! ## BOUND (R494) -/

section Bound

variable {reg : Reg} {m : Mem} {s : State}

/-- The linear address of the upper bound: it lies above the lower one (R494). -/
def State.upperAt (s : State) (m : Mem) : Dword := s.memLinear m (BitVec.ofNat 32 s.cpu.osz.bytes)

/-- The index lies within the signed bounds in memory (R494). -/
def State.inBounds (s : State) (reg : Reg) (m : Mem) : Prop :=
  (s.loadAt (s.memLinear m 0) s.cpu.osz).toInt ≤ (s.reg s.cpu.osz reg).toInt ∧
    (s.reg s.cpu.osz reg).toInt ≤ (s.loadAt (s.upperAt m) s.cpu.osz).toInt

/-- Both bounds are read before they are compared, and the comparison decides (R494). -/
theorem exec_bound (reg : Reg) (hlower : s.memCan m 0 s.cpu.osz.bytes .read = true)
    (hupper : s.memCan m (BitVec.ofNat 32 s.cpu.osz.bytes) s.cpu.osz.bytes .read = true) :
    let t := (s.noted (s.memLinear m 0) s.cpu.osz.bytes).noted (s.upperAt m) s.cpu.osz.bytes
    (s.inBounds reg m → s.ready (.bound reg m) = true → exec (.bound reg m) s = completes s t) ∧
    (¬ s.inBounds reg m → s.mayRun (.bound reg m) = true →
      exec (.bound reg m) s = takeException .br { t with cpu := s.cpu }) := by
  intro t
  have hread : readMem s.cpu.osz m (BitVec.ofNat 32 s.cpu.osz.bytes) (s.noted (s.memLinear m 0) s.cpu.osz.bytes) =
      .ok (s.loadAt (s.upperAt m) s.cpu.osz) t := readMem_ok hupper
  have hcompare : (!((s.cpu.gpr.read s.cpu.osz reg).slt (s.loadAt (s.memLinear m 0) s.cpu.osz) ||
      (s.loadAt (s.upperAt m) s.cpu.osz).slt (s.cpu.gpr.read s.cpu.osz reg))) = true ↔ s.inBounds reg m := by
    simp only [BitVec.slt, Bool.not_eq_true', Bool.or_eq_false_iff, decide_eq_false_iff_not, Int.not_lt]
    rfl
  refine ⟨fun hin hready => run_next hready ?_, fun hout hruns => run_raises hruns ?_⟩
  · rw [bind_ok (getCpu_run s), bind_ok (readMem_ok hlower), bind_ok hread, bind_ok, pure_run]
    rw [require_run, if_pos (hcompare.mpr hin)]
  · rw [bind_ok (getCpu_run s), bind_ok (readMem_ok hlower), bind_ok hread, bind_error]
    rw [require_run, if_neg (mt hcompare.mp hout)]

end Bound

/-- Settles O35: both bounds are read, and the signed comparison decides. -/
theorem boundCompletes : Obligations.BoundCompletes := by
  unfold Obligations.BoundCompletes
  intro reg m s
  dsimp only
  intro hlower hupper
  obtain ⟨hin, hout⟩ := exec_bound reg hlower hupper
  refine ⟨fun hlow hhigh hready => hin ⟨hlow, hhigh⟩ hready, fun houtside hruns => hout ?_ hruns⟩
  rintro ⟨hlow, hhigh⟩
  rcases houtside with hbelow | habove
  · exact absurd hlow (Int.not_le.mpr hbelow)
  · exact absurd hhigh (Int.not_le.mpr habove)

end Sys2Proof.Machine

/-! PROOFS. IRET (R495 to R497), and what it shares with far RET: the items of a return frame and the code segment they name. -/

namespace Sys2Proof.Machine

/-- A requirement that is met changes nothing. -/
theorem require_bind {α : Type} {c : Bool} {e : Exc} {f : Unit → M α} {s : State} (h : c = true) :
    (require c e >>= f) s = f () s := by
  rw [h, require_true, bind_ok (pure_run () s)]

/-- A requirement that is not met raises its exception. -/
theorem require_raises {α : Type} {c : Bool} {e : Exc} {f : Unit → M α} {s : State} (h : c = false) :
    (require c e >>= f) s = .error (.exc e) s := by
  rw [h, require_false, bind_error (raiseExc_run e s)]

/-! ## The items of a return frame (R456, R495) -/

section Items

variable {sz : Sz} {s : State}

/-- The state after the program reads the offset and the selector of a return frame in place. -/
def State.returnRead (s : State) (sz : Sz) : State :=
  (s.noted (s.stackLinear 0) sz.bytes).noted (s.stackLinear (BitVec.ofNat 32 sz.bytes)) sz.bytes

/-- The state after the program reads the flags of an interrupt frame too. -/
def State.frameRead (s : State) (sz : Sz) : State :=
  (s.returnRead sz).noted (s.stackLinear (BitVec.ofNat 32 sz.bytes + BitVec.ofNat 32 sz.bytes)) sz.bytes

@[simp] theorem State.returnRead_descAt (s : State) (sz : Sz) (la : Dword) : (s.returnRead sz).descAt la = s.descAt la := rfl

@[simp] theorem State.frameRead_descAt (s : State) (sz : Sz) (la : Dword) : (s.frameRead sz).descAt la = s.descAt la := rfl

theorem State.frameRead_cpl (s : State) (sz : Sz) : (s.frameRead sz).cpu.cpl = s.cpu.cpl := rfl

theorem stackItem_one_ok (h : s.canPeek sz (BitVec.ofNat 32 sz.bytes) = true) :
    stackItem sz 1 s = .ok (s.peek sz (BitVec.ofNat 32 sz.bytes))
      (s.noted (s.stackLinear (BitVec.ofNat 32 sz.bytes)) sz.bytes) := by
  have hitem := stackItem_ok (s := s) (sz := sz) (i := 1) (by rw [Nat.one_mul]; exact h)
  rwa [Nat.one_mul] at hitem

theorem stackItem_two_ok (h : s.canPeek sz (BitVec.ofNat 32 sz.bytes + BitVec.ofNat 32 sz.bytes) = true) :
    stackItem sz 2 s = .ok (s.peek sz (BitVec.ofNat 32 sz.bytes + BitVec.ofNat 32 sz.bytes))
      (s.noted (s.stackLinear (BitVec.ofNat 32 sz.bytes + BitVec.ofNat 32 sz.bytes)) sz.bytes) := by
  have htwo : BitVec.ofNat 32 (2 * sz.bytes) = BitVec.ofNat 32 sz.bytes + BitVec.ofNat 32 sz.bytes := by
    rw [Nat.two_mul, BitVec.ofNat_add]
  have hitem := stackItem_ok (s := s) (sz := sz) (i := 2) (by rw [htwo]; exact h)
  rwa [htwo] at hitem

/-- The offset and the selector of a return frame are read. -/
theorem returnRead_bind {α : Type} {f : BitVec sz.bits → BitVec sz.bits → M α} (hoff : s.canPeek sz 0 = true)
    (hsel : s.canPeek sz (BitVec.ofNat 32 sz.bytes) = true) :
    (do let off ← stackItem sz 0
        let sel ← stackItem sz 1
        f off sel) s = f (s.peek sz 0) (s.peek sz (BitVec.ofNat 32 sz.bytes)) (s.returnRead sz) :=
  (bind_ok (stackItem_zero_ok hoff)).trans (bind_ok (stackItem_one_ok (s := s.noted _ _) hsel))

/-- The offset, the selector and the flags of an interrupt frame are read. -/
theorem frameRead_bind {α : Type} {f : BitVec sz.bits → BitVec sz.bits → BitVec sz.bits → M α} (hoff : s.canPeek sz 0 = true)
    (hsel : s.canPeek sz (BitVec.ofNat 32 sz.bytes) = true)
    (hflags : s.canPeek sz (BitVec.ofNat 32 sz.bytes + BitVec.ofNat 32 sz.bytes) = true) :
    (do let off ← stackItem sz 0
        let sel ← stackItem sz 1
        let flags ← stackItem sz 2
        f off sel flags) s = f (s.peek sz 0) (s.peek sz (BitVec.ofNat 32 sz.bytes))
          (s.peek sz (BitVec.ofNat 32 sz.bytes + BitVec.ofNat 32 sz.bytes)) (s.frameRead sz) :=
  (returnRead_bind hoff hsel).trans (bind_ok (stackItem_two_ok (s := s.returnRead sz) hflags))

/-- An offset of a return frame outside Protected Mode lies within the segment (R456, R495). -/
theorem setWidth_le_ffff {v : BitVec sz.bits} (h : v.toNat ≤ 0xFFFF) : v.setWidth 32 ≤ (0xFFFF : Dword) := by
  rw [BitVec.le_def, BitVec.toNat_setWidth]
  exact Nat.le_trans (Nat.mod_le _ _) h

end Items

/-! ## The code segment a return names (R460, R497) -/

section ReturnCode

variable {s : State} {sel : Word} {la : Dword}

/-- Whether a code segment is of the same level depends on the CPL alone. -/
theorem sameLevelCode_congr {c e : Cpu} {d : Desc} (h : e.cpl = c.cpl) : sameLevelCode e sel d = sameLevelCode c sel d := by
  rw [sameLevelCode, sameLevelCode, h]

/-- A return within the level passes the checks of its code segment. -/
theorem checkReturnCode_ok (hpg : s.cpu.cr0.pg = false) (hnull : isNull sel = false) (hrpl : rpl sel = s.cpu.cpl)
    (hla : descriptorAddr s.cpu sel = some la) (hcode : sameLevelCode s.cpu sel (s.descAt la) = true) :
    checkReturnCode sel s = .ok (s.descAt la) (s.descLoaded la) := by
  simp only [sameLevelCode, Bool.and_eq_true] at hcode
  obtain ⟨⟨hexec, hpresent⟩, hlevel⟩ := hcode
  have hdpl : (if (s.descAt la).ec then decide ((s.descAt la).dpl ≤ rpl sel) else (s.descAt la).dpl == rpl sel) = true := by
    rw [hrpl]
    split
    · next hec => rwa [if_pos hec] at hlevel
    · next hec => rw [if_neg hec] at hlevel; exact (Bool.and_eq_true _ _ ▸ hlevel).2
  have hcpl : decide (s.cpu.cpl ≤ rpl sel) = true := by rw [hrpl]; exact decide_eq_true (BitVec.le_refl _)
  rw [checkReturnCode, bind_ok (getCpu_run s), require_bind (by rw [hnull]; rfl), require_bind hcpl,
    bind_ok (readDescriptor_ok hpg hla), require_bind hexec, require_bind hdpl, require_bind hpresent, pure_run]

end ReturnCode

/-! ## IRET (R495 to R497) -/

section Iret

variable {s : State}

/-- The stack pointer after IRET discards its frame. -/
def State.frameDropped (s : State) (sz : Sz) : State :=
  (s.frameRead sz).mapCpu fun c => c.withSp (c.spPlus (BitVec.ofNat 32 (3 * sz.bytes)))

/-- The flags IRET loads: RF from a 32-bit image alone (R496, R497). -/
def EFlags.returned (g : EFlags) (sz : Sz) (f : BitVec sz.bits) (iopl intf : Bool) : EFlags :=
  { g.loadImage (f.setWidth 16) iopl intf with rf := if sz = .d then f.getLsbD 16 else g.rf }

/-- IRET in Real Mode, and in Virtual 8086 Mode where IOPL is 3 (R495, R496). -/
theorem iretReal_ok {sz : Sz} (hsz : s.cpu.osz = sz) (hprot : s.cpu.prot = false)
    (hallows : (s.cpu.real || s.cpu.flags.iopl == 3) = true)
    (hoff : s.canPeek sz 0 = true) (hsel : s.canPeek sz (BitVec.ofNat 32 sz.bytes) = true)
    (hflags : s.canPeek sz (BitVec.ofNat 32 sz.bytes + BitVec.ofNat 32 sz.bytes) = true)
    (hroom : s.cpu.allows .ss (s.cpu.spPlus 0) (3 * sz.bytes) .read = true) (hin : (s.peek sz 0).toNat ≤ 0xFFFF) :
    iretReal s = .ok () (((s.frameDropped sz).enteredCode8086 ((s.peek sz (BitVec.ofNat 32 sz.bytes)).setWidth 16)
      ((s.peek sz 0).setWidth 32)).withFlags (s.cpu.flags.returned sz
        (s.peek sz (BitVec.ofNat 32 sz.bytes + BitVec.ofNat 32 sz.bytes)) s.cpu.real true)) := by
  subst hsz
  rw [iretReal, bind_ok (getCpu_run s), require_bind hallows, bind_ok (requireStack_ok hroom),
    frameRead_bind hoff hsel hflags, require_bind (decide_eq_true (setWidth_le_ffff hin)), bind_ok (modifyCpu_run _ _),
    bind_ok (loadCodeReal_ok (by exact hprot))]
  rfl

/-- A transfer to a code segment leaves the flags. -/
@[simp] theorem State.enteredCode_flags (s : State) (sel : Word) (la : Dword) (d : Desc) (level : BitVec 2) (off : Dword) :
    (s.enteredCode sel la d level off).cpu.flags = s.cpu.flags := by
  simp only [State.enteredCode, State.mapCpu_cpu, State.marked_cpu]

/-- IRET within the level in Protected Mode, its frame read (R497). -/
theorem iretProtected_ok {sel : Word} {la off f : Dword} {d : Desc} {level : BitVec 2} {g : EFlags} (sz : Sz)
    (hpg : s.cpu.cr0.pg = false) (hd : s.descAt la = d) (hlevel : s.cpu.cpl = level) (hg : s.cpu.flags = g)
    (hnull : isNull sel = false) (hrpl : rpl sel = level) (hla : descriptorAddr s.cpu sel = some la)
    (hcode : sameLevelCode s.cpu sel d = true) (hin : off ≤ d.limit) :
    iretProtected sz off sel f s = .ok () ((((s.descLoaded la).mapCpu fun c =>
      c.withSp (c.spPlus (BitVec.ofNat 32 (3 * sz.bytes)))).enteredCode sel la d level off).withFlags
        (iretFlags level sz f g)) := by
  subst hd hlevel hg
  rw [iretProtected, bind_ok (getCpu_run s), bind_ok (checkReturnCode_ok hpg hnull hrpl hla hcode),
    if_pos (beq_iff_eq.mpr hrpl), require_bind (decide_eq_true hin), bind_ok (modifyCpu_run _ _), hrpl,
    bind_ok (enterCode_ok _ (by exact hpg) (by exact hla)), modifyFlags_run, State.enteredCode_flags]
  rfl

/-- The operand size is 32 bits where the items are dwords. -/
theorem Cpu.os32_eq (c : Cpu) : c.os32 = decide (c.osz = .d) := by
  rw [Cpu.osz]
  cases c.os32 <;> rfl

end Iret

/-- Settles O36: outside Protected Mode IRET is one sequence, which ends NMI service. -/
theorem iret8086Completes : Obligations.Iret8086Completes := by
  unfold Obligations.Iret8086Completes
  intro s
  dsimp only
  intro hprot hallows hsettled hruns hoff hsel hflags hroom hin
  refine run_ends hruns ?_ rfl
  rw [interruptReturn, bind_ok (requireSettledMode_ok hsettled), bind_ok (getCpu_run s), if_pos (by rw [hprot]; rfl)]
  exact bind_ok (iretReal_ok rfl hprot hallows hoff hsel hflags hroom hin)

/-- Settles O37: the three software interrupts are one delivery through the gate; IRET reads its frame and returns to the code
segment it names. -/
theorem interruptSameLevelCompletes : Obligations.InterruptSameLevelCompletes := by
  unfold Obligations.InterruptSameLevelCompletes
  intro vector la s
  refine ⟨fun hruns h hdpl => ?_, fun hruns h hdpl => ?_, fun hof hruns h hdpl => ?_, ?_⟩
  · have hv86 := Cpu.v86_of_prot (State.prot_of_canEnterGate h)
    exact run_ends hruns (by rw [bind_ok (requireV86Iopl_of_not_v86 hv86), softwareInterrupt_gate h hdpl]) rfl
  · exact run_ends hruns (softwareInterrupt_gate h hdpl) rfl
  · exact run_ends hruns (by rw [bind_ok (getFlags_run s), if_pos hof, softwareInterrupt_gate h hdpl]) rfl
  · intro hprot hpg hsettled hnt hruns hoff hsel hflags hroom hv86 hnull hrpl hla hcode hin
    refine run_ends hruns ?_ rfl
    rw [interruptReturn, bind_ok (requireSettledMode_ok hsettled), bind_ok (getCpu_run s),
      if_neg (by rw [hprot]; decide), if_neg (by rw [hnt]; decide), bind_ok (requireStack_ok hroom),
      frameRead_bind hoff hsel hflags, if_neg (by rw [Cpu.os32_eq, hv86]; decide)]
    rw [bind_ok (iretProtected_ok (s := s.frameRead s.cpu.osz) (g := s.cpu.flags) s.cpu.osz hpg
      (State.frameRead_descAt s _ la) (State.frameRead_cpl s _) rfl hnull hrpl ((descriptorAddr_congr rfl rfl _).trans hla)
      ((sameLevelCode_congr (State.frameRead_cpl s _)).trans hcode) hin)]
    rfl

end Sys2Proof.Machine

/-! PROOFS. Processor control: HLT, NOP, WAIT, the prefixes, the special registers (R203, R204, R511 to R521). -/

namespace Sys2Proof.Machine

/-- Settles O58: the invariant is read off the reset state. -/
theorem resetMeetsInvariant : Obligations.ResetMeetsInvariant := by
  unfold Obligations.ResetMeetsInvariant
  exact ⟨rfl, rfl, rfl⟩

/-- Settles O38: each prefix is one change of the decode register; WAIT looks at the coprocessor before it goes on. -/
theorem haltNopWaitPrefixesComplete : Obligations.HaltNopWaitPrefixesComplete := by
  unfold Obligations.HaltNopWaitPrefixesComplete
  refine ⟨fun s => ⟨fun hready => ?_, fun hready => ?_, fun hpresent => ⟨fun hbusy herror hready => ?_,
    fun hbusy herror hruns => ?_, fun hbusy hruns => ?_⟩, fun hswitched hruns => ?_⟩, rfl, fun s =>
    ⟨rfl, rfl, rfl, rfl, rfl, rfl, rfl, rfl, rfl, rfl, rfl⟩⟩
  · exact run_next hready (by rw [bind_ok (modifyCpu_run _ s), bind_ok (emit_run _ _), pure_run])
  · exact run_next hready rfl
  · refine run_next hready ?_
    rw [bind_ok (getState_run s), require_bind (by rw [hpresent]; rfl), if_neg (by rw [hbusy]; decide),
      require_bind (by rw [herror]; rfl), pure_run]
  · refine run_raises hruns ?_
    rw [bind_ok (getState_run s), require_bind (by rw [hpresent]; rfl), if_neg (by rw [hbusy]; decide),
      require_raises (by rw [herror]; rfl)]
  · refine run_ends hruns ?_ rfl
    rw [bind_ok (getState_run s), require_bind (by rw [hpresent]; rfl), if_pos hbusy, pure_run]
  · refine run_raises hruns ?_
    rw [bind_ok (getState_run s), require_raises (by rw [hswitched]; rfl)]

/-! ## Special registers (R512 to R519) -/

/-- A MOV to or from a special register leaves the six status flags free (R512; log 30). -/
theorem afterSpecialMove_run (s : State) :
    afterSpecialMove s = .ok .next (s.drawn.withFlags (s.cpu.flags.freeAll s.freeVal)) := rfl

/-- Settles O39: each move is one write, after which the status flags are free; PG without PE fails its check. -/
theorem controlRegisterMoves : Obligations.ControlRegisterMoves := by
  unfold Obligations.ControlRegisterMoves
  intro r s
  refine ⟨fun hlegal hready => ?_, fun hpg hpe hruns => ?_, fun hready => ?_, fun hready => ?_, fun cr hready => ?_⟩
  · refine run_next hready ?_
    have hcheck : (!((s.cpu.gpr.get r).getLsbD 31 && !(s.cpu.gpr.get r).getLsbD 0)) = true := by
      rcases hlegal with hpg | hpe
      · rw [hpg]
        rfl
      · rw [hpe, Bool.not_true, Bool.and_false]
        rfl
    rw [bind_ok (readReg_run .d r s)]
    exact require_bind hcheck
  · refine run_raises hruns ?_
    have hcheck : (!((s.cpu.gpr.get r).getLsbD 31 && !(s.cpu.gpr.get r).getLsbD 0)) = false := by rw [hpg, hpe]; rfl
    rw [bind_ok (readReg_run .d r s)]
    exact require_raises hcheck
  · exact run_next hready rfl
  · exact run_next hready rfl
  · exact run_next hready rfl

/-- A dword register is the whole register. -/
theorem State.reg_dword (s : State) (r : Reg) : s.reg .d r = s.cpu.gpr.get r := rfl

section Debug

variable {s : State} {d : DReg}

/-- DR7.GD guards the debug registers (R516). -/
theorem requireNoGd_ok (h : s.cpu.dbg.dr7.getLsbD 13 = false) : requireNoGd s = .ok () s := by
  rw [requireNoGd, bind_ok (getCpu_run s), h]
  rfl

theorem requireNoGd_raises (h : s.cpu.dbg.dr7.getLsbD 13 = true) : requireNoGd s = .error (.exc (.db 0x2000)) s := by
  rw [requireNoGd, bind_ok (getCpu_run s), h]
  rfl

/-- A value without undefined codes is written (R516). -/
theorem setDebugReg_ok {v : Dword} (h : d = .dr7 → undefinedBreakpoint v = false) :
    setDebugReg d v s = .ok () (s.mapCpu fun c => { c with dbg := c.dbg.set d v }) := by
  rw [setDebugReg, if_neg, modifyCpu_run]
  rw [Bool.and_eq_true, decide_eq_true_eq]
  rintro ⟨h7, hcode⟩
  rw [h h7] at hcode
  cases hcode

/-- An undefined code in DR7 is refused (R68, U15). -/
theorem setDebugReg_refused {v : Dword} (h7 : d = .dr7) (hcode : undefinedBreakpoint v = true) :
    setDebugReg d v s = .error (.refuse .undefinedBreakpointCode) s := by
  rw [setDebugReg, if_pos (by rw [hcode, decide_eq_true h7]; rfl), refuse_run]

/-- An instruction that is refused by name. -/
theorem run_refused {i : Instr} {body : M Ending} {s t : State} {r : Refusal} (hruns : s.mayRun i = true)
    (hbody : body s = .error (.refuse r) t) : run i body s = .refused r := by
  rw [run_mayRun hruns, hbody]
  rfl

/-- What may run has passed its decode checks (R245). -/
theorem State.decodes_of_mayRun {i : Instr} (h : s.mayRun i = true) : decodeFault i s.cpu = false := by
  simp only [State.mayRun, Bool.and_eq_true, Bool.not_eq_true'] at h
  exact h.1

/-- MOV to and from another debug register than DR4 and DR5 runs in the usual shell. -/
theorem exec_movDrReg (h4 : d ≠ .dr4) (h5 : d ≠ .dr5) {r : Reg} (hruns : s.mayRun (.movDrReg d r) = true) :
    exec (.movDrReg d r) s = run (.movDrReg d r) (do
      requireNoGd
      let v ← readReg .d r
      setDebugReg d v
      afterSpecialMove) s :=
  runDebug_eq_run (State.decodes_of_mayRun hruns) h4 h5

theorem exec_movRegDr (h4 : d ≠ .dr4) (h5 : d ≠ .dr5) {r : Reg} (hruns : s.mayRun (.movRegDr r d) = true) :
    exec (.movRegDr r d) s = run (.movRegDr r d) (do
      requireNoGd
      let c ← getCpu
      writeReg .d r (c.dbg.get d)
      afterSpecialMove) s :=
  runDebug_eq_run (State.decodes_of_mayRun hruns) h4 h5

end Debug

/-- Settles O40: DR7.GD is looked at first, then each move is one write, after which the status flags are free. -/
theorem debugAndTestMoves : Obligations.DebugAndTestMoves := by
  unfold Obligations.DebugAndTestMoves
  intro r d t s
  refine ⟨fun h4 h5 hgd => ⟨fun hcode hready => ?_, fun h7 hcode hruns => ?_, fun hready => ?_⟩,
    fun h4 h5 hgd => ⟨fun hruns => ?_, fun hruns => ?_⟩, fun hd => ⟨fun hruns => ?_, fun hruns => ?_⟩, fun hready => ?_,
    fun hready => ?_⟩
  · rw [exec_movDrReg h4 h5 (State.mayRun_of_ready hready)]
    refine run_next hready ?_
    rw [bind_ok (requireNoGd_ok hgd), bind_ok (readReg_run .d r s), State.reg_dword,
      bind_ok (setDebugReg_ok hcode), afterSpecialMove_run]
    rfl
  · rw [exec_movDrReg h4 h5 hruns]
    refine run_refused (t := s) hruns ?_
    rw [bind_ok (requireNoGd_ok hgd), bind_ok (readReg_run .d r s), State.reg_dword,
      bind_error (setDebugReg_refused h7 hcode)]
  · rw [exec_movRegDr h4 h5 (State.mayRun_of_ready hready)]
    exact run_next hready (bind_ok (requireNoGd_ok hgd))
  · rw [exec_movDrReg h4 h5 hruns]
    exact run_raises hruns (bind_error (requireNoGd_raises hgd))
  · rw [exec_movRegDr h4 h5 hruns]
    exact run_raises hruns (bind_error (requireNoGd_raises hgd))
  · exact runDebug_reserved (State.decodes_of_mayRun hruns) hd
  · exact runDebug_reserved (State.decodes_of_mayRun hruns) hd
  · exact run_next hready rfl
  · exact run_next hready rfl

end Sys2Proof.Machine

/-! PROOFS. The coprocessor escape (R522, R524, R525, R612): its checks, made once, and what it sends and moves after them. -/

namespace Sys2Proof.Machine

/-! ## The checks (R522, R615; log 46) -/

section Checks

variable {s : State} {m : Mem} {exempt : Bool} {rm : RM}

/-- The word at the effective address itself. -/
theorem State.memOff_zero (s : State) (m : Mem) : s.memOff m 0 = memOffset s.cpu.gpr m := by
  simp only [State.memOff, memOffset, memWrap, BitVec.ofNat_eq_ofNat, BitVec.add_zero]
  split <;> simp

/-- The first word of a memory operand may be accessed as the first request asks (R522; log 46). -/
def State.coReaches (s : State) (m : Mem) : Bool :=
  s.memCan m 0 2 (if storesFirst s.env.coRequests then .write else .read)

theorem checkCoOperand_ok (h : s.coReaches m = true) : checkCoOperand (.mem m) s.env.coRequests s = .ok () s := by
  rw [State.coReaches, State.memCan, State.memOff_zero, State.canAccess, Bool.and_eq_true, Bool.not_eq_true'] at h
  obtain ⟨hpg, hallows⟩ := h
  have hcheck : segCheck (memSegment s.cpu m) (memOffset s.cpu.gpr m) 2
      (if storesFirst s.env.coRequests then .verify else .peek) s =
      .ok (s.cpu.linear (memSegment s.cpu m) (memOffset s.cpu.gpr m)) s := by
    refine segCheck_ok ?_
    cases hfirst : storesFirst s.env.coRequests
    · rw [hfirst] at hallows
      exact hallows
    · rw [hfirst] at hallows
      exact hallows
  rw [checkCoOperand, bind_ok (getCpu_run s), bind_ok hcheck, bind_ok (translate_off hpg _ _ _ _), pure_run]

/-- The coprocessor is available and reports no error that the ESC heeds (R522). -/
def State.coAvailable (s : State) (exempt : Bool) : Bool :=
  !s.cpu.cr0.em && !s.cpu.cr0.ts && (exempt || !s.env.error)

/-- The checks of ESC pass. -/
theorem escChecks_ok (h : s.coAvailable exempt = true) (hop : checkCoOperand rm s.env.coRequests s = .ok () s) :
    escChecks exempt rm s = .ok () s := by
  simp only [State.coAvailable, Bool.and_eq_true] at h
  obtain ⟨⟨hem, hts⟩, herror⟩ := h
  rw [escChecks, bind_ok (getState_run s), require_bind (by rw [Bool.not_or, hem, hts]; rfl), require_bind herror, hop]

/-- EM or TS raises exception 7 (R522). -/
theorem escChecks_absent (h : (s.cpu.cr0.em || s.cpu.cr0.ts) = true) : escChecks exempt rm s = .error (.exc .nm) s := by
  rw [escChecks, bind_ok (getState_run s), require_raises (by rw [h]; rfl)]

/-- An error reported raises exception 16 (R522). -/
theorem escChecks_error (h : (s.cpu.cr0.em || s.cpu.cr0.ts) = false) (hheeds : exempt = false) (herror : s.env.error = true) :
    escChecks exempt rm s = .error (.exc .mf) s := by
  rw [escChecks, bind_ok (getState_run s), require_bind (by rw [h]; rfl), require_raises (by rw [hheeds, herror]; rfl)]

end Checks

/-! ## The words of the operand (R522, R524) -/

section Words

variable {m : Mem}

theorem moveWord_ok {s : State} {k : Dword} {r : CoRequest} (h : s.canCoMove m k r = true) :
    moveWord m k r s = .ok () (s.coMoved m k r) := by
  cases r with
  | toMemory v => exact writeMem_ok (sz := .w) (s := s.traced (.coRead (coOperandPort k) v)) (m := m) (k := k) v h
  | fromMemory => exact bind_ok (readMem_ok (sz := .w) (m := m) (k := k) h)

theorem moveRest_ok (n : Nat) : ∀ (reqs : List CoRequest) (k : Dword) (s : State), s.canCoMoveAll m k reqs = true →
    moveRest m n k reqs s = .ok () (s.coMovedAll m k reqs) := by
  intro reqs
  induction reqs with
  | nil => intro k s _; rfl
  | cons r rest ih =>
    intro k s h
    simp only [State.canCoMoveAll, Bool.and_eq_true] at h
    obtain ⟨hword, hrest⟩ := h
    rw [moveRest, bind_ok (attempt_ok (moveWord_ok hword))]
    exact ih _ _ hrest

theorem moveOperand_ok {s : State} {reqs : List CoRequest} (h : s.canCoMoveAll m 0 reqs = true) :
    moveOperand m reqs s = .ok () (s.coMovedAll m 0 reqs) := by
  cases reqs with
  | nil => rfl
  | cons r rest =>
    simp only [State.canCoMoveAll, Bool.and_eq_true] at h
    obtain ⟨hword, hrest⟩ := h
    rw [moveOperand, bind_ok (moveWord_ok hword)]
    exact moveRest_ok _ rest _ _ hrest

/-- A register form other than FNSTSW AX moves no word (R525). -/
theorem storeStatusWord_none {ttt lll : BitVec 3} {r : Reg} (h : ¬ (ttt = 7 ∧ lll = 4 ∧ r = .eax)) (reqs : List CoRequest)
    (s : State) : storeStatusWord ttt lll r reqs s = .ok () s := by
  cases reqs with
  | nil => rfl
  | cons x rest =>
    cases x with
    | toMemory v =>
      have hother : (ttt == 7 && lll == 4 && r == .eax) = false := by
        rw [Bool.eq_false_iff]
        simpa only [ne_eq, Bool.and_eq_true, beq_iff_eq, and_assoc] using h
      rw [storeStatusWord, hother]
      rfl
    | fromMemory => rfl

/-- Where the coprocessor stores no word first, FNSTSW AX writes nothing (R525). -/
theorem storeStatusWord_unasked (ttt lll : BitVec 3) (r : Reg) {reqs : List CoRequest} (h : storesFirst reqs = false)
    (s : State) : storeStatusWord ttt lll r reqs s = .ok () s := by
  cases reqs with
  | nil => rfl
  | cons x rest =>
    cases x with
    | toMemory v => cases h
    | fromMemory => rfl

end Words

/-! ## ESC (R522) -/

section Esc

variable {ttt lll : BitVec 3} {rm : RM} {s : State}

/-- What ESC does once its checks are behind it: it stalls, or sends its opcode and moves what is asked for. -/
def escGoesOn (ttt lll : BitVec 3) (rm : RM) (s : State) : M Ending :=
  if s.env.busy && !escExempt ttt lll rm then pure .stalled
  else do
    emit (.coOpcode ttt lll rm)
    modifyEnv fun e => { e with coRequests := [] }
    match rm with
    | .reg r => storeStatusWord ttt lll r s.env.coRequests
    | .mem m => moveOperand m s.env.coRequests
    pure .next

/-- ESC makes its checks unless they are behind it, and goes on (R522, R612). -/
def escBody (ttt lll : BitVec 3) (rm : RM) : M Ending := do
  let s ← getState
  if s.cpu.escWaiting then escGoesOn ttt lll rm s
  else do
    escChecks (escExempt ttt lll rm) rm
    escGoesOn ttt lll rm s

theorem exec_esc (ttt lll : BitVec 3) (rm : RM) (s : State) :
    exec (.esc ttt lll rm) s = run (.esc ttt lll rm) (escBody ttt lll rm) s := by
  rfl

/-- The checks of ESC are behind it, made now or before (R522, R612). -/
theorem escBody_checked (h : s.cpu.escWaiting = true ∨ escChecks (escExempt ttt lll rm) rm s = .ok () s) :
    escBody ttt lll rm s = escGoesOn ttt lll rm s s := by
  rw [escBody, bind_ok (getState_run s)]
  rcases h with hwaiting | hchecks
  · rw [if_pos hwaiting]
  · rw [ite_run, bind_ok hchecks, ite_self]

/-- A check of ESC fails. -/
theorem escBody_raises {e : Exc} (hwaiting : s.cpu.escWaiting = false)
    (h : escChecks (escExempt ttt lll rm) rm s = .error (.exc e) s) : escBody ttt lll rm s = .error (.exc e) s := by
  rw [escBody, bind_ok (getState_run s), if_neg (by rw [hwaiting]; decide), bind_error h]

/-- An ESC that heeds BUSY# stalls while it is active (R522). -/
theorem escGoesOn_stalls (hheeds : escExempt ttt lll rm = false) (hbusy : s.env.busy = true) :
    escGoesOn ttt lll rm s s = .ok .stalled s := by
  rw [escGoesOn, if_pos (by rw [hheeds, hbusy]; rfl), pure_run]

/-- The words a form of ESC moves (R522, R525). -/
def escMoves (ttt lll : BitVec 3) (rm : RM) (reqs : List CoRequest) : M Unit :=
  match rm with
  | .reg r => storeStatusWord ttt lll r reqs
  | .mem m => moveOperand m reqs

/-- Otherwise it sends its opcode and moves its words. -/
theorem escGoesOn_sends {t : State} (hfree : (escExempt ttt lll rm || !s.env.busy) = true)
    (hmoves : escMoves ttt lll rm s.env.coRequests (s.coSent ttt lll rm) = .ok () t) :
    escGoesOn ttt lll rm s s = .ok .next t := by
  have hready : (s.env.busy && !escExempt ttt lll rm) = false := by
    rw [Bool.and_comm, ← Bool.not_eq_true', Bool.not_and, Bool.not_not]
    exact hfree
  rw [escGoesOn, if_neg (by rw [hready]; decide)]
  cases rm <;> exact bind_ok hmoves

/-- What ESC may go on after: its checks are behind it, or pass now. -/
def State.escPasses (s : State) (ttt lll : BitVec 3) (rm : RM) : Bool :=
  s.cpu.escWaiting || s.coAvailable (escExempt ttt lll rm)

theorem escBody_reg {r : Reg} (h : s.escPasses ttt lll (.reg r) = true) :
    escBody ttt lll (.reg r) s = escGoesOn ttt lll (.reg r) s s := by
  rw [State.escPasses, Bool.or_eq_true] at h
  exact escBody_checked (h.imp_right fun havailable => escChecks_ok havailable rfl)

theorem escBody_mem {m : Mem} (h : s.escPasses ttt lll (.mem m) = true) (hop : (s.cpu.escWaiting || s.coReaches m) = true) :
    escBody ttt lll (.mem m) s = escGoesOn ttt lll (.mem m) s s := by
  rw [State.escPasses, Bool.or_eq_true] at h
  rw [Bool.or_eq_true] at hop
  refine escBody_checked ?_
  rcases h, hop with ⟨hwaiting | havailable, hwaiting | hreaches⟩
  · exact .inl hwaiting
  · exact .inl hwaiting
  · exact .inl hwaiting
  · exact .inr (escChecks_ok havailable (checkCoOperand_ok hreaches))

end Esc

/-- Settles O41: the checks pass, or are behind the instruction; then BUSY# decides, and the words asked for are moved. -/
theorem escCompletes : Obligations.EscCompletes := by
  unfold Obligations.EscCompletes
  intro ttt lll r m s
  simp only [exec_esc]
  refine ⟨fun rm hwaiting hruns => ⟨fun habsent => ?_, fun hpresent hheeds herror => ?_⟩,
    fun hpass => ⟨fun hfree hother hready => ?_, fun hheeds hbusy hruns => ?_⟩,
    fun hpass hop => ⟨fun hfree hwords hready => ?_, fun hheeds hbusy hruns => ?_⟩,
    fun hpass ht hl hready => ?_⟩
  · exact run_raises hruns (escBody_raises hwaiting (escChecks_absent habsent))
  · exact run_raises hruns (escBody_raises hwaiting (escChecks_error hpresent hheeds herror))
  · exact run_next hready ((escBody_reg hpass).trans (escGoesOn_sends hfree (storeStatusWord_none hother _ _)))
  · exact run_ends hruns ((escBody_reg hpass).trans (escGoesOn_stalls hheeds hbusy)) rfl
  · exact run_next hready ((escBody_mem hpass hop).trans (escGoesOn_sends hfree (moveOperand_ok hwords)))
  · exact run_ends hruns ((escBody_mem hpass hop).trans (escGoesOn_stalls hheeds hbusy)) rfl
  · subst ht hl
    refine ⟨fun v rest hreqs => ?_, fun hnone => ?_⟩
    · refine run_next hready ((escBody_reg hpass).trans (escGoesOn_sends rfl ?_))
      rw [hreqs]
      rfl
    · refine run_next hready ((escBody_reg hpass).trans (escGoesOn_sends rfl ?_))
      exact storeStatusWord_unasked _ _ _ hnone _

end Sys2Proof.Machine

/-! PROOFS. Protection control: the table registers, the status word, LDTR and TR, and the tests of selectors (R541 to R556). -/

namespace Sys2Proof.Machine

/-- Two alternatives with one continuation, which the first of a sequence decides. -/
theorem ite_bind_ok {α β : Type} {p : Prop} [Decidable p] {m m' : M α} {f : α → M β} {s t : State} {a : α}
    (h : (if p then m else m') s = .ok a t) : (if p then m >>= f else m' >>= f) s = f a t := by
  split at h
  · rw [if_pos ‹p›, bind_ok h]
  · rw [if_neg ‹¬ p›, bind_ok h]

/-! ## Table registers (R544, R545, R550, R551) -/

section Tables

variable {s : State} {m : Mem}

/-- A store of the program changes no more of the processor than the record of breakpoints. -/
theorem State.storedAt_cpu (s : State) (la : Dword) (sz : Sz) (v : BitVec sz.bits) :
    (s.storedAt la sz v).cpu = (s.hit la sz.bytes true).cpu := State.sysStored_cpu ..

/-- Where a memory operand lies depends on the processor alone. -/
theorem State.memLinear_congr {t : State} (h : t.cpu = s.cpu) (m : Mem) (k : Dword) : t.memLinear m k = s.memLinear m k := by
  simp only [State.memLinear, State.memOff, h]

/-- Whether it can be accessed does too. -/
theorem State.memCan_congr {t : State} (h : t.cpu = s.cpu) (m : Mem) (k : Dword) (n : Nat) (acc : Access) :
    t.memCan m k n acc = s.memCan m k n acc := by
  simp only [State.memCan, State.canAccess, State.memOff, h]

/-- The base LGDT and LIDT load: 24 bits of it with a 16-bit operand size (R544). -/
def State.tableRead (s : State) (m : Mem) : TableReg :=
  ⟨if s.cpu.os32 then s.loadAt (s.memLinear m 2) .d else ((s.loadAt (s.memLinear m 2) .d).setWidth 24).setWidth 32,
    s.loadAt (s.memLinear m 0) .w⟩

theorem readTable_ok (hlimit : s.memCan m 0 2 .read = true) (hbase : s.memCan m 2 4 .read = true) :
    readTable m s = .ok (s.tableRead m) ((s.noted (s.memLinear m 0) 2).noted (s.memLinear m 2) 4) := by
  rw [readTable, bind_ok (getCpu_run s), bind_ok (readMem_ok (sz := .w) hlimit)]
  exact bind_ok (readMem_ok (s := s.noted _ _) (sz := .d) hbase)

/-- The state in which SGDT and SIDT store: the sixth byte of a 16-bit operand size is a free value (R550, U11). -/
def State.tableDrawn (s : State) : State := if s.cpu.os32 then s else s.drawn

/-- The base SGDT and SIDT store (R550, U11). -/
def State.storedBase (s : State) (base : Dword) : Dword :=
  (if s.cpu.os32 then base else s.freeVal).extractLsb' 24 8 ++ base.setWidth 24

theorem State.tableDrawn_cpu (s : State) : s.tableDrawn.cpu = s.cpu := by
  rw [State.tableDrawn]
  split <;> rfl

theorem storeTable_ok (g : TableReg) (hlimit : s.memCan m 0 2 .write = true) (hbase : s.memCan m 2 4 .write = true) :
    storeTable m g s = .ok () ((s.tableDrawn.storedAt (s.memLinear m 0) .w g.limit).storedAt (s.memLinear m 2) .d
      (s.storedBase g.base)) := by
  have hfirst : segVerify (memSegment s.cpu m) (memOffset s.cpu.gpr m) 2 s = .ok () s :=
    segVerify_ok (by rw [← State.memOff_zero]; exact hlimit)
  have hsecond : segVerify (memSegment s.cpu m) (memWrap m (memOffset s.cpu.gpr m + 2)) 4 s = .ok () s := segVerify_ok hbase
  have hdraw : (if s.cpu.os32 then pure g.base else draw : M Dword) s =
      .ok (if s.cpu.os32 then g.base else s.freeVal) s.tableDrawn := by
    rw [State.tableDrawn, ite_run]
    split <;> rfl
  have hlow : writeMem .w m 0 g.limit s.tableDrawn = .ok () (s.tableDrawn.storedAt (s.memLinear m 0) .w g.limit) := by
    rw [writeMem_ok (sz := .w) (m := m) (k := 0) g.limit (by rw [State.memCan_congr s.tableDrawn_cpu]; exact hlimit),
      State.memLinear_congr s.tableDrawn_cpu]
  have hcpu : (s.tableDrawn.storedAt (s.memLinear m 0) .w g.limit).cpu = (s.hit (s.memLinear m 0) 2 true).cpu := by
    rw [State.storedAt_cpu, State.hit, s.tableDrawn_cpu]
    rfl
  rw [storeTable, bind_ok (getCpu_run s), bind_ok hfirst, bind_ok hsecond, ite_bind_ok hdraw]
  refine (bind_ok hlow).trans ?_
  rw [writeMem_ok (sz := .d) _ (by rw [State.memCan_congr hcpu]; exact hbase), State.memLinear_congr hcpu]
  rfl

end Tables

/-- Settles O42: each is two reads, or two stores with the base its operand size leaves. -/
theorem tableRegistersMove : Obligations.TableRegistersMove := by
  unfold Obligations.TableRegistersMove
  intro m s
  refine ⟨fun hlimit hbase => ⟨fun hready => ?_, fun hready => ?_⟩, fun hlimit hbase => ⟨fun hready => ?_, fun hready => ?_⟩⟩
  · exact run_next hready (bind_ok (readTable_ok hlimit hbase))
  · exact run_next hready (bind_ok (readTable_ok hlimit hbase))
  · exact run_next hready (by rw [bind_ok (getCpu_run s)]; exact bind_ok (storeTable_ok s.cpu.gdtr hlimit hbase))
  · exact run_next hready (by rw [bind_ok (getCpu_run s)]; exact bind_ok (storeTable_ok s.cpu.idtr hlimit hbase))

/-! ## The status word (R547, R552 to R554) -/

/-- A selector stored as SLDT, SMSW and STR store theirs (R552, U5). -/
theorem writeSelector_ok {s : State} {rm : RM} (v : Word) (h : s.canWrite .w rm = true) :
    writeSelector rm v s = .ok () (s.selectorStored rm v) := by
  cases rm with
  | reg r => simp only [writeSelector, bind_run, getCpu_run, selectorItem_run, writeReg_run, State.selectorStored]
  | mem m => exact writeMem_ok (sz := .w) v h

/-- LMSW sets PE and never clears it: PE changes where it was clear and is set (R547, R725). -/
theorem Cpu.withCr0_setPe (c : Cpu) (pe mp em ts : Bool) :
    c.withCr0 { c.cr0 with pe := c.cr0.pe || pe, mp := mp, em := em, ts := ts } =
      { c with
        cr0 := { c.cr0 with pe := c.cr0.pe || pe, mp := mp, em := em, ts := ts }
        peSwitched := c.peSwitched || (!c.cr0.pe && pe) } := by
  have hpe : ((c.cr0.pe || pe) != c.cr0.pe) = (!c.cr0.pe && pe) := by
    cases c.cr0.pe <;> cases pe <;> rfl
  rw [Cpu.withCr0, hpe]

/-- Settles O43: LMSW is one write of CR0, the others one store. -/
theorem statusWordMoves : Obligations.StatusWordMoves := by
  unfold Obligations.StatusWordMoves
  intro rm s
  refine ⟨fun hready hsrc => ?_, fun hdst => ⟨fun hready => ?_, fun hready => ?_, fun hready => ?_⟩⟩
  · refine run_next hready ?_
    rw [bind_ok (readRM_ok hsrc)]
    simp only [Cpu.withCr0_setPe]
    exact bind_ok (modifyCpu_run _ _)
  · exact run_next hready (by rw [bind_ok (getCpu_run s), bind_ok (writeSelector_ok _ hdst), pure_run])
  · exact run_next hready (by rw [bind_ok (getCpu_run s), bind_ok (writeSelector_ok _ hdst), pure_run])
  · exact run_next hready (by rw [bind_ok (getCpu_run s), bind_ok (writeSelector_ok _ hdst), pure_run])

/-! ## LDTR and TR (R546, R549) -/

section TableSegments

variable {s : State} {sel : Word} {la : Dword}

/-- Reading an operand leaves where descriptors lie. -/
theorem State.rmRead_descriptorAddr (s : State) (sz : Sz) (rm : RM) (sel : Word) :
    descriptorAddr (s.rmRead sz rm).cpu sel = descriptorAddr s.cpu sel := by
  cases rm <;> rfl

/-- Reading an operand leaves paging as it is. -/
theorem State.rmRead_pg (s : State) (sz : Sz) (rm : RM) : (s.rmRead sz rm).cpu.cr0.pg = s.cpu.cr0.pg := by
  cases rm <;> rfl

/-- The descriptor of a table segment is read from the GDT (R546, R549). -/
theorem gdtDescriptor_ok (hpg : s.cpu.cr0.pg = false) (hti : sel.getLsbD 2 = false)
    (hla : descriptorAddr s.cpu sel = some la) : gdtDescriptor sel s = .ok (s.descAt la) (s.descLoaded la) := by
  rw [gdtDescriptor, require_bind (by rw [hti]; rfl), readDescriptor_ok hpg hla]

/-- The rights of a descriptor are changed in its table (R122). -/
theorem setRights_ok (d : Desc) (f : Byte → Byte) (hpg : s.cpu.cr0.pg = false) (hla : descriptorAddr s.cpu sel = some la) :
    setRights sel d f s = .ok () (s.sysStored (la + 5) .b (f (d.hi.extractLsb' 8 8))) := by
  rw [setRights, bind_ok (getCpu_run s), hla]
  exact sysWrite_off hpg _ _ _

end TableSegments

/-- Settles O44: the descriptor is read from the GDT, and its checks pass. -/
theorem taskAndLdtLoads : Obligations.TaskAndLdtLoads := by
  unfold Obligations.TaskAndLdtLoads
  intro rm s
  dsimp only
  intro hpg hsrc
  refine ⟨fun hnull hready => ?_, fun d la hnull hti hla hd hs hpresent => ?_⟩
  · exact run_next hready (by rw [bind_ok (readRM_ok hsrc), if_pos hnull, bind_ok (modifyCpu_run _ _), pure_run])
  · have hpg' : (s.rmRead .w rm).cpu.cr0.pg = false := by rw [State.rmRead_pg]; exact hpg
    have hla' : descriptorAddr (s.rmRead .w rm).cpu (s.rmValue .w rm) = some la := by
      rw [State.rmRead_descriptorAddr]
      exact hla
    have hread := gdtDescriptor_ok hpg' hti hla'
    rw [State.rmRead_descAt, ← hd] at hread
    refine ⟨fun htype hready => ?_, fun htype hready => ?_⟩
    · refine run_next hready ?_
      rw [bind_ok (readRM_ok hsrc), if_neg (by rw [hnull]; decide), bind_ok hread, require_bind (by rw [hs, htype]; rfl),
        require_bind hpresent, bind_ok (modifyCpu_run _ _), pure_run]
    · have havailable : d.isAvailableTss = true := by
        rcases htype with htype | htype <;> rw [Desc.isAvailableTss, hs, htype] <;> rfl
      refine run_next hready ?_
      rw [bind_ok (readRM_ok hsrc), require_bind (by rw [hnull]; rfl), bind_ok hread, require_bind havailable,
        require_bind hpresent, bind_ok (setRights_ok d _ (by exact hpg') (by exact hla')), bind_ok (modifyCpu_run _ _),
        pure_run]

/-! ## Tests of selectors (R541 to R543, R548, R555, R556) -/

section Tests

variable {s : State} {sel : Word}

/-- The descriptor a selector names where it passes a test and is visible (R541, note p). -/
def State.descPassing (s : State) (accepts : Desc → Bool) (sel : Word) : Option Desc :=
  (s.descOf sel).filter fun d => accepts d && visible s.cpu.cpl d sel

/-- The descriptor of a selector is looked up (R541). -/
theorem testSelector_run (hpg : s.cpu.cr0.pg = false) (sel : Word) :
    testSelector sel s = .ok (s.descOf sel) (s.descSeen sel) := by
  rw [testSelector, bind_ok (getCpu_run s), State.descOf, State.descSeen]
  by_cases hnull : isNull sel = true
  · rw [if_pos hnull, if_pos hnull, if_pos hnull, pure_run]
  · rw [if_neg hnull, if_neg hnull, if_neg hnull]
    cases descriptorAddr s.cpu sel with
    | none => rfl
    | some la => exact bind_ok (readDescriptorAt_off hpg la)

theorem testedDescriptor_run (hpg : s.cpu.cr0.pg = false) (accepts : Desc → Bool) (sel : Word) :
    testedDescriptor accepts sel s = .ok (s.descPassing accepts sel) (s.descSeen sel) := by
  rw [testedDescriptor, bind_ok (getCpu_run s), bind_ok (testSelector_run hpg sel), pure_run]
  rfl

/-- Looking up a descriptor leaves the processor. -/
@[simp] theorem State.descSeen_cpu (s : State) (sel : Word) : (s.descSeen sel).cpu = s.cpu := by
  rw [State.descSeen]
  split
  · rfl
  · split <;> rfl

/-- Reading an operand leaves the descriptors. -/
theorem State.rmRead_descPassing (s : State) (sz : Sz) (rm : RM) (accepts : Desc → Bool) (sel : Word) :
    (s.rmRead sz rm).descPassing accepts sel = s.descPassing accepts sel := by
  cases rm <;> rfl

/-- The selector operand is read and its descriptor looked up. -/
theorem testedOperand_bind {α : Type} {rm : RM} {f : Option Desc → M α} (accepts : Desc → Bool) (hpg : s.cpu.cr0.pg = false)
    (hsrc : s.canRead .w rm = true) :
    (do let sel ← readRM .w rm
        let d ← testedDescriptor accepts sel
        f d) s = f (s.descPassing accepts (s.rmValue .w rm)) ((s.rmRead .w rm).descSeen (s.rmValue .w rm)) := by
  rw [bind_ok (readRM_ok hsrc), bind_ok (testedDescriptor_run (by rw [State.rmRead_pg]; exact hpg) accepts _),
    State.rmRead_descPassing]

theorem finishZf_run (z : Bool) (s : State) : finishZf z s = .ok .next (s.withFlags { s.cpu.flags with zf := z }) := rfl

/-- The body LAR and LSL share: where the descriptor passes, a value of it is loaded (R543, R548). -/
def loadTested (accepts : Desc → Bool) (value : Desc → Dword) (reg : Reg) (rm : RM) : M Ending := do
  let sel ← readRM .w rm
  let d ← testedDescriptor accepts sel
  match d with
  | none => finishZf false
  | some d => do
    let sz ← opSize true
    writeReg sz reg ((value d).setWidth sz.bits)
    finishZf true

theorem exec_lar (reg : Reg) (rm : RM) (s : State) :
    exec (.lar reg rm) s = run (.lar reg rm) (loadTested larAccepts (fun d => d.hi &&& 0x00F0FF00) reg rm) s := rfl

theorem exec_lsl (reg : Reg) (rm : RM) (s : State) :
    exec (.lsl reg rm) s = run (.lsl reg rm) (loadTested lslAccepts Desc.limit reg rm) s := rfl

/-- The flags of the tests: ZF says whether the descriptor passes, the others stay. -/
def State.withZf (s : State) (f : EFlags) (z : Bool) : State := s.withFlags { f with zf := z }

theorem finishZf_seen (z : Bool) (rm : RM) (s : State) (sel : Word) : finishZf z ((s.rmRead .w rm).descSeen sel) =
    .ok .next (((s.rmRead .w rm).descSeen sel).withZf s.cpu.flags z) := by
  rw [finishZf_run, State.descSeen_cpu, State.rmRead_flags]
  rfl

theorem loadTested_run {rm : RM} (accepts : Desc → Bool) (value : Desc → Dword) (reg : Reg) (hpg : s.cpu.cr0.pg = false)
    (hsrc : s.canRead .w rm = true) : loadTested accepts value reg rm s =
      .ok .next (match s.descPassing accepts (s.rmValue .w rm) with
        | none => ((s.rmRead .w rm).descSeen (s.rmValue .w rm)).withZf s.cpu.flags false
        | some d => (((s.rmRead .w rm).descSeen (s.rmValue .w rm)).withReg s.cpu.osz reg
            ((value d).setWidth s.cpu.osz.bits)).withZf s.cpu.flags true) := by
  rw [loadTested, testedOperand_bind accepts hpg hsrc]
  cases s.descPassing accepts (s.rmValue .w rm) with
  | none => exact finishZf_seen false rm s _
  | some d =>
    have hsize : opSize true ((s.rmRead .w rm).descSeen (s.rmValue .w rm)) =
        .ok s.cpu.osz ((s.rmRead .w rm).descSeen (s.rmValue .w rm)) := by
      rw [opSize_run, State.descSeen_cpu]
      cases rm <;> rfl
    refine (bind_ok hsize).trans ?_
    rw [bind_ok (writeReg_run _ _ _ _), finishZf_run, State.withReg_flags, State.descSeen_cpu, State.rmRead_flags]
    rfl

end Tests

/-- Settles O45: ARPL compares and may write; the other four look the descriptor up, and whether it passes decides. -/
theorem selectorTestsComplete : Obligations.SelectorTestsComplete := by
  unfold Obligations.SelectorTestsComplete
  intro rm reg s
  refine ⟨fun hdst hready => ?_, fun hpg hsrc => ⟨fun hready => ?_, fun hready => ?_, fun hready => ?_, fun hready => ?_⟩⟩
  · refine run_next hready ?_
    rw [bind_ok (readDest_ok hdst), bind_ok (readReg_run .w reg _), State.rmRead_reg]
    by_cases hraise : rpl (s.rmValue .w rm) < rpl (s.reg .w reg)
    · rw [if_pos hraise, if_pos hraise, bind_ok (writeRM_rmRead_ok _ hdst), finishZf_run, State.rmWritten_flags,
        State.rmRead_flags]
      rfl
    · rw [if_neg hraise, if_neg hraise, finishZf_run, State.rmRead_flags]
  · exact (exec_lar reg rm s).trans (run_next hready (loadTested_run larAccepts _ reg hpg hsrc))
  · exact (exec_lsl reg rm s).trans (run_next hready (loadTested_run lslAccepts _ reg hpg hsrc))
  · exact run_next hready ((testedOperand_bind verrAccepts hpg hsrc).trans (finishZf_seen _ rm s _))
  · exact run_next hready ((testedOperand_bind verwAccepts hpg hsrc).trans (finishZf_seen _ rm s _))

end Sys2Proof.Machine

/-! PROOFS. Far JMP, CALL and RET outside Protected Mode (R452 to R456, R462). -/

namespace Sys2Proof.Machine

/-! ## What a push leaves -/

section Pushes

variable {s : State} {sz : Sz}

/-- The general registers after a push: the stack pointer alone has moved (R270). -/
theorem State.pushed_gpr (s : State) (sz : Sz) (v : BitVec sz.bits) :
    (s.pushed sz v).cpu.gpr = (s.cpu.withSp (s.cpu.spPlus (- BitVec.ofNat 32 sz.bytes))).gpr := by
  simp only [State.pushed, State.mapCpu_cpu, Cpu.withSp, State.storedAt_gpr, State.storedAt_segs]

theorem State.pushedSelector_gpr (s : State) (sz : Sz) (v : Word) :
    (s.pushedSelector sz v).cpu.gpr = (s.cpu.withSp (s.cpu.spPlus (- BitVec.ofNat 32 sz.bytes))).gpr := by
  have hdrawn : (s.selectorDrawn sz).cpu = s.cpu := by cases sz <;> rfl
  rw [State.pushedSelector, State.pushed_gpr, hdrawn]

/-- The record of breakpoints has no part in whether an item can be pushed. -/
theorem State.canPush_congr {t : State} {cur : Current} (h : t.cpu = { s.cpu with cur := cur }) (sz : Sz) :
    t.canPush sz = s.canPush sz := by
  simp only [State.canPush, State.canAccess, h]
  rfl

/-- Nor has it a part in whether one can be pushed after a selector. -/
theorem State.canPush_pushedSelector_congr {t : State} {cur : Current} (h : t.cpu = { s.cpu with cur := cur }) (sz sz' : Sz)
    (v : Word) : (t.pushedSelector sz v).canPush sz' = (s.pushedSelector sz v).canPush sz' := by
  refine State.canPush_congr (cur := (t.pushedSelector sz v).cpu.cur) ?_ sz'
  rw [State.pushedSelector_cpu t, State.pushedSelector_cpu s, State.pushedSelector_gpr, State.pushedSelector_gpr, h]
  rfl

end Pushes

/-! ## The far pointer in memory (R453, R455) -/

section Pointer

variable {s : State} {m : Mem}

/-- A far pointer that can be read. -/
theorem readFarPointer_ok (h : s.CanReadPointer m) :
    readFarPointer m s = .ok ((s.pointerOffset m).setWidth 32, s.pointerSelector m) (s.pointerRead m) := by
  rw [readFarPointer, bind_ok (getCpu_run s), bind_ok (readMem_ok h.offset)]
  exact bind_ok (readMem_ok (s := s.noted _ _) (sz := .w) h.selector)

/-- Reading a far pointer changes no more of the processor than the record of breakpoints. -/
theorem State.pointerRead_cpu (s : State) (m : Mem) :
    (s.pointerRead m).cpu = { s.cpu with cur := (s.pointerRead m).cpu.cur } := rfl

/-- A far JMP through memory jumps where its pointer says (R455). -/
theorem exec_jmpFarMem {t : State} (hruns : s.mayRun (.jmpFarMem m) = true) (h : s.CanReadPointer m)
    (hjump : farJump ((s.pointerOffset m).setWidth 32) (s.pointerSelector m) (s.pointerRead m) = .ok .jumped t) :
    exec (.jmpFarMem m) s = .next (State.settle s .jumped t) :=
  run_ends hruns ((bind_ok (readFarPointer_ok h)).trans hjump) rfl

/-- A far CALL through memory calls what its pointer says (R453). -/
theorem exec_callFarMem {t : State} (hruns : s.mayRun (.callFarMem m) = true) (h : s.CanReadPointer m)
    (hcall : farCall ((s.pointerOffset m).setWidth 32) (s.pointerSelector m) (s.pointerRead m) = .ok .jumped t) :
    exec (.callFarMem m) s = .next (State.settle s .jumped t) :=
  run_ends hruns ((bind_ok (readFarPointer_ok h)).trans hcall) rfl

end Pointer

/-! ## The transfers -/

section Transfers

variable {s : State} {sel : Word} {off : Dword}

/-- The state after a far JMP has ended the wait for one (R725; log 15). -/
def State.modeSettled (s : State) : State := s.mapCpu fun c => { c with peSwitched := false }

@[simp] theorem settleMode_run (s : State) : settleMode s = .ok () s.modeSettled := rfl

/-- Far JMP as on the 8086 (R454, R462). -/
theorem farJump_8086 (hprot : s.cpu.prot = false) (hin : off ≤ 0xFFFF) :
    farJump off sel s = .ok .jumped (s.modeSettled.enteredCode8086 sel off) := by
  rw [farJump, bind_ok (settleMode_run s), bind_ok (getCpu_run _)]
  have hprot' : s.modeSettled.cpu.prot = false := hprot
  rw [if_neg (by rw [hprot']; decide), require_bind (decide_eq_true hin)]
  exact enterCode8086_ok hprot'

/-- Far CALL as on the 8086 (R452, R462). -/
theorem farCall_8086 {sz : Sz} (hsz : s.cpu.osz = sz) (hprot : s.cpu.prot = false) (hsettled : s.cpu.peSwitched = false)
    (hin : off ≤ 0xFFFF) (hroom : s.canPush sz = true)
    (hroom' : (s.pushedSelector sz s.cpu.segs.cs.selector).canPush sz = true) : farCall off sel s =
      .ok .jumped (((s.pushedSelector sz s.cpu.segs.cs.selector).pushed sz (s.cpu.next.setWidth sz.bits)).enteredCode8086
        sel off) := by
  subst hsz
  rw [farCall, bind_ok (requireSettledMode_ok hsettled), bind_ok (getCpu_run s), if_neg (by rw [hprot]; decide),
    require_bind (decide_eq_true hin), bind_ok (pushReturn_ok hroom hroom')]
  exact enterCode8086_ok (by rw [State.pushed_prot, State.pushedSelector_prot]; exact hprot)

/-- Far RET as on the 8086 (R456, R462). -/
theorem returnFar_8086 {sz : Sz} (hsz : s.cpu.osz = sz) (bytes : Dword) (hprot : s.cpu.prot = false)
    (hsettled : s.cpu.peSwitched = false) (hoff : s.canPeek sz 0 = true)
    (hsel : s.canPeek sz (BitVec.ofNat 32 sz.bytes) = true) (hin : (s.peek sz 0).toNat ≤ 0xFFFF) :
    returnFar bytes s = .ok .jumped (((s.returnRead sz).mapCpu fun c =>
      c.withSp (c.spPlus (BitVec.ofNat 32 sz.bytes + BitVec.ofNat 32 sz.bytes + bytes))).enteredCode8086
        ((s.peek sz (BitVec.ofNat 32 sz.bytes)).setWidth 16) ((s.peek sz 0).setWidth 32)) := by
  subst hsz
  rw [returnFar, bind_ok (requireSettledMode_ok hsettled), bind_ok (getCpu_run s), if_neg (by rw [hprot]; decide),
    returnRead_bind hoff hsel, require_bind (decide_eq_true (setWidth_le_ffff hin)), bind_ok (modifyCpu_run _ _)]
  exact enterCode8086_ok (by exact hprot)

end Transfers

/-- Settles O30: outside Protected Mode each is its reads and pushes, and one 8086-style load of CS and EIP. -/
theorem farTransfer8086Completes : Obligations.FarTransfer8086Completes := by
  unfold Obligations.FarTransfer8086Completes
  intro off sel n m s hprot
  refine ⟨fun hin hruns => ?_, fun hoff hsel hin hruns => ?_, fun hsettled hroom hroom' => ⟨fun hin hruns => ?_,
    fun hoff hsel hin hruns => ?_⟩, fun hsettled hoff hsel hin => ⟨fun hruns => ?_, fun hruns => ?_⟩⟩
  · exact run_ends hruns (farJump_8086 hprot hin) rfl
  · exact exec_jmpFarMem hruns ⟨hoff, hsel⟩ (farJump_8086 (s := s.pointerRead m) hprot hin)
  · exact run_ends hruns (farCall_8086 rfl hprot hsettled hin hroom hroom') rfl
  · exact exec_callFarMem hruns ⟨hoff, hsel⟩ (farCall_8086 (s := s.pointerRead m) rfl hprot hsettled hin
      ((State.canPush_congr (State.pointerRead_cpu s m) _).trans hroom)
      ((State.canPush_pushedSelector_congr (State.pointerRead_cpu s m) _ _ _).trans hroom'))
  · exact run_ends hruns (returnFar_8086 rfl 0 hprot hsettled hoff hsel hin) rfl
  · exact run_ends hruns (returnFar_8086 rfl _ hprot hsettled hoff hsel hin) rfl

end Sys2Proof.Machine

/-! PROOFS. Far JMP, CALL and RET in Protected Mode within a privilege level, with paging off (R457, R458, R460): every one of them
enters the code segment it has checked, a CALL after it has pushed its return address. -/

namespace Sys2Proof.Machine

/-! ## Entering the code segment (R457) -/

section Enter

variable {s : State} {sz : Sz} {sel : Word} {la off : Dword} {d : Desc}

/-- What a same-level transfer of the processor `c` ends with: CALL pushes its return address, then CS and EIP are loaded
(R457). -/
def State.sameLevelEntered (s : State) (c : Cpu) (call : Bool) (sz : Sz) (sel : Word) (la : Dword) (d : Desc) (off : Dword) :
    State :=
  (if call then s.returnPushed sz c.next else s).enteredCode sel la d c.cpl off

/-- A CALL of the processor `c` finds room for its return address (R457). -/
structure State.CanCall (s : State) (c : Cpu) (sz : Sz) : Prop where
  room : stackRoom true c.segs.ss c.sp 2 sz.bytes = true
  push : s.canPushReturn sz = true

theorem farSameLevel_ok {call : Bool} (hprot : s.cpu.prot = true) (hpg : s.cpu.cr0.pg = false)
    (hla : descriptorAddr s.cpu sel = some la) (hin : off ≤ d.limit) (hcall : call = true → s.CanCall s.cpu sz) :
    farSameLevel call sz sel d off s = .ok .jumped (s.sameLevelEntered s.cpu call sz sel la d off) := by
  rw [farSameLevel, bind_ok (getCpu_run s), require_bind (decide_eq_true hin)]
  cases call with
  | false => exact bind_ok (enterCode_ok d hpg hla)
  | true =>
    obtain ⟨hroom, hpush⟩ := hcall rfl
    have hcpu := State.returnPushed_cpu s sz s.cpu.next
    rw [if_pos rfl, bind_ok (requireRoom_ok (by rw [hprot]; exact hroom)), bind_ok (pushReturn_run hpush)]
    exact bind_ok (enterCode_ok d (by rw [hcpu]; exact hpg) (by rw [hcpu]; exact hla))

end Enter

/-! ## Direct transfers and call gates (R457, R458) -/

section Protected

variable {s : State} {sel : Word} {la off : Dword} {d : Desc} {call : Bool}

/-- A far transfer to a code segment of the same level (R457). -/
theorem farProtected_direct {sz : Sz} (hsz : s.cpu.osz = sz) (hd : s.descAt la = d) (hprot : s.cpu.prot = true)
    (hpg : s.cpu.cr0.pg = false) (hnull : isNull sel = false) (hla : descriptorAddr s.cpu sel = some la)
    (hcode : sameLevelCode s.cpu sel d = true) (hin : off ≤ d.limit)
    (hcall : call = true → (s.descLoaded la).CanCall s.cpu sz) :
    farProtected call off sel s = .ok .jumped ((s.descLoaded la).sameLevelEntered s.cpu call sz sel la d off) := by
  subst hd hsz
  simp only [sameLevelCode, Bool.and_eq_true] at hcode
  obtain ⟨⟨hexec, hpresent⟩, hlevel⟩ := hcode
  rw [farProtected, bind_ok (getCpu_run s), require_bind (by rw [hnull]; rfl), bind_ok (readDescriptor_ok hpg hla),
    if_pos hexec, require_bind hlevel, require_bind hpresent]
  exact farSameLevel_ok hprot hpg hla hin hcall

/-- A call gate the program may use is a present system descriptor of type 4 or 0CH (R458). -/
theorem usableGate_iff {c : Cpu} {g : Desc} : usableGate c sel g = true ↔
    g.s = false ∧ (g.type = 4 ∨ g.type = 0xC) ∧ g.present = true ∧ c.cpl ≤ g.dpl ∧ rpl sel ≤ g.dpl := by
  simp only [usableGate, Bool.and_eq_true, Bool.not_eq_true', Bool.or_eq_true, beq_iff_eq, decide_eq_true_eq, and_assoc]

/-- The width of the items a call gate pushes is bit 3 of its type (R458). -/
theorem gateWidth_eq {g : Desc} (h : g.type = 4 ∨ g.type = 0xC) :
    (if g.type.getLsbD 3 then Sz.d else .w) = if g.type = 0xC then Sz.d else .w := by
  rcases h with h | h <;> rw [h] <;> rfl

/-- A code segment that a call gate leads to at the same level (R458). -/
structure Desc.SameLevel (d : Desc) (cpl : BitVec 2) : Prop where
  code : d.isCode = true
  present : d.present = true
  dpl : d.dpl ≤ cpl
  level : d.ec = true ∨ d.dpl = cpl

/-- A call gate to a code segment of the same level, once it is read (R458). -/
theorem farGate_ok {cla : Dword} {g : Desc} (hd : s.descAt cla = d) (hprot : s.cpu.prot = true) (hpg : s.cpu.cr0.pg = false)
    (husable : usableGate s.cpu sel g = true) (hnull : isNull g.gateSelector = false)
    (hcla : descriptorAddr s.cpu g.gateSelector = some cla) (hsame : d.SameLevel s.cpu.cpl) (hin : g.gateOffset ≤ d.limit)
    (hcall : call = true → (s.descLoaded cla).CanCall s.cpu (if g.type = 0xC then Sz.d else .w)) :
    farGate call g sel s = .ok .jumped ((s.descLoaded cla).sameLevelEntered s.cpu call (if g.type = 0xC then Sz.d else .w)
      g.gateSelector cla d g.gateOffset) := by
  subst hd
  obtain ⟨hexec, hpresent, hdpl, hlevel⟩ := hsame
  obtain ⟨_, htype, hgpresent, hcpl, hrpl⟩ := usableGate_iff.mp husable
  have hrights : (decide (s.cpu.cpl ≤ g.dpl) && decide (rpl sel ≤ g.dpl)) = true := by
    rw [Bool.and_eq_true]
    exact ⟨decide_eq_true hcpl, decide_eq_true hrpl⟩
  have hsame : ∀ b : Bool, (b || (s.descAt cla).ec || (s.descAt cla).dpl == s.cpu.cpl) = true := by
    intro b
    rw [Bool.or_assoc, Bool.or_eq_true, Bool.or_eq_true, beq_iff_eq]
    exact .inr hlevel
  rw [farGate, bind_ok (getCpu_run _), require_bind hrights, require_bind hgpresent, require_bind (by rw [hnull]; rfl),
    bind_ok (readDescriptor_ok hpg hcla), require_bind hexec, require_bind (decide_eq_true hdpl), require_bind (hsame call),
    require_bind hpresent, if_pos (hsame (!call)), gateWidth_eq htype]
  exact farSameLevel_ok hprot hpg hcla hin hcall

/-- A far transfer through a call gate to a code segment of the same level (R458). -/
theorem farProtected_gate {cla : Dword} {g : Desc} (hg : s.descAt la = g) (hd : s.descAt cla = d)
    (hprot : s.cpu.prot = true) (hpg : s.cpu.cr0.pg = false)
    (hnull : isNull sel = false) (hla : descriptorAddr s.cpu sel = some la) (husable : usableGate s.cpu sel g = true)
    (hcnull : isNull g.gateSelector = false) (hcla : descriptorAddr s.cpu g.gateSelector = some cla)
    (hsame : d.SameLevel s.cpu.cpl) (hin : g.gateOffset ≤ d.limit)
    (hcall : call = true → ((s.descLoaded la).descLoaded cla).CanCall s.cpu (if g.type = 0xC then Sz.d else .w)) :
    farProtected call off sel s = .ok .jumped (((s.descLoaded la).descLoaded cla).sameLevelEntered s.cpu call
      (if g.type = 0xC then Sz.d else .w) g.gateSelector cla d g.gateOffset) := by
  subst hg
  obtain ⟨hsystem, htype, _⟩ := usableGate_iff.mp husable
  have hnotcode : (s.descAt la).isCode = false := by rw [Desc.isCode, hsystem]; rfl
  have hgate : (!(s.descAt la).s && ((s.descAt la).type == 4 || (s.descAt la).type == 0xC)) = true := by
    rcases htype with htype | htype <;> rw [hsystem, htype] <;> rfl
  rw [farProtected, bind_ok (getCpu_run s), require_bind (by rw [hnull]; rfl), bind_ok (readDescriptor_ok hpg hla),
    if_neg (by rw [hnotcode]; decide), if_pos hgate]
  exact farGate_ok (s := s.descLoaded la) hd hprot hpg husable hcnull hcla hsame hin hcall

/-- So does one from a state that differs from `s` in the record of breakpoints and the wait for a far JMP alone. -/
theorem farProtected_noted {t : State} {hits : DebugCauses} {waits : Bool} {sz : Sz}
    (ht : t.cpu = { s.cpu with cur := { s.cpu.cur with hits := hits }, peSwitched := waits }) (hsz : s.cpu.osz = sz)
    (hd : t.descAt la = d) (hprot : s.cpu.prot = true) (hpg : s.cpu.cr0.pg = false) (hnull : isNull sel = false)
    (hla : descriptorAddr s.cpu sel = some la) (hcode : sameLevelCode s.cpu sel d = true) (hin : off ≤ d.limit)
    (hcall : call = true → (t.descLoaded la).CanCall s.cpu sz) :
    farProtected call off sel t = .ok .jumped ((t.descLoaded la).sameLevelEntered s.cpu call sz sel la d off) := by
  have hcall' : call = true → (t.descLoaded la).CanCall t.cpu sz := by
    intro hcalls
    obtain ⟨hroom, hpush⟩ := hcall hcalls
    exact ⟨by rw [ht]; exact hroom, hpush⟩
  rw [farProtected_direct (by rw [ht]; exact hsz) hd (by rw [ht]; exact hprot) (by rw [ht]; exact hpg) hnull
    (by rw [ht]; exact hla) (by rw [ht]; exact hcode) hin hcall', State.sameLevelEntered, ht]
  rfl

@[simp] theorem State.pointerRead_descAt (s : State) (m : Mem) (la : Dword) : (s.pointerRead m).descAt la = s.descAt la := rfl

@[simp] theorem State.modeSettled_descAt (s : State) (la : Dword) : s.modeSettled.descAt la = s.descAt la := rfl

/-- Far JMP in Protected Mode ends the wait for one first (R725). -/
theorem farJump_prot (hprot : s.cpu.prot = true) : farJump off sel s = farProtected false off sel s.modeSettled := by
  have hprot' : s.modeSettled.cpu.prot = true := hprot
  rw [farJump, bind_ok (settleMode_run s), bind_ok (getCpu_run _), if_pos hprot']

/-- Far CALL in Protected Mode (R457). -/
theorem farCall_prot (hprot : s.cpu.prot = true) (hsettled : s.cpu.peSwitched = false) :
    farCall off sel s = farProtected true off sel s := by
  rw [farCall, bind_ok (requireSettledMode_ok hsettled), bind_ok (getCpu_run s), if_pos hprot]

/-- Far RET within the level (R460). -/
theorem returnFar_prot {sz : Sz} (bytes : Dword) (hsz : s.cpu.osz = sz) (hd : s.descAt la = d) (hprot : s.cpu.prot = true)
    (hpg : s.cpu.cr0.pg = false) (hsettled : s.cpu.peSwitched = false) (hoff : s.canPeek sz 0 = true)
    (hsel : s.canPeek sz (BitVec.ofNat 32 sz.bytes) = true)
    (hroom : s.cpu.allows .ss (s.cpu.spPlus 0) (2 * sz.bytes) .read = true)
    (hpeek : (s.peek sz (BitVec.ofNat 32 sz.bytes)).setWidth 16 = sel) (hrpl : rpl sel = s.cpu.cpl) (hnull : isNull sel = false)
    (hla : descriptorAddr s.cpu sel = some la) (hcode : sameLevelCode s.cpu sel d = true)
    (hin : (s.peek sz 0).setWidth 32 ≤ d.limit) :
    returnFar bytes s = .ok .jumped ((((s.returnRead sz).descLoaded la).mapCpu fun c =>
      c.withSp (c.spPlus (BitVec.ofNat 32 sz.bytes + BitVec.ofNat 32 sz.bytes + bytes))).enteredCode sel la d s.cpu.cpl
        ((s.peek sz 0).setWidth 32)) := by
  subst hsz hd hpeek
  have hcheck := checkReturnCode_ok (s := s.returnRead s.cpu.osz) hpg hnull hrpl hla
    ((sameLevelCode_congr rfl).trans hcode)
  rw [State.returnRead_descAt] at hcheck
  rw [returnFar, bind_ok (requireSettledMode_ok hsettled), bind_ok (getCpu_run s), if_pos hprot,
    bind_ok (requireStack_ok hroom), returnRead_bind hoff hsel, bind_ok hcheck, if_pos (beq_iff_eq.mpr hrpl),
    require_bind (decide_eq_true hin), bind_ok (modifyCpu_run _ _), hrpl]
  exact bind_ok (enterCode_ok _ hpg hla)

end Protected

/-- Settles O31: each transfer enters the code segment its selector or its gate leads to. -/
theorem farTransferSameLevelCompletes : Obligations.FarTransferSameLevelCompletes := by
  unfold Obligations.FarTransferSameLevelCompletes
  intro off sel n m la s hprot hpg
  refine ⟨fun ⟨hnull, hla, hcode, hin⟩ => ⟨fun hruns => ?_, fun hruns hsettled hroom hpush => ?_⟩,
    fun hoff hsel ⟨hnull, hla, hcode, hin⟩ => ⟨fun hruns => ?_, fun hruns hsettled hroom hpush => ?_⟩,
    fun cla hnull hla husable hcnull hcla hexec hpresent hdpl hlevel hin =>
      ⟨fun hruns => ?_, fun hruns hsettled hroom hpush => ?_⟩, fun far => ?_⟩
  · refine run_ends hruns ((farJump_prot hprot).trans ?_) rfl
    exact farProtected_noted rfl rfl (s.modeSettled_descAt la) hprot hpg hnull hla hcode hin nofun
  · refine run_ends hruns ((farCall_prot hprot hsettled).trans ?_) rfl
    exact farProtected_noted rfl rfl rfl hprot hpg hnull hla hcode hin fun _ => ⟨hroom, hpush⟩
  · refine exec_jmpFarMem hruns ⟨hoff, hsel⟩ ((farJump_prot (s := s.pointerRead m) hprot).trans ?_)
    exact farProtected_noted (s := s) rfl rfl (s.pointerRead_descAt m la) hprot hpg hnull hla hcode hin nofun
  · refine exec_callFarMem hruns ⟨hoff, hsel⟩ ((farCall_prot (s := s.pointerRead m) hprot hsettled).trans ?_)
    exact farProtected_noted (s := s) rfl rfl (s.pointerRead_descAt m la) hprot hpg hnull hla hcode hin
      fun _ => ⟨hroom, hpush⟩
  · refine run_ends hruns ((farJump_prot hprot).trans ?_) rfl
    exact farProtected_gate (s := s.modeSettled) (s.modeSettled_descAt la) (s.modeSettled_descAt cla) hprot hpg hnull hla husable hcnull hcla
      ⟨hexec, hpresent, hdpl, hlevel⟩ hin nofun
  · refine run_ends hruns ((farCall_prot hprot hsettled).trans ?_) rfl
    exact farProtected_gate rfl rfl hprot hpg hnull hla husable hcnull hcla
      ⟨hexec, hpresent, hdpl, hlevel⟩ hin fun _ => ⟨hroom, hpush⟩
  · cases far with
    | false =>
      intro i extra rsel hruns hsettled hoff hsel hroom hrpl ⟨hnull, hla, hcode, hin⟩
      exact run_ends hruns (returnFar_prot 0 rfl rfl hprot hpg hsettled hoff hsel hroom rfl hrpl hnull hla hcode hin) rfl
    | true =>
      intro i extra rsel hruns hsettled hoff hsel hroom hrpl ⟨hnull, hla, hcode, hin⟩
      exact run_ends hruns (returnFar_prot _ rfl rfl hprot hpg hsettled hoff hsel hroom rfl hrpl hnull hla hcode hin) rfl

end Sys2Proof.Machine

/-! PROOFS. Task switches by JMP and CALL with paging off (R126, R459, R650 to R653): the running task is saved, the TSS descriptors
change, and the image of the new task is read. One lemma per step. -/

namespace Sys2Proof.Machine

/-! ## States that differ on the bus alone -/

/-- The states hold the same registers, memory and TLB. -/
structure State.Agrees (s t : State) : Prop where
  cpu : s.cpu = t.cpu
  mem : s.mem = t.mem
  tlb : s.tlb = t.tlb

section Agrees

variable {s t : State}

theorem State.Agrees.loadAt (h : s.Agrees t) (la : Dword) (sz : Sz) : s.loadAt la sz = t.loadAt la sz := by
  rw [State.loadAt, State.loadAt, h.mem]

theorem State.Agrees.descAt (h : s.Agrees t) (la : Dword) : s.descAt la = t.descAt la := by
  rw [State.descAt, State.descAt, h.loadAt, h.loadAt]

theorem State.descLoaded_agrees (s : State) (la : Dword) : (s.descLoaded la).Agrees s := ⟨rfl, rfl, rfl⟩

theorem State.Agrees.sysStored (h : s.Agrees t) (la : Dword) (sz : Sz) (v : BitVec sz.bits) :
    (s.sysStored la sz v).Agrees (t.sysStored la sz v) where
  cpu := by rw [State.sysStored_cpu, State.sysStored_cpu, h.cpu]
  mem := by rw [State.sysStored_mem, State.sysStored_mem, h.mem]
  tlb := by rw [State.sysStored_tlb, State.sysStored_tlb, h.tlb]

theorem State.Agrees.sysStoredAll (h : s.Agrees t) (sz : Sz) (l : List (Dword × BitVec sz.bits)) :
    (s.sysStoredAll sz l).Agrees (t.sysStoredAll sz l) := by
  induction l generalizing s t with
  | nil => exact h
  | cons store rest ih => exact ih (h.sysStored _ sz _)

theorem State.Agrees.rightsChanged (h : s.Agrees t) (la : Dword) (f : Byte → Byte) :
    (s.rightsChanged la f).Agrees (t.rightsChanged la f) := by
  have hload : (s.sysLoaded (la + 5) 1).Agrees (t.sysLoaded (la + 5) 1) := ⟨h.cpu, h.mem, h.tlb⟩
  rw [State.rightsChanged, State.rightsChanged, h.loadAt]
  exact hload.sysStored _ _ _

/-- The dwords that save a task in its 80386SX TSS (R126). -/
def Cpu.savedDwords (c : Cpu) : List (Dword × Dword) :=
  let b := c.tr.base
  let g := c.gpr
  [(b + 0x20, c.next), (b + 0x24, c.flags.image32), (b + 0x28, g.eax), (b + 0x2C, g.ecx), (b + 0x30, g.edx),
    (b + 0x34, g.ebx), (b + 0x38, g.esp), (b + 0x3C, g.ebp), (b + 0x40, g.esi), (b + 0x44, g.edi)]

/-- The selectors that save a task in its 80386SX TSS (R126). -/
def Cpu.savedWords (c : Cpu) : List (Dword × Word) :=
  let b := c.tr.base
  let r := c.segs
  [(b + 0x48, r.es.selector), (b + 0x4C, r.cs.selector), (b + 0x50, r.ss.selector), (b + 0x54, r.ds.selector),
    (b + 0x58, r.fs.selector), (b + 0x5C, r.gs.selector)]

theorem State.taskSaved_eq (s : State) :
    s.taskSaved = (s.sysStoredAll .d s.cpu.savedDwords).sysStoredAll .w s.cpu.savedWords := rfl

theorem State.Agrees.taskSaved (h : s.Agrees t) : s.taskSaved.Agrees t.taskSaved := by
  rw [State.taskSaved_eq, State.taskSaved_eq, h.cpu]
  exact (h.sysStoredAll .d _).sysStoredAll .w _

theorem State.Agrees.taskLeft (h : s.Agrees t) (call : Bool) (base la old : Dword) :
    (s.taskLeft call base la old).Agrees (t.taskLeft call base la old) := by
  cases call with
  | false =>
    simp only [State.taskLeft, Bool.false_eq_true, if_false]
    exact (h.taskSaved.rightsChanged _ _).rightsChanged _ _
  | true =>
    simp only [State.taskLeft, if_true, h.cpu]
    exact (h.taskSaved.sysStored _ _ _).rightsChanged _ _

/-! ## What leaving a task keeps -/

@[simp] theorem State.sysStoredAll_cpu (s : State) (sz : Sz) (l : List (Dword × BitVec sz.bits)) :
    (s.sysStoredAll sz l).cpu = s.cpu := by
  induction l generalizing s with
  | nil => rfl
  | cons store rest ih => rw [State.sysStoredAll, ih, State.sysStored_cpu]

@[simp] theorem State.sysStoredAll_tlb (s : State) (sz : Sz) (l : List (Dword × BitVec sz.bits)) :
    (s.sysStoredAll sz l).tlb = s.tlb := by
  induction l generalizing s with
  | nil => rfl
  | cons store rest ih => rw [State.sysStoredAll, ih, State.sysStored_tlb]

@[simp] theorem State.taskSaved_cpu (s : State) : s.taskSaved.cpu = s.cpu := by
  rw [State.taskSaved, State.sysStoredAll_cpu, State.sysStoredAll_cpu]

@[simp] theorem State.taskSaved_tlb (s : State) : s.taskSaved.tlb = s.tlb := by
  rw [State.taskSaved, State.sysStoredAll_tlb, State.sysStoredAll_tlb]

@[simp] theorem State.rightsChanged_cpu (s : State) (la : Dword) (f : Byte → Byte) : (s.rightsChanged la f).cpu = s.cpu := by
  rw [State.rightsChanged, State.sysStored_cpu, State.sysLoaded_cpu]

@[simp] theorem State.rightsChanged_tlb (s : State) (la : Dword) (f : Byte → Byte) : (s.rightsChanged la f).tlb = s.tlb := by
  rw [State.rightsChanged, State.sysStored_tlb, State.sysLoaded_tlb]

@[simp] theorem State.taskLeft_cpu (s : State) (call : Bool) (base la old : Dword) : (s.taskLeft call base la old).cpu = s.cpu := by
  cases call <;> simp [State.taskLeft]

@[simp] theorem State.taskLeft_tlb (s : State) (call : Bool) (base la old : Dword) : (s.taskLeft call base la old).tlb = s.tlb := by
  cases call <;> simp [State.taskLeft]

end Agrees

/-! ## Leaving the running task (R650 steps 2 to 6) -/

section Leave

variable {s : State}

/-- With paging off both TSSs are there to be touched (R650 step 2). -/
theorem touchNewTss_off (hpg : s.cpu.cr0.pg = false) (nests : Bool) (base : Dword) (n : Nat) :
    touchNewTss nests base n s = .ok () s := by
  have hpresent : ∀ la acc, attempt (translate la 1 acc false) s = .ok (.ok (physBytes la 1)) s :=
    fun la acc => attempt_ok (translate_off hpg la 1 acc false)
  simp only [touchNewTss, bind_ok (hpresent _ _)]
  split
  · rfl
  · rw [bind_ok (hpresent _ _)]
    rfl

theorem saveTask386_off (hpg : s.cpu.cr0.pg = false) : saveTask386 s.cpu.tr.base s.cpu s.cpu.next s.cpu.flags s =
    .ok () s.taskSaved := by
  simp only [saveTask386, bind_run, sysWrite_off, State.sysStored_cpu, hpg]
  rfl

theorem changeTssRights_off {sel : Word} {la : Dword} (hpg : s.cpu.cr0.pg = false) (hla : descriptorAddr s.cpu sel = some la)
    (f : Byte → Byte) : changeTssRights sel f s = .ok () (s.rightsChanged la f) := by
  simp only [changeTssRights, bind_run, getCpu_run, hla, sysRead_off hpg]
  exact sysWrite_off (s := s.sysLoaded (la + 5) 1) hpg _ _ _

/-- The kind of task switch of JMP and CALL. -/
def farKind (call : Bool) : TaskKind := if call then .call else .jmp

theorem farKind_ne_iret (call : Bool) : (farKind call != .iret) = true := by cases call <;> rfl

/-- JMP releases the old task; CALL links the new one to it (R650 steps 4 and 5). -/
def State.taskUnlinked (s : State) (call : Bool) (base old : Dword) : State :=
  if call then s.taskSaved.sysStored base .w s.cpu.tr.selector else s.taskSaved.rightsChanged old (· &&& 0xFD)

theorem State.taskLeft_eq (s : State) (call : Bool) (base la old : Dword) :
    s.taskLeft call base la old = (s.taskUnlinked call base old).rightsChanged la (· ||| 2) := rfl

@[simp] theorem State.taskUnlinked_cpu (s : State) (call : Bool) (base old : Dword) :
    (s.taskUnlinked call base old).cpu = s.cpu := by
  cases call <;> simp [State.taskUnlinked]

/-- The steps of the switch between the saved task and the busy one. -/
theorem unlink_bind {α : Type} {base old : Dword} {f : M α} (call : Bool) (hpg : s.cpu.cr0.pg = false)
    (hold : descriptorAddr s.cpu s.cpu.tr.selector = some old) :
    (do releaseOldTask (farKind call) s.cpu.tr.selector
        linkTasks (farKind call) base s.cpu.tr.selector
        f) s.taskSaved = f (s.taskUnlinked call base old) := by
  have hcpu := s.taskSaved_cpu
  cases call with
  | false =>
    have hrelease : releaseOldTask (farKind false) s.cpu.tr.selector s.taskSaved =
        .ok () (s.taskSaved.rightsChanged old (· &&& 0xFD)) :=
      changeTssRights_off (by rw [hcpu, hpg]) (by rw [hcpu, hold]) _
    exact (bind_ok hrelease).trans (bind_ok (pure_run () _))
  | true =>
    have hlink : linkTasks (farKind true) base s.cpu.tr.selector s.taskSaved =
        .ok () (s.taskSaved.sysStored base .w s.cpu.tr.selector) :=
      sysWrite_off (by rw [hcpu, hpg]) _ _ _
    exact (bind_ok (pure_run () _)).trans (bind_ok hlink)

theorem markNewTask_off {sel : Word} {la : Dword} (call : Bool) (hpg : s.cpu.cr0.pg = false)
    (hla : descriptorAddr s.cpu sel = some la) :
    markNewTask (farKind call) sel s = .ok () (s.rightsChanged la (· ||| 2)) := by
  rw [markNewTask, if_pos (farKind_ne_iret call)]
  exact changeTssRights_off hpg hla _

end Leave

/-! ## Reading the image of the new task (R126, R650 step 8) -/

section Image

/-- The image an 80386SX TSS at `base` holds (R126). -/
def State.taskImage (s : State) (base : Dword) : TaskImage :=
  let dword := fun k : Dword => s.loadAt (base + k) .d
  let word := fun k : Dword => s.loadAt (base + k) .w
  { cr3 := some (dword 0x1C), eip := dword 0x20, flags := EFlags.ofImage32 (dword 0x24),
    gpr := ⟨dword 0x28, dword 0x2C, dword 0x30, dword 0x34, dword 0x38, dword 0x3C, dword 0x40, dword 0x44⟩,
    es := word 0x48, cs := word 0x4C, ss := word 0x50, ds := word 0x54, fs := word 0x58, gs := word 0x5C, ldt := word 0x60,
    debugTrap := (word 0x64).getLsbD 0 }

theorem State.Agrees.taskImage {s t : State} (h : s.Agrees t) (base : Dword) : s.taskImage base = t.taskImage base := by
  simp only [State.taskImage, h.loadAt]

/-- The state after `n` bytes are read at each of the offsets from `base`. -/
def State.sysLoadedAll (s : State) (base : Dword) (n : Nat) (offsets : List Dword) : State :=
  offsets.foldl (fun t k => t.sysLoaded (base + k) n) s

/-- The state after the image of an 80386SX TSS is read. -/
def State.imageRead (s : State) (base : Dword) : State :=
  (s.sysLoadedAll base 4 [0x1C, 0x20, 0x24, 0x28, 0x2C, 0x30, 0x34, 0x38, 0x3C, 0x40, 0x44]).sysLoadedAll base 2
    [0x48, 0x4C, 0x50, 0x54, 0x58, 0x5C, 0x60, 0x64]

theorem State.Agrees.sysLoadedAll {s t : State} (h : s.Agrees t) (base : Dword) (n : Nat) (offsets : List Dword) :
    (s.sysLoadedAll base n offsets).Agrees t := by
  induction offsets generalizing s with
  | nil => exact h
  | cons k rest ih => exact ih (s := s.sysLoaded (base + k) n) ⟨h.cpu, h.mem, h.tlb⟩

theorem State.imageRead_agrees (s : State) (base : Dword) : (s.imageRead base).Agrees s :=
  (State.Agrees.sysLoadedAll ⟨rfl, rfl, rfl⟩ _ _ _).sysLoadedAll _ _ _

theorem readTask386_off {s : State} (hpg : s.cpu.cr0.pg = false) (base : Dword) :
    readTask386 base s = .ok (s.taskImage base) (s.imageRead base) := by
  simp only [readTask386, bind_run, sysRead_off, State.sysLoaded_cpu, hpg, State.sysLoaded_loadAt, pure_run]
  rfl

end Image
end Sys2Proof.Machine

/-! PROOFS. The new task of a task switch by JMP and CALL (R650 steps 7 to 15), and the switch as a whole. -/

namespace Sys2Proof.Machine

/-! ## Loading its segments (R650 steps 11 and 12) -/

section Load

variable {s : State} {im : TaskImage} {lac las : Dword}

/-- Where a descriptor of the GDT lies depends on GDTR alone. -/
theorem descriptorAddr_gdt {c e : Cpu} {sel : Word} (hti : sel.getLsbD 2 = false) (h : e.gdtr = c.gdtr) :
    descriptorAddr e sel = descriptorAddr c sel := by
  simp only [descriptorAddr, hti, h, Bool.false_eq_true, if_false]

theorem State.marked_of_accessed {d : Desc} (h : d.accessed = true) (la : Dword) : s.marked la d = s := if_pos h

/-- The state after a segment register takes a null selector. -/
def State.unloaded (s : State) (r : SReg) (sel : Word) : State :=
  s.withSeg r { s.cpu.segs.get r with selector := sel, valid := false }

theorem State.withSeg_cpu (s : State) (r : SReg) (g : SegReg) :
    (s.withSeg r g).cpu = { s.cpu with segs := s.cpu.segs.set r g } := rfl

theorem State.unloaded_cpu (s : State) (r : SReg) (sel : Word) :
    (s.unloaded r sel).cpu = { s.cpu with segs := s.cpu.segs.set r ((s.cpu.segs.get r).pending sel) } := rfl

theorem loadData_null {bad : Word → Exc} {r : SReg} {sel : Word} (hnull : isNull sel = true) :
    loadData bad r sel s = .ok () (s.unloaded r sel) := by
  rw [loadData, bind_ok (getCpu_run s), if_pos hnull]
  rfl

/-- The segments of a new task outside Virtual 8086 Mode with neither an LDT nor data segments: its stack and its code segment are
present in the GDT and accessed, at the level its CS asks for (R650 steps 11 and 12). -/
structure TaskImage.Loads (im : TaskImage) (dc ds : Desc) : Prop where
  vm : im.flags.vm = false
  ldtNull : isNull im.ldt = true
  dsNull : isNull im.ds = true
  esNull : isNull im.es = true
  fsNull : isNull im.fs = true
  gsNull : isNull im.gs = true
  csNull : isNull im.cs = false
  code : dc.isCode = true
  codeLevel : if dc.ec then dc.dpl ≤ rpl im.cs else dc.dpl = rpl im.cs
  codePresent : dc.present = true
  codeAccessed : dc.accessed = true
  ssNull : isNull im.ss = false
  stack : ds.isStack = true
  stackRpl : rpl im.ss = rpl im.cs
  stackLevel : ds.dpl = rpl im.cs
  stackPresent : ds.present = true
  stackAccessed : ds.accessed = true

/-- The state after the stack segment of a new task is loaded. -/
def State.taskStackLoaded (s : State) (im : TaskImage) (las : Dword) (ds : Desc) : State :=
  ((s.mapCpu fun c => { c with cpl := rpl im.cs }).descLoaded las).withSeg .ss (ds.cache im.ss)

/-- The state after its segments are loaded. -/
def State.taskSegmentsLoaded (s : State) (im : TaskImage) (lac las : Dword) (dc ds : Desc) : State :=
  ((((((s.taskStackLoaded im las ds).descLoaded lac).withSeg .cs (dc.cache im.cs)).unloaded .ds im.ds).unloaded .es
    im.es).unloaded .fs im.fs).unloaded .gs im.gs

/-- Neither the bus record nor the order of the loads shows in the registers. -/
theorem State.taskSegmentsLoaded_cpu (s : State) (im : TaskImage) (lac las : Dword) (dc ds : Desc) :
    (s.taskSegmentsLoaded im lac las dc ds).cpu = { s.cpu with
      cpl := rpl im.cs
      segs := { es := s.cpu.segs.es.pending im.es, cs := dc.cache im.cs, ss := ds.cache im.ss,
                ds := s.cpu.segs.ds.pending im.ds, fs := s.cpu.segs.fs.pending im.fs, gs := s.cpu.segs.gs.pending im.gs } } := by
  simp only [State.taskSegmentsLoaded, State.taskStackLoaded, State.unloaded_cpu, State.withSeg_cpu, State.descLoaded_cpu,
    State.mapCpu_cpu, Segs.set, Segs.get]

theorem loadTaskStack_ok {dc ds : Desc} (h : im.Loads dc ds) (hd : s.descAt las = ds) (hpg : s.cpu.cr0.pg = false)
    (hlas : descriptorAddr s.cpu im.ss = some las) :
    loadStack .ts (rpl im.cs) im.ss s = .ok () ((s.descLoaded las).withSeg .ss (ds.cache im.ss)) := by
  subst hd
  rw [loadStack, require_bind (by rw [h.ssNull]; rfl), bind_ok (readDescriptor_ok hpg hlas),
    require_bind (beq_iff_eq.mpr h.stackRpl), require_bind h.stack, require_bind (beq_iff_eq.mpr h.stackLevel),
    require_bind h.stackPresent, bind_ok (setAccessed_ok (s := s.descLoaded las) (la := las) _ hpg hlas),
    State.marked_of_accessed h.stackAccessed]
  rfl

theorem loadTaskCode_ok {dc ds : Desc} (h : im.Loads dc ds) (hd : s.descAt lac = dc) (hpg : s.cpu.cr0.pg = false)
    (hcpl : s.cpu.cpl = rpl im.cs) (hlac : descriptorAddr s.cpu im.cs = some lac) :
    loadTaskCode im.cs s = .ok () ((s.descLoaded lac).withSeg .cs (dc.cache im.cs)) := by
  have hlevel : (if dc.ec then decide (dc.dpl ≤ s.cpu.cpl) else dc.dpl == s.cpu.cpl) = true := by
    have hlevel := h.codeLevel
    rw [hcpl]
    split at hlevel
    next hec => rw [if_pos hec]; exact decide_eq_true hlevel
    next hec => rw [if_neg hec]; exact beq_iff_eq.mpr hlevel
  subst hd
  rw [loadTaskCode, bind_ok (getCpu_run s), require_bind (by rw [h.csNull]; rfl), bind_ok (readDescriptor_ok hpg hlac),
    require_bind h.code, require_bind hlevel, require_bind h.codePresent,
    bind_ok (setAccessed_ok (s := s.descLoaded lac) (la := lac) _ hpg hlac), State.marked_of_accessed h.codeAccessed]
  rfl

theorem loadTaskSegments_ok {dc ds : Desc} (h : im.Loads dc ds) (hdc : s.descAt lac = dc) (hds : s.descAt las = ds)
    (hpg : s.cpu.cr0.pg = false) (hlac : descriptorAddr s.cpu im.cs = some lac)
    (hlas : descriptorAddr s.cpu im.ss = some las) :
    loadTaskSegments im s = .ok () (s.taskSegmentsLoaded im lac las dc ds) := by
  have hstack : loadStack .ts (rpl im.cs) im.ss (s.mapCpu fun c => { c with cpl := rpl im.cs }) =
      .ok () (s.taskStackLoaded im las ds) := loadTaskStack_ok h hds hpg hlas
  have hcode : loadTaskCode im.cs (s.taskStackLoaded im las ds) = _ :=
    loadTaskCode_ok (lac := lac) h hdc hpg rfl hlac
  rw [loadTaskSegments, if_neg (by rw [h.vm]; decide), bind_ok (modifyCpu_run _ s), bind_ok hstack,
    bind_ok hcode, bind_ok (loadData_null h.dsNull), bind_ok (loadData_null h.esNull), bind_ok (loadData_null h.fsNull)]
  exact loadData_null h.gsNull

end Load

/-! ## The switch (R650) -/

section Switch

variable {s : State} {im : TaskImage} {sel : Word} {d dc ds : Desc} {la old lac las : Dword} {call : Bool}

/-- The state after the registers of a new task are entered (R650 steps 7 to 10). -/
def State.taskEntered (s : State) (im : TaskImage) (call : Bool) (sel : Word) (d : Desc) : State :=
  { s.mapCpu (enterTask im (farKind call) sel d true) with queue := [], prefetch := [], pgSwitch := none }

/-- The state after a task switch from the state in which the image is read. -/
def State.taskSwitched (s : State) (im : TaskImage) (call : Bool) (sel : Word) (d : Desc) (lac las : Dword) (dc ds : Desc) :
    State :=
  ((s.taskEntered im call sel d).taskSegmentsLoaded im lac las dc ds).mapCpu (armTask im)

/-- The steps of the switch past the point of no return (R650 steps 11 to 15). -/
theorem loadNewTask_ok (h : im.Loads dc ds) (hdc : s.descAt lac = dc) (hds : s.descAt las = ds)
    (hpg : s.cpu.cr0.pg = false) (hlac : descriptorAddr s.cpu im.cs = some lac) (hlas : descriptorAddr s.cpu im.ss = some las)
    (hin : s.cpu.eip ≤ dc.limit) :
    (commit do
      loadTaskLdt im.ldt
      loadTaskSegments im
      modifyCpu (armTask im)
      requireTaskEip im) s = .ok () ((s.taskSegmentsLoaded im lac las dc ds).mapCpu (armTask im)) := by
  refine commit_ok ?_
  rw [loadTaskLdt, if_pos h.ldtNull, bind_ok (pure_run () s), bind_ok (loadTaskSegments_ok h hdc hds hpg hlac hlas),
    bind_ok (modifyCpu_run _ _), requireTaskEip, bind_ok (getCpu_run _)]
  have hcpu := s.taskSegmentsLoaded_cpu im lac las dc ds
  rw [State.mapCpu_cpu, hcpu]
  have heip : (im.debugTrap || decide (s.cpu.eip ≤ dc.limit)) = true := by rw [decide_eq_true hin, Bool.or_true]
  rw [armTask, Desc.cache, heip, require_true, pure_run]

theorem State.taskEntered_descAt (s : State) (im : TaskImage) (call : Bool) (sel : Word) (d : Desc) (la : Dword) :
    (s.taskEntered im call sel d).descAt la = s.descAt la := rfl

/-- The steps of the switch once the image is read (R650 steps 7 to 15). -/
theorem enterNewTask_ok (hpg : s.cpu.cr0.pg = false) (h : im.Loads dc ds) (hdc : s.descAt lac = dc) (hds : s.descAt las = ds)
    (hcsTi : im.cs.getLsbD 2 = false) (hlac : descriptorAddr s.cpu im.cs = some lac)
    (hssTi : im.ss.getLsbD 2 = false) (hlas : descriptorAddr s.cpu im.ss = some las) (hin : im.eip ≤ dc.limit) :
    (do modifyCpu (enterTask im (farKind call) sel d true)
        flushForTask (im.cr3.isSome && s.cpu.cr0.pg)
        flushPrefetch
        commit do
          loadTaskLdt im.ldt
          loadTaskSegments im
          modifyCpu (armTask im)
          requireTaskEip im) s = .ok () (s.taskSwitched im call sel d lac las dc ds) := by
  have hgdtr : (s.taskEntered im call sel d).cpu.gdtr = s.cpu.gdtr := rfl
  have hload := loadNewTask_ok (s := s.taskEntered im call sel d) h ((s.taskEntered_descAt ..).trans hdc)
    ((s.taskEntered_descAt ..).trans hds) hpg ((descriptorAddr_gdt hcsTi hgdtr).trans hlac)
    ((descriptorAddr_gdt hssTi hgdtr).trans hlas) hin
  rw [bind_ok (modifyCpu_run _ s), flushForTask, if_neg (by rw [hpg, Bool.and_false]; decide), bind_ok (pure_run () _),
    bind_ok (flushPrefetch_run _)]
  exact hload

/-- A task switch by JMP or CALL to an 80386SX TSS, from an 80386SX TSS (R650). -/
theorem taskSwitch_ok (hpg : s.cpu.cr0.pg = false) (h386 : s.cpu.tr.is386 = true) (htype : d.type = 9)
    (hlimit : 0x67 ≤ d.limit.toNat) (hla : descriptorAddr s.cpu sel = some la)
    (hold : descriptorAddr s.cpu s.cpu.tr.selector = some old)
    (him : (s.taskLeft call d.base la old).taskImage d.base = im) (hloads : im.Loads dc ds)
    (hdc : (s.taskLeft call d.base la old).descAt lac = dc) (hds : (s.taskLeft call d.base la old).descAt las = ds)
    (hcsTi : im.cs.getLsbD 2 = false) (hlac : descriptorAddr s.cpu im.cs = some lac)
    (hssTi : im.ss.getLsbD 2 = false) (hlas : descriptorAddr s.cpu im.ss = some las) (hin : im.eip ≤ dc.limit) :
    taskSwitch sel d (farKind call) s.cpu.next s.cpu.flags.rf s =
      .ok () (((s.taskLeft call d.base la old).imageRead d.base).taskSwitched im call sel d lac las dc ds) := by
  have hnew : d.type.getLsbD 3 = true := by rw [htype]; rfl
  have hflags : { s.cpu.flags with rf := s.cpu.flags.rf, nt := s.cpu.flags.nt && farKind call != .iret } = s.cpu.flags := by
    rw [farKind_ne_iret, Bool.and_true]
  have hunlinked := s.taskUnlinked_cpu call d.base old
  have hleft := s.taskLeft_cpu call d.base la old
  have hread := State.imageRead_agrees (s.taskLeft call d.base la old) d.base
  have hcpu := hread.cpu.trans hleft
  have hmark : markNewTask (farKind call) sel (s.taskUnlinked call d.base old) = .ok () (s.taskLeft call d.base la old) := by
    rw [State.taskLeft_eq]
    exact markNewTask_off call (by rw [hunlinked, hpg]) (by rw [hunlinked, hla])
  have hreadTask : readTask true d.base (s.taskLeft call d.base la old) = .ok im _ :=
    him ▸ readTask386_off (by rw [hleft, hpg]) d.base
  rw [taskSwitch, bind_ok (getCpu_run s)]
  simp only [hnew, hflags]
  rw [require_bind (decide_eq_true (show tssBytes true - 1 ≤ _ from hlimit)), bind_ok (translate_off hpg _ _ _ _),
    bind_ok (touchNewTss_off hpg _ _ _), saveTask, if_pos h386, bind_ok (saveTask386_off hpg), unlink_bind call hpg hold, bind_ok hmark, bind_ok hreadTask]
  have henter := enterNewTask_ok (call := call) (sel := sel) (d := d)
    (s := (s.taskLeft call d.base la old).imageRead d.base) (by rw [hcpu, hpg]) hloads ((hread.descAt lac).trans hdc)
    ((hread.descAt las).trans hds) hcsTi (by rw [hcpu, hlac]) hssTi (by rw [hcpu, hlas]) hin
  rw [hcpu] at henter
  exact henter

/-! ## What the switch leaves -/

/-- The registers after a task switch. -/
def Cpu.taskSwitched (c : Cpu) (im : TaskImage) (call : Bool) (sel : Word) (d dc ds : Desc) : Cpu :=
  armTask im { enterTask im (farKind call) sel d true c with
    cpl := rpl im.cs
    segs := { es := c.segs.es.pending im.es, cs := dc.cache im.cs, ss := ds.cache im.ss, ds := c.segs.ds.pending im.ds,
              fs := c.segs.fs.pending im.fs, gs := c.segs.gs.pending im.gs } }

theorem State.taskSwitched_cpu (s : State) (im : TaskImage) (call : Bool) (sel : Word) (d : Desc) (lac las : Dword)
    (dc ds : Desc) :
    (s.taskSwitched im call sel d lac las dc ds).cpu = s.cpu.taskSwitched im call sel d dc ds := by
  rw [State.taskSwitched, State.mapCpu_cpu, State.taskSegmentsLoaded_cpu]
  rfl

/-- The states differ in the registers and the bus record alone. -/
structure State.SameRest (s t : State) : Prop where
  mem : s.mem = t.mem
  tlb : s.tlb = t.tlb
  queue : s.queue = t.queue
  prefetch : s.prefetch = t.prefetch
  pgSwitch : s.pgSwitch = t.pgSwitch

theorem State.SameRest.mapCpu {t : State} (h : s.SameRest t) (f : Cpu → Cpu) : (s.mapCpu f).SameRest t :=
  ⟨h.mem, h.tlb, h.queue, h.prefetch, h.pgSwitch⟩

theorem State.SameRest.descLoaded {t : State} (h : s.SameRest t) (la : Dword) : (s.descLoaded la).SameRest t :=
  ⟨h.mem, h.tlb, h.queue, h.prefetch, h.pgSwitch⟩

theorem State.SameRest.withSeg {t : State} (h : s.SameRest t) (r : SReg) (g : SegReg) : (s.withSeg r g).SameRest t :=
  h.mapCpu _

theorem State.SameRest.unloaded {t : State} (h : s.SameRest t) (r : SReg) (sel : Word) : (s.unloaded r sel).SameRest t :=
  h.withSeg r _

theorem State.taskSwitched_rest (s : State) (im : TaskImage) (call : Bool) (sel : Word) (d : Desc) (lac las : Dword)
    (dc ds : Desc) : (s.taskSwitched im call sel d lac las dc ds).SameRest (s.taskEntered im call sel d) := by
  have hrefl : (s.taskEntered im call sel d).SameRest (s.taskEntered im call sel d) := ⟨rfl, rfl, rfl, rfl, rfl⟩
  rw [State.taskSwitched, State.taskSegmentsLoaded, State.taskStackLoaded]
  exact ((((((((hrefl.mapCpu _).descLoaded las).withSeg .ss _).descLoaded lac).withSeg .cs _).unloaded .ds _).unloaded .es
    _).unloaded .fs _).unloaded .gs _ |>.mapCpu _

theorem State.taskSwitched_mem (s : State) (im : TaskImage) (call : Bool) (sel : Word) (d : Desc) (lac las : Dword)
    (dc ds : Desc) : (s.taskSwitched im call sel d lac las dc ds).mem = s.mem :=
  (s.taskSwitched_rest ..).mem

theorem State.taskSwitched_tlb (s : State) (im : TaskImage) (call : Bool) (sel : Word) (d : Desc) (lac las : Dword)
    (dc ds : Desc) : (s.taskSwitched im call sel d lac las dc ds).tlb = s.tlb :=
  (s.taskSwitched_rest ..).tlb

theorem State.taskSwitched_flushed (s : State) (im : TaskImage) (call : Bool) (sel : Word) (d : Desc) (lac las : Dword)
    (dc ds : Desc) : (s.taskSwitched im call sel d lac las dc ds).queue = [] ∧
      (s.taskSwitched im call sel d lac las dc ds).prefetch = [] ∧
      (s.taskSwitched im call sel d lac las dc ds).pgSwitch = none :=
  have hrest := s.taskSwitched_rest im call sel d lac las dc ds
  ⟨hrest.queue, hrest.prefetch, hrest.pgSwitch⟩

end Switch

/-! ## JMP and CALL to a TSS (R459) -/

section Far

variable {s : State} {im : TaskImage} {sel : Word} {off : Dword} {d dc ds : Desc} {la old lac las : Dword} {call : Bool}

/-- A JMP or CALL may switch to the task of an 80386SX TSS: its descriptor is an available TSS the program may use, and the running
task has an 80386SX TSS of its own in the GDT (R459, R650 step 1). -/
structure Cpu.CanSwitch (c : Cpu) (sel : Word) (la old : Dword) (d : Desc) : Prop where
  pg : c.cr0.pg = false
  old386 : c.tr.is386 = true
  notNull : isNull sel = false
  inGdt : sel.getLsbD 2 = false
  address : descriptorAddr c sel = some la
  system : d.s = false
  type : d.type = 9
  present : d.present = true
  cpl : c.cpl ≤ d.dpl
  rpl : rpl sel ≤ d.dpl
  limit : 0x67 ≤ d.limit.toNat
  oldAddress : descriptorAddr c c.tr.selector = some old

/-- The TSS to read holds the image `im` of a task whose segments load (R650 steps 8 to 15). -/
structure State.HoldsTask (u : State) (c : Cpu) (im : TaskImage) (base lac las : Dword) (dc ds : Desc) : Prop where
  image : u.taskImage base = im
  loads : im.Loads dc ds
  code : u.descAt lac = dc
  stack : u.descAt las = ds
  csTi : im.cs.getLsbD 2 = false
  csAddress : descriptorAddr c im.cs = some lac
  ssTi : im.ss.getLsbD 2 = false
  ssAddress : descriptorAddr c im.ss = some las
  eip : im.eip ≤ dc.limit

theorem farTss_ok (h : s.cpu.CanSwitch sel la old d)
    (hnew : (s.taskLeft call d.base la old).HoldsTask s.cpu im d.base lac las dc ds) :
    farTss call d sel s =
      .ok .returned (((s.taskLeft call d.base la old).imageRead d.base).taskSwitched im call sel d lac las dc ds) := by
  have hrights : (decide (s.cpu.cpl ≤ d.dpl) && decide (rpl sel ≤ d.dpl)) = true := by
    rw [Bool.and_eq_true]
    exact ⟨decide_eq_true h.cpl, decide_eq_true h.rpl⟩
  rw [farTss, bind_ok (getCpu_run s), require_bind hrights, require_bind (by rw [h.inGdt]; rfl), require_bind h.present]
  exact bind_ok (taskSwitch_ok h.pg h.old386 h.type h.limit h.address h.oldAddress hnew.image hnew.loads hnew.code
    hnew.stack hnew.csTi hnew.csAddress hnew.ssTi hnew.ssAddress hnew.eip)

/-- A far transfer to the selector of an available TSS (R457, R459). -/
theorem farProtected_tss (hd : s.descAt la = d) (h : s.cpu.CanSwitch sel la old d)
    (hnew : ((s.descLoaded la).taskLeft call d.base la old).HoldsTask s.cpu im d.base lac las dc ds) :
    farProtected call off sel s = .ok .returned
      ((((s.descLoaded la).taskLeft call d.base la old).imageRead d.base).taskSwitched im call sel d lac las dc ds) := by
  subst hd
  have hnotcode : (s.descAt la).isCode = false := by rw [Desc.isCode, h.system]; rfl
  have hnotgate : (!(s.descAt la).s && ((s.descAt la).type == 4 || (s.descAt la).type == 0xC)) = false := by
    rw [h.system, h.type]; rfl
  have hnottask : (!(s.descAt la).s && (s.descAt la).type == 5) = false := by rw [h.system, h.type]; rfl
  have htss : (s.descAt la).isAvailableTss = true := by rw [Desc.isAvailableTss, h.system, h.type]; rfl
  rw [farProtected, bind_ok (getCpu_run s), require_bind (by rw [h.notNull]; rfl), bind_ok (readDescriptor_ok h.pg h.address),
    if_neg (by rw [hnotcode]; decide), if_neg (by rw [hnotgate]; decide), if_neg (by rw [hnottask]; decide), if_pos htss]
  exact farTss_ok (s := s.descLoaded la) h hnew

theorem State.modeSettled_of_settled (h : s.cpu.peSwitched = false) : s.modeSettled = s := by
  rw [State.modeSettled, State.mapCpu, ← h]

/-- The end of an instruction changes registers alone. -/
theorem State.settle_rest (s v : State) (e : Ending) : (State.settle s e v).SameRest v :=
  State.SameRest.mapCpu (s := v) ⟨rfl, rfl, rfl, rfl, rfl⟩ _

/-- JMP or CALL whose far transfer in Protected Mode ends as a task switch does. -/
theorem exec_far_returned {off : Imm} {v : State}
    (hruns : s.mayRun (if call then .callFar off sel else .jmpFar off sel) = true)
    (hprot : s.cpu.prot = true) (hsettled : s.cpu.peSwitched = false)
    (hbody : farProtected call (immOffset off) sel s = .ok .returned v) :
    exec (if call then .callFar off sel else .jmpFar off sel) s = .next (State.settle s .returned v) := by
  cases call with
  | false =>
    have hjump := farJump_prot (off := immOffset off) (sel := sel) hprot
    rw [State.modeSettled_of_settled hsettled, hbody] at hjump
    exact run_ends (i := .jmpFar off sel) hruns hjump rfl
  | true => exact run_ends (i := .callFar off sel) hruns ((farCall_prot hprot hsettled).trans hbody) rfl

/-- JMP and CALL to an available 80386SX TSS: the registers are those of the switch, memory and TLB those the image is read from. -/
theorem exec_farTss {off : Imm} (hruns : s.mayRun (if call then .callFar off sel else .jmpFar off sel) = true)
    (hprot : s.cpu.prot = true) (hsettled : s.cpu.peSwitched = false) (hd : s.descAt la = d) (h : s.cpu.CanSwitch sel la old d)
    (hnew : (s.taskLeft call d.base la old).HoldsTask s.cpu im d.base lac las dc ds) :
    ∃ t : State, exec (if call then .callFar off sel else .jmpFar off sel) s = .next t ∧
      t.cpu = Cpu.settle s.cpu .returned (s.cpu.taskSwitched im call sel d dc ds) ∧
      t.mem = (s.taskLeft call d.base la old).mem ∧ t.tlb = s.tlb ∧ t.queue = [] ∧ t.prefetch = [] ∧ t.pgSwitch = none := by
  have hleft : ((s.descLoaded la).taskLeft call d.base la old).Agrees (s.taskLeft call d.base la old) :=
    (s.descLoaded_agrees la).taskLeft ..
  have hread := State.imageRead_agrees ((s.descLoaded la).taskLeft call d.base la old) d.base
  have hnew' : ((s.descLoaded la).taskLeft call d.base la old).HoldsTask s.cpu im d.base lac las dc ds :=
    { hnew with
      image := (hleft.taskImage _).trans hnew.image
      code := (hleft.descAt _).trans hnew.code
      stack := (hleft.descAt _).trans hnew.stack }
  have hbody := farProtected_tss (off := immOffset off) hd h hnew'
  have hcpu := hread.cpu.trans (hleft.cpu.trans (s.taskLeft_cpu ..))
  have hmem := (State.taskSwitched_mem _ im call sel d lac las dc ds).trans (hread.mem.trans hleft.mem)
  have htlb := (State.taskSwitched_tlb _ im call sel d lac las dc ds).trans
    (hread.tlb.trans (hleft.tlb.trans (s.taskLeft_tlb ..)))
  have hregs := State.taskSwitched_cpu (((s.descLoaded la).taskLeft call d.base la old).imageRead d.base) im call sel d lac
    las dc ds
  rw [hcpu] at hregs
  obtain ⟨hqueue, hprefetch, hpg⟩ := State.taskSwitched_flushed
    (((s.descLoaded la).taskLeft call d.base la old).imageRead d.base) im call sel d lac las dc ds
  generalize (((s.descLoaded la).taskLeft call d.base la old).imageRead d.base).taskSwitched im call sel d lac las dc ds = v
    at hbody hmem htlb hregs hqueue hprefetch hpg
  have hrest := s.settle_rest v .returned
  exact ⟨State.settle s .returned v, exec_far_returned hruns hprot hsettled hbody,
    congrArg (Cpu.settle s.cpu .returned) hregs, hrest.mem.trans hmem, hrest.tlb.trans htlb, hrest.queue.trans hqueue,
    hrest.prefetch.trans hprefetch, hrest.pgSwitch.trans hpg⟩

end Far

/-! ## The registers of the new task (R650 steps 7 to 14) -/

/-- With paging off CR3 keeps its value (R650 step 7). -/
theorem Cpu.taskSwitched_cr3 {c : Cpu} {im : TaskImage} {call : Bool} {sel : Word} {d dc ds : Desc} (hpg : c.cr0.pg = false) :
    (c.taskSwitched im call sel d dc ds).cr3 = c.cr3 := by
  cases hcr3 : im.cr3 <;> simp [Cpu.taskSwitched, armTask, enterTask, hcr3, hpg]

/-- A nested task has NT set (R651). -/
theorem Cpu.taskSwitched_flags (c : Cpu) (im : TaskImage) (call : Bool) (sel : Word) (d dc ds : Desc) :
    (c.taskSwitched im call sel d dc ds).flags = { im.flags with nt := im.flags.nt || call } := by
  cases call <;> rfl

/-- Settles O32: the switch of `taskSwitch_ok`, reached by a far JMP or CALL. -/
theorem taskSwitchCompletes : Obligations.TaskSwitchCompletes := by
  unfold Obligations.TaskSwitchCompletes
  intro call off sel la old lac las s i n b u word dword cs ss dc ds hprot hpg hsettled hruns h386 hnull hti hla hsystem htype
    hpresent hcpl hrpl hlimit hold hvm hnulls hcsNull hcsTi hlac hcode hcodeLevel hcodePresent hcodeAccessed hssNull hssTi hlas
    hstack hstackRpl hstackLevel hstackPresent hstackAccessed hin
  have hloads : (u.taskImage b).Loads dc ds :=
    { vm := hvm, ldtNull := hnulls 0x60 (by simp), dsNull := hnulls 0x54 (by simp), esNull := hnulls 0x48 (by simp),
      fsNull := hnulls 0x58 (by simp), gsNull := hnulls 0x5C (by simp), csNull := hcsNull, code := hcode,
      codeLevel := hcodeLevel, codePresent := hcodePresent, codeAccessed := hcodeAccessed, ssNull := hssNull,
      stack := hstack, stackRpl := hstackRpl, stackLevel := hstackLevel, stackPresent := hstackPresent,
      stackAccessed := hstackAccessed }
  obtain ⟨t, hexec, hcpu, hmem, htlb, hqueue, hprefetch, hswitch⟩ := exec_farTss (off := off) (d := n) hruns hprot hsettled rfl
    ⟨hpg, h386, hnull, hti, hla, hsystem, htype, hpresent, hcpl, hrpl, hlimit, hold⟩
    ⟨rfl, hloads, rfl, rfl, hcsTi, hlac, hssTi, hlas, hin⟩
  refine ⟨t, hexec, hmem, htlb, hqueue, hprefetch, hswitch, ?_⟩
  rw [hcpu]
  refine ⟨rfl, rfl, ?_, rfl, rfl, ?_, rfl, rfl, rfl, ?_, rfl, rfl, rfl⟩
  · exact Cpu.taskSwitched_cr3 (im := u.taskImage b) (call := call) (sel := sel) (d := n) (dc := dc) (ds := ds) hpg
  · exact s.cpu.taskSwitched_flags (u.taskImage b) call sel n dc ds
  · intro r hr
    simp only [List.mem_cons, List.not_mem_nil, or_false] at hr
    rcases hr with rfl | rfl | rfl | rfl <;> rfl

end Sys2Proof.Machine

/-! PROOFS. The mode bits stay legal: what each operation that may write CR0, VM or CPL leads to, and from there every step. -/

namespace Sys2Proof.Machine

/-! ## Predicates over the mode bits -/

/-- CR0, VM and CPL of one processor are those of another. -/
def Cpu.SameMode (c d : Cpu) : Prop := d.cr0 = c.cr0 ∧ d.flags.vm = c.flags.vm ∧ d.cpl = c.cpl

/-- The mode bits are legal. -/
abbrev Cpu.Legal (c : Cpu) : Prop := c.legalMode = true

/-- Protected Mode proper: any CPL is legal. -/
abbrev Cpu.InProt (c : Cpu) : Prop := c.prot = true

/-- Protected Mode is on and the mode bits are legal: Protected Mode proper, or Virtual 8086 Mode at CPL 3. -/
def Cpu.LegalPe (c : Cpu) : Prop := c.cr0.pe = true ∧ c.Legal

/-- What a new task is entered with: VM is that of its image, and CPL is 3 where VM is set (R655). -/
def Cpu.InTask (im : TaskImage) (c : Cpu) : Prop := c.LegalPe ∧ c.flags.vm = im.flags.vm

/-- A property of the mode bits alone that legal modes follow from. -/
structure ModeProp (P : Cpu → Prop) : Prop where
  ofSame : ∀ {c d : Cpu}, c.SameMode d → P c → P d
  legal : ∀ {c : Cpu}, P c → c.Legal

theorem Cpu.SameMode.refl (c : Cpu) : c.SameMode c := ⟨rfl, rfl, rfl⟩

theorem Cpu.SameMode.trans {c d e : Cpu} (h : c.SameMode d) (h' : d.SameMode e) : c.SameMode e :=
  ⟨h'.1.trans h.1, h'.2.1.trans h.2.1, h'.2.2.trans h.2.2⟩

theorem Cpu.SameMode.legalMode_eq {c d : Cpu} (h : c.SameMode d) : d.legalMode = c.legalMode := by
  obtain ⟨hcr0, hvm, hcpl⟩ := h
  simp only [Cpu.legalMode, hcr0, hvm, hcpl]

theorem Cpu.SameMode.prot_eq {c d : Cpu} (h : c.SameMode d) : d.prot = c.prot := by
  obtain ⟨hcr0, hvm, -⟩ := h
  simp only [Cpu.prot, hcr0, hvm]

theorem State.Steady.sameMode {s t : State} (h : s.Steady t) : s.cpu.SameMode t.cpu := ⟨h.cr0, h.vm, h.cpl⟩

/-- With PE set, legal modes say no more than that Virtual 8086 Mode runs at CPL 3. -/
theorem Cpu.legalPe_iff {c : Cpu} : c.LegalPe ↔ c.cr0.pe = true ∧ (c.flags.vm = true → c.cpl = 3) := by
  simp only [Cpu.LegalPe, Cpu.Legal, Cpu.legalMode]
  cases c.cr0.pe <;> cases c.flags.vm <;> simp

theorem Cpu.legalPe_of_prot {c : Cpu} (h : c.InProt) : c.LegalPe := by
  simp only [Cpu.InProt, Cpu.prot, Bool.and_eq_true, Bool.not_eq_true'] at h
  exact Cpu.legalPe_iff.mpr ⟨h.1, fun hv => by simp [h.2] at hv⟩

theorem modeProp_legal : ModeProp Cpu.Legal := ⟨fun h hc => h.legalMode_eq.trans hc, id⟩

theorem modeProp_legalPe : ModeProp Cpu.LegalPe :=
  ⟨fun h hc => ⟨h.1 ▸ hc.1, h.legalMode_eq.trans hc.2⟩, And.right⟩

theorem modeProp_prot : ModeProp Cpu.InProt :=
  ⟨fun h hc => h.prot_eq.trans hc, fun hc => (Cpu.legalPe_of_prot hc).2⟩

theorem modeProp_inTask (im : TaskImage) : ModeProp (Cpu.InTask im) :=
  ⟨fun h hc => ⟨modeProp_legalPe.ofSame h hc.1, h.2.1.trans hc.2⟩, fun hc => hc.1.2⟩

theorem modeProp_same {c : Cpu} (hc : c.Legal) : ModeProp c.SameMode :=
  ⟨fun h h' => h'.trans h, fun h => h.legalMode_eq.trans hc⟩

/-! ## Leading from one to another -/

/-- From a processor with `P` the meaning answers with `Q`, or stops with legal modes. -/
def Leads {α : Type} (P Q : Cpu → Prop) (m : M α) : Prop := ∀ s : State, P s.cpu →
  match m s with
  | .ok _ t => Q t.cpu
  | .error _ t => t.cpu.Legal

section Rules
variable {α β : Type} {P P' Q R : Cpu → Prop}

theorem leads_bind {m : M α} {f : α → M β} (h : Leads P R m) (h' : ∀ a, Leads R Q (f a)) : Leads P Q (m >>= f) := by
  intro s hs
  have h1 := h s hs
  rw [bind_run]
  cases hm : m s with
  | ok a t => rw [hm] at h1; exact h' a t h1
  | error e t => rw [hm] at h1; exact h1

theorem Leads.pre {m : M α} (h : Leads P Q m) (hP : ∀ c, P' c → P c) : Leads P' Q m := fun s hs => h s (hP _ hs)

theorem Leads.post {m : M α} (h : Leads P R m) (hQ : ∀ c, R c → Q c) : Leads P Q m := fun s hs => by
  have h1 := h s hs
  cases hm : m s with
  | ok a t => rw [hm] at h1; exact hQ _ h1
  | error e t => rw [hm] at h1; exact h1

theorem leads_pure (a : α) (h : ∀ c, P c → Q c) : Leads P Q (pure a) := fun s hs => h s.cpu hs

/-- A steady meaning keeps every property of the mode bits. -/
theorem IsSteady.leads {m : M α} (h : IsSteady m) (hP : ModeProp P) : Leads P P m := fun s hs => by
  have h1 := (h s).sameMode
  rw [M.after] at h1
  cases hm : m s with
  | ok a t => rw [hm] at h1; exact hP.ofSame h1 hs
  | error e t => rw [hm] at h1; exact hP.legal (hP.ofSame h1 hs)

/-- A sequence that begins with a steady meaning. -/
theorem leads_after {m : M α} {f : α → M β} (h : IsSteady m) (hP : ModeProp P) (h' : ∀ a, Leads P Q (f a)) :
    Leads P Q (m >>= f) := leads_bind (h.leads hP) h'

/-- What a sequence reads of the processor has the property, and the mode bits it has until one is written. -/
theorem leads_getCpu {f : Cpu → M β} (h : ∀ c, P c → Leads c.SameMode Q (f c)) : Leads P Q (getCpu >>= f) :=
  fun s hs => h s.cpu hs s (.refl _)

/-- A requirement that is met is known to hold afterwards. -/
theorem leads_require {b : Bool} {e : Exc} (hP : ∀ c, P c → c.Legal) (h : b = true → ∀ c, P c → Q c) :
    Leads P Q (require b e) := by
  cases b with
  | true => exact fun s hs => h rfl s.cpu hs
  | false => exact fun s hs => hP _ hs

/-- A sequence that begins with a requirement. -/
theorem leads_require_bind {b : Bool} {e : Exc} {f : Unit → M β} (hP : ∀ c, P c → c.Legal)
    (h : b = true → Leads P Q (f ())) : Leads P Q (require b e >>= f) := by
  cases b with
  | true => exact h rfl
  | false => exact fun s hs => hP _ hs

theorem leads_modifyCpu {f : Cpu → Cpu} (h : ∀ c, P c → Q (f c)) : Leads P Q (modifyCpu f) := fun s hs => h s.cpu hs

theorem leads_modifyFlags {f : EFlags → EFlags} (h : ∀ c, P c → Q { c with flags := f c.flags }) :
    Leads P Q (modifyFlags f) := leads_modifyCpu h

theorem leads_raiseExc {e : Exc} (hP : ∀ c, P c → c.Legal) : Leads P Q (raiseExc e : M α) := fun s hs => hP s.cpu hs

theorem leads_refuse {r : Refusal} (hP : ∀ c, P c → c.Legal) : Leads P Q (refuse r : M α) := fun s hs => hP s.cpu hs

theorem leads_ite {p : Prop} [Decidable p] {m m' : M α} (h : p → Leads P Q m) (h' : ¬ p → Leads P Q m') :
    Leads P Q (if p then m else m') := by
  split
  · exact h ‹p›
  · exact h' ‹¬ p›

theorem leads_commit {m : M α} (h : Leads P Q m) : Leads P Q (commit m) := fun s hs => by
  have h1 := h s hs
  rw [commit]
  cases hm : m s with
  | ok a t => rw [hm] at h1; exact h1
  | error e t => rw [hm] at h1; cases e <;> exact h1

end Rules

/-! ## Code segments and stacks -/

/-- Loading CS writes CPL; in Protected Mode proper any level is legal. -/
theorem leads_enterCode (sel : Word) (d : Desc) (level : BitVec 2) (off : Dword) :
    Leads Cpu.InProt Cpu.InProt (enterCode sel d level off) :=
  leads_after (steady_setAccessed sel d) modeProp_prot fun _ => leads_bind (leads_modifyCpu fun _ h => h) fun _ =>
    (steady_setEip off).leads modeProp_prot

/-- Loading CS at the current level keeps the mode bits. -/
theorem leads_enterCode_same {c : Cpu} (hc : c.Legal) (sel : Word) (d : Desc) (off : Dword) :
    Leads c.SameMode c.SameMode (enterCode sel d c.cpl off) :=
  leads_after (steady_setAccessed sel d) (modeProp_same hc) fun _ =>
    leads_bind (leads_modifyCpu fun _ ⟨hcr0, hvm, _⟩ => ⟨hcr0, hvm, rfl⟩) fun _ => (steady_setEip off).leads (modeProp_same hc)

/-- The stack of an inner level is entered with VM clear (R661). -/
theorem leads_enterInnerStack (sel : Word) (d : Desc) (esp : Dword) (level : BitVec 2) :
    Leads Cpu.LegalPe Cpu.InProt (enterInnerStack sel d esp level) :=
  leads_after (steady_setAccessed sel d) modeProp_legalPe fun _ => leads_modifyCpu fun _ h => by simp [Cpu.InProt, Cpu.prot, h.1]

theorem leads_jumped {P : Cpu → Prop} : Leads P P (pure Ending.jumped) := leads_pure _ fun _ => id

/-! ## Far transfers (R452 to R460) -/

theorem leads_farSameLevel (call : Bool) (sz : Sz) (sel : Word) (d : Desc) (off : Dword) :
    Leads Cpu.InProt Cpu.InProt (farSameLevel call sz sel d off) :=
  leads_after steady_getCpu modeProp_prot fun c => leads_after (steady_require _ _) modeProp_prot fun _ =>
    have enter := leads_bind (leads_enterCode sel d c.cpl off) fun _ => leads_jumped
    leads_ite (fun _ => leads_after (steady_requireRoom 2 sz) modeProp_prot fun _ =>
      leads_after (steady_pushReturn sz) modeProp_prot fun _ => enter) fun _ => enter

theorem leads_callInner (g : Desc) (csel : Word) (d : Desc) (off : Dword) (sz : Sz) :
    Leads Cpu.InProt Cpu.InProt (callInner g csel d off sz) :=
  leads_after steady_getCpu modeProp_prot fun _ => leads_after (steady_innerStackPointer d.dpl) modeProp_prot fun ⟨nesp, nss⟩ =>
    leads_after (steady_checkInnerStack nss d.dpl) modeProp_prot fun s => leads_after (steady_require _ _) modeProp_prot fun _ =>
    leads_after (steady_require _ _) modeProp_prot fun _ =>
    leads_after (steady_stackItems sz 0 g.wordCount) modeProp_prot fun _ =>
    leads_bind ((leads_enterInnerStack nss s nesp d.dpl).pre fun _ => Cpu.legalPe_of_prot) fun _ =>
    leads_after (steady_pushSelector sz _) modeProp_prot fun _ => leads_after (steady_push sz _) modeProp_prot fun _ =>
    leads_after (steady_pushAll sz _) modeProp_prot fun _ => leads_after (steady_pushReturn sz) modeProp_prot fun _ =>
    leads_bind (leads_enterCode csel d d.dpl off) fun _ => leads_jumped

theorem leads_farGate (call : Bool) (g : Desc) (gsel : Word) : Leads Cpu.InProt Cpu.InProt (farGate call g gsel) :=
  leads_after steady_getCpu modeProp_prot fun _ => leads_after (steady_require _ _) modeProp_prot fun _ =>
    leads_after (steady_require _ _) modeProp_prot fun _ => leads_after (steady_require _ _) modeProp_prot fun _ =>
    leads_after (steady_readDescriptor _ _) modeProp_prot fun d => leads_after (steady_require _ _) modeProp_prot fun _ =>
    leads_after (steady_require _ _) modeProp_prot fun _ => leads_after (steady_require _ _) modeProp_prot fun _ =>
    leads_after (steady_require _ _) modeProp_prot fun _ =>
    leads_ite (fun _ => leads_farSameLevel call _ _ d _) fun _ => leads_callInner g _ d _ _

/-- Loading the segments of a new task sets CPL with VM (R650, R655). -/
theorem leads_loadTaskSegments (im : TaskImage) : Leads (Cpu.InTask im) Cpu.LegalPe (loadTaskSegments im) := by
  unfold loadTaskSegments
  refine leads_ite (fun _ => leads_modifyCpu fun c h => Cpu.legalPe_iff.mpr ⟨h.1.1, fun _ => rfl⟩) fun hv => ?_
  refine leads_bind (leads_modifyCpu fun c h => Cpu.legalPe_iff.mpr ⟨h.1.1, fun h' => absurd (h.2.symm.trans h') hv⟩) fun _ => ?_
  refine leads_after (steady_loadStack _ _ _) modeProp_legalPe fun _ => ?_
  refine leads_after (steady_loadTaskCode _) modeProp_legalPe fun _ => ?_
  refine leads_after (steady_loadData _ _ _) modeProp_legalPe fun _ => ?_
  refine leads_after (steady_loadData _ _ _) modeProp_legalPe fun _ => ?_
  refine leads_after (steady_loadData _ _ _) modeProp_legalPe fun _ => ?_
  exact (steady_loadData _ _ _).leads modeProp_legalPe

/-- The registers of a new task: VM from its image, with CPL 3 (R650, R655). -/
theorem inTask_enterTask {c : Cpu} (h : c.LegalPe) (im : TaskImage) (kind : TaskKind) (sel : Word) (t : Desc) (is386 : Bool) :
    (enterTask im kind sel t is386 c).InTask im := by
  refine ⟨Cpu.legalPe_iff.mpr ⟨h.1, fun hv => ?_⟩, rfl⟩
  have hv : im.flags.vm = true := hv
  simp [enterTask, hv]

theorem leads_taskSwitch (sel : Word) (t : Desc) (kind : TaskKind) (ret : Dword) (rf : Bool) :
    Leads Cpu.LegalPe Cpu.LegalPe (taskSwitch sel t kind ret rf) := 
  leads_after steady_getCpu modeProp_legalPe fun _ => leads_after (steady_require _ _) modeProp_legalPe fun _ =>
  leads_after (steady_translate _ _ _ _) modeProp_legalPe fun _ => leads_after (steady_touchNewTss _ _ _) modeProp_legalPe fun _ =>
  leads_after (steady_saveTask _ _ _ _) modeProp_legalPe fun _ => leads_after (steady_releaseOldTask _ _) modeProp_legalPe fun _ =>
  leads_after (steady_linkTasks _ _ _) modeProp_legalPe fun _ => leads_after (steady_markNewTask _ _) modeProp_legalPe fun _ =>
  leads_after (steady_readTask _ _) modeProp_legalPe fun im =>
  leads_bind (leads_modifyCpu fun _ h => inTask_enterTask h im kind sel t _) fun _ =>
  leads_after (steady_flushForTask _) (modeProp_inTask im) fun _ => leads_after steady_flushPrefetch (modeProp_inTask im) fun _ =>
  leads_commit <| leads_after (steady_loadTaskLdt _) (modeProp_inTask im) fun _ => leads_bind (leads_loadTaskSegments im) fun _ =>
  leads_after (steady_modifyCpu fun _ => ⟨rfl, rfl, rfl, rfl⟩) modeProp_legalPe fun _ =>
  (steady_requireTaskEip im).leads modeProp_legalPe

/-- A task switch that ends an instruction of Protected Mode proper. -/
theorem leads_taskSwitch_returned (sel : Word) (t : Desc) (kind : TaskKind) (ret : Dword) (rf : Bool) :
    Leads Cpu.InProt Cpu.Legal (do taskSwitch sel t kind ret rf; pure Ending.returned) :=
  leads_bind ((leads_taskSwitch sel t kind ret rf).pre fun _ => Cpu.legalPe_of_prot) fun _ => leads_pure _ fun _ h => h.2

theorem leads_farTss (call : Bool) (t : Desc) (sel : Word) : Leads Cpu.InProt Cpu.Legal (farTss call t sel) :=
  leads_after steady_getCpu modeProp_prot fun _ => leads_after (steady_require _ _) modeProp_prot fun _ =>
    leads_after (steady_require _ _) modeProp_prot fun _ => leads_after (steady_require _ _) modeProp_prot fun _ =>
    leads_taskSwitch_returned _ _ _ _ _

theorem leads_farTaskGate (call : Bool) (g : Desc) (gsel : Word) : Leads Cpu.InProt Cpu.Legal (farTaskGate call g gsel) :=
  leads_after steady_getCpu modeProp_prot fun _ => leads_after (steady_require _ _) modeProp_prot fun _ =>
    leads_after (steady_require _ _) modeProp_prot fun _ => leads_after (steady_taskGateTarget _) modeProp_prot fun _ =>
    leads_taskSwitch_returned _ _ _ _ _

theorem leads_farProtected (call : Bool) (off : Dword) (sel : Word) : Leads Cpu.InProt Cpu.Legal (farProtected call off sel) :=
  leads_after steady_getCpu modeProp_prot fun _ => leads_after (steady_require _ _) modeProp_prot fun _ =>
    leads_after (steady_readDescriptor _ _) modeProp_prot fun d =>
    leads_ite (fun _ => leads_after (steady_require _ _) modeProp_prot fun _ => leads_after (steady_require _ _) modeProp_prot fun _ =>
      (leads_farSameLevel call _ sel d off).post fun _ => modeProp_prot.legal) fun _ =>
    leads_ite (fun _ => (leads_farGate call d sel).post fun _ => modeProp_prot.legal) fun _ =>
    leads_ite (fun _ => leads_farTaskGate call d sel) fun _ => leads_ite (fun _ => leads_farTss call d sel) fun _ =>
    leads_raiseExc fun _ => modeProp_prot.legal

theorem leads_farJump (off : Dword) (sel : Word) : Leads Cpu.Legal Cpu.Legal (farJump off sel) :=
  leads_after steady_settleMode modeProp_legal fun _ => leads_getCpu fun _ hc =>
    leads_ite (fun hp => (leads_farProtected false off sel).pre fun _ h => h.prot_eq.trans hp) fun _ =>
    (steady_bind (steady_require _ _) fun _ => steady_bind (steady_loadCodeReal sel) fun _ => steady_bind (steady_setEip off) fun _ =>
      steady_pure _).leads (modeProp_same hc) |>.post fun _ => (modeProp_same hc).legal

theorem leads_farCall (off : Dword) (sel : Word) : Leads Cpu.Legal Cpu.Legal (farCall off sel) :=
  leads_after steady_requireSettledMode modeProp_legal fun _ => leads_getCpu fun c hc =>
    leads_ite (fun hp => (leads_farProtected true off sel).pre fun _ h => h.prot_eq.trans hp) fun _ =>
    (steady_bind (steady_require _ _) fun _ => steady_bind (steady_pushReturn c.osz) fun _ =>
      steady_bind (steady_loadCodeReal sel) fun _ => steady_bind (steady_setEip off) fun _ =>
      steady_pure _).leads (modeProp_same hc) |>.post fun _ => (modeProp_same hc).legal

/-- The stack of the outer level after a return (R460, R497). -/
theorem steady_outerStack (sz : Sz) (nss : Word) (s : Desc) (esp : Dword) : IsSteady (do
    setAccessed nss s
    setSeg .ss (s.cache nss)
    loadEsp sz esp
    dropSegments) :=
  steady_bind (steady_setAccessed nss s) fun _ => steady_bind (steady_setSeg .ss _) fun _ =>
    steady_bind (steady_loadEsp sz esp) fun _ => steady_dropSegments

/-- In Protected Mode a far RET stays at its level or goes to an outer one; elsewhere it writes no mode bit (R456, R460). -/
theorem leads_returnFar (bytes : Dword) : Leads Cpu.Legal Cpu.Legal (returnFar bytes) := by
  refine leads_after steady_requireSettledMode modeProp_legal fun _ => leads_getCpu fun c hc => leads_ite (fun hp => ?_) fun _ => ?_
  · refine .pre (P := Cpu.InProt) (.post (R := Cpu.InProt) ?_ fun _ => modeProp_prot.legal) fun _ h => h.prot_eq.trans hp
    refine leads_after (steady_requireStack _ _) modeProp_prot fun _ => leads_after (steady_stackItem c.osz _) modeProp_prot fun off =>
      leads_after (steady_stackItem c.osz _) modeProp_prot fun selItem =>
      leads_after (steady_checkReturnCode _) modeProp_prot fun d => leads_ite (fun _ => ?_) fun _ => ?_
    · exact leads_after (steady_require _ _) modeProp_prot fun _ =>
        leads_after (steady_modifyCpu fun _ => ⟨rfl, rfl, rfl, rfl⟩) modeProp_prot fun _ =>
        leads_bind (leads_enterCode _ d _ _) fun _ => leads_jumped
    · exact leads_after (steady_requireStack _ _) modeProp_prot fun _ => leads_after (steady_segRead _ _ c.osz) modeProp_prot fun nesp =>
        leads_after (steady_segRead _ _ c.osz) modeProp_prot fun ssItem =>
        leads_after (steady_checkOuterStack _ _) modeProp_prot fun s => leads_after (steady_require _ _) modeProp_prot fun _ =>
        leads_bind (leads_enterCode _ d _ _) fun _ =>
        leads_after (steady_setAccessed _ s) modeProp_prot fun _ => leads_after (steady_setSeg _ _) modeProp_prot fun _ =>
        leads_after (steady_loadEsp c.osz _) modeProp_prot fun _ => leads_after steady_dropSegments modeProp_prot fun _ => leads_jumped
  · refine .post (R := c.SameMode) (IsSteady.leads ?_ (modeProp_same hc)) fun _ => (modeProp_same hc).legal
    exact steady_bind (steady_stackItem c.osz _) fun _ => steady_bind (steady_stackItem c.osz _) fun _ =>
      steady_bind (steady_require _ _) fun _ => steady_bind (steady_modifyCpu fun _ => ⟨rfl, rfl, rfl, rfl⟩) fun _ =>
      steady_bind (steady_loadCodeReal _) fun _ => steady_bind (steady_setEip _) fun _ => steady_pure _

/-! ## Delivery (R620 to R640, R661) -/

theorem leads_enterSame (ev : Event) (sz : Sz) (csel : Word) (d : Desc) (off : Dword) :
    Leads Cpu.LegalPe Cpu.LegalPe (enterSame ev sz csel d off) :=
  leads_getCpu fun _ hc =>
    have same := modeProp_same hc.2
    .post (leads_after (steady_requireRoom _ sz) same fun _ => leads_after (steady_require _ _) same fun _ =>
      leads_after (steady_pushFrame ev sz _) same fun _ => leads_enterCode_same hc.2 csel d off)
      fun _ h => modeProp_legalPe.ofSame h hc

theorem leads_enterInner (ev : Event) (sz : Sz) (csel : Word) (d : Desc) (off : Dword) :
    Leads Cpu.LegalPe Cpu.LegalPe (enterInner ev sz csel d off) := by
  refine leads_after steady_getCpu modeProp_legalPe fun c =>
    leads_after (steady_innerStackPointer d.dpl) modeProp_legalPe fun ⟨nesp, nss⟩ =>
    leads_after (steady_checkInnerStack nss d.dpl) modeProp_legalPe fun s => leads_after (steady_require _ _) modeProp_legalPe fun _ =>
    leads_after (steady_require _ _) modeProp_legalPe fun _ => leads_bind (leads_enterInnerStack nss s nesp d.dpl) fun _ => ?_
  have frame : Leads Cpu.InProt Cpu.LegalPe (do
      pushSelector sz c.segs.ss.selector
      push sz (c.gpr.esp.setWidth sz.bits)
      pushFrame ev sz c
      enterCode csel d d.dpl off) :=
    leads_after (steady_pushSelector sz _) modeProp_prot fun _ => leads_after (steady_push sz _) modeProp_prot fun _ =>
      leads_after (steady_pushFrame ev sz c) modeProp_prot fun _ =>
      (leads_enterCode csel d d.dpl off).post fun _ => Cpu.legalPe_of_prot
  exact leads_ite (fun _ => leads_after (steady_pushV86Segments c) modeProp_prot fun _ => frame) fun _ => frame

theorem leads_enterGate (ev : Event) (g : Desc) : Leads Cpu.LegalPe Cpu.LegalPe (enterGate ev g) :=
  leads_after steady_getCpu modeProp_legalPe fun _ => leads_ite (fun _ => leads_refuse fun _ => modeProp_legalPe.legal) fun _ =>
    leads_after (steady_require _ _) modeProp_legalPe fun _ => leads_after (steady_readDescriptor _ _) modeProp_legalPe fun d =>
    leads_after (steady_require _ _) modeProp_legalPe fun _ => leads_after (steady_require _ _) modeProp_legalPe fun _ =>
    leads_after (steady_require _ _) modeProp_legalPe fun _ => leads_after (steady_require _ _) modeProp_legalPe fun _ =>
    have entered := leads_modifyFlags (f := fun f => f.afterEntry (!g.type.getLsbD 0 || ev.nmi)) fun _ h =>
      Cpu.legalPe_iff.mpr ⟨h.1, fun hv => nomatch hv⟩
    leads_ite (fun _ => leads_bind (leads_enterInner ev _ _ d _) fun _ => entered)
      fun _ => leads_bind (leads_enterSame ev _ _ d _) fun _ => entered

theorem leads_enterTaskGate (ev : Event) (g : Desc) : Leads Cpu.LegalPe Cpu.LegalPe (enterTaskGate ev g) := by
  refine leads_after (steady_taskGateTarget _) modeProp_legalPe fun t => leads_bind (leads_taskSwitch _ t _ _ _) fun _ => ?_
  have code : IsSteady (commit (match ev.code with
      | some code => pushSelector (if t.type.getLsbD 3 then .d else .w) code
      | none => pure ())) := steady_commit <| by
    cases ev.code with
    | none => exact steady_pure ()
    | some code => exact steady_pushSelector _ code
  exact leads_ite (fun _ => leads_after (steady_modifyFlags fun _ => rfl) modeProp_legalPe fun _ => code.leads modeProp_legalPe)
    fun _ => code.leads modeProp_legalPe

theorem leads_deliverProtected (ev : Event) : Leads Cpu.LegalPe Cpu.LegalPe (deliverProtected ev) :=
  leads_after steady_getCpu modeProp_legalPe fun _ => leads_after (steady_require _ _) modeProp_legalPe fun _ =>
    leads_after (steady_readDescriptorAt _) modeProp_legalPe fun g => leads_after (steady_require _ _) modeProp_legalPe fun _ =>
    leads_after (steady_require _ _) modeProp_legalPe fun _ => leads_after (steady_require _ _) modeProp_legalPe fun _ =>
    leads_ite (fun _ => leads_enterTaskGate ev g) fun _ => leads_enterGate ev g

theorem leads_deliverOnce (ev : Event) : Leads Cpu.Legal Cpu.Legal (deliverOnce ev) := by
  refine leads_after steady_requireSettledMode modeProp_legal fun _ => leads_getCpu fun c hc => ?_
  have finish : Leads Cpu.Legal Cpu.Legal (do
      flushPrefetch
      modifyCpu fun c => { c with
        run := .running
        dbg := if ev.vector == 1 && ev.kind == .exception then { c.dbg with dr7 := c.dbg.dr7 &&& 0xFFFFDFFF } else c.dbg }) :=
    leads_after steady_flushPrefetch modeProp_legal fun _ => leads_modifyCpu fun _ h => h
  refine leads_ite (fun _ => ?_) fun hr => ?_
  · exact leads_bind ((steady_deliverReal ev).leads (modeProp_same hc) |>.post fun _ => (modeProp_same hc).legal) fun _ => finish
  · have hpe : c.LegalPe := ⟨by simpa [Cpu.real] using hr, hc⟩
    exact leads_bind ((leads_deliverProtected ev).pre (fun _ h => modeProp_legalPe.ofSame h hpe) |>.post fun _ => And.right) fun _ =>
      finish

/-- Each attempt starts with legal modes: those before a failed one, or those of a new task (R629, R640). -/
theorem leads_deliver (n : Nat) (ev : Event) : Leads Cpu.Legal Cpu.Legal (deliver n ev) := by
  induction n generalizing ev with
  | zero => exact steady_shutdown.leads modeProp_legal
  | succ n ih =>
    intro s hs
    have nested : ∀ (o : Option Event) (e : Exc), Leads Cpu.Legal Cpu.Legal (do
        applyExc e
        match o with
        | some ev2 => deliver n ev2
        | none => shutdown) := fun o e => leads_after (steady_applyExc e) modeProp_legal fun _ => by
      cases o with
      | none => exact steady_shutdown.leads modeProp_legal
      | some ev2 => exact ih ev2
    have once := leads_deliverOnce ev s hs
    simp only [deliver]
    cases hm : deliverOnce ev s with
    | ok a t => rw [hm] at once; exact once
    | error e t =>
      rw [hm] at once
      cases e with
      | exc e => exact nested _ e { t with cpu := s.cpu } hs
      | committed e => exact nested _ e t once
      | refuse r => exact once
      | shutdown => exact once

theorem leads_softwareInterrupt (v : Byte) : Leads Cpu.Legal Cpu.Legal (softwareInterrupt v) :=
  leads_after steady_getCpu modeProp_legal fun _ => leads_bind (leads_deliver _ _) fun _ =>
    have ended := leads_pure (P := Cpu.Legal) (Q := Cpu.Legal) Ending.interrupted fun _ => id
    leads_ite (fun _ => leads_after (steady_modifyFlags fun _ => rfl) modeProp_legal fun _ => ended) fun _ => ended

/-! ## Interrupt return (R495 to R497) -/

theorem leads_iretTask : Leads Cpu.LegalPe Cpu.LegalPe iretTask :=
  leads_after steady_getCpu modeProp_legalPe fun _ => leads_after (steady_sysRead _ .w) modeProp_legalPe fun _ =>
    leads_after (steady_require _ _) modeProp_legalPe fun _ => leads_after (steady_readDescriptor _ _) modeProp_legalPe fun t =>
    leads_after (steady_require _ _) modeProp_legalPe fun _ => leads_after (steady_require _ _) modeProp_legalPe fun _ =>
    leads_taskSwitch _ t _ _ _

theorem leads_iretV86 (off : Dword) (sel : Word) (f : Dword) : Leads Cpu.LegalPe Cpu.LegalPe (iretV86 off sel f) :=
  leads_after (steady_requireStack _ _) modeProp_legalPe fun _ => leads_after (steady_stackItem .d _) modeProp_legalPe fun _ =>
    leads_after (steady_stackItem .d _) modeProp_legalPe fun _ => leads_after (steady_stackItem .d _) modeProp_legalPe fun _ =>
    leads_after (steady_stackItem .d _) modeProp_legalPe fun _ => leads_after (steady_stackItem .d _) modeProp_legalPe fun _ =>
    leads_after (steady_stackItem .d _) modeProp_legalPe fun _ =>
    leads_bind (leads_modifyCpu fun _ h => Cpu.legalPe_iff.mpr ⟨h.1, fun _ => rfl⟩) fun _ =>
    (steady_setEip _).leads modeProp_legalPe

theorem leads_iretProtected (sz : Sz) (off : Dword) (sel : Word) (f : Dword) :
    Leads Cpu.InProt Cpu.InProt (iretProtected sz off sel f) := by
  have flags : ∀ cpl, IsSteady (modifyFlags (iretFlags cpl sz f)) := fun _ => steady_modifyFlags fun _ => rfl
  refine leads_after steady_getCpu modeProp_prot fun c => leads_after (steady_checkReturnCode sel) modeProp_prot fun d =>
    leads_ite (fun _ => ?_) fun _ => ?_
  · exact leads_after (steady_require _ _) modeProp_prot fun _ =>
      leads_after (steady_modifyCpu fun _ => ⟨rfl, rfl, rfl, rfl⟩) modeProp_prot fun _ =>
      leads_bind (leads_enterCode sel d _ off) fun _ => (flags c.cpl).leads modeProp_prot
  · exact leads_after (steady_requireStack _ _) modeProp_prot fun _ => leads_after (steady_stackItem sz _) modeProp_prot fun nesp =>
      leads_after (steady_stackItem sz _) modeProp_prot fun ssItem =>
      leads_after (steady_checkOuterStack _ _) modeProp_prot fun s => leads_after (steady_require _ _) modeProp_prot fun _ =>
      leads_after (flags c.cpl) modeProp_prot fun _ => leads_bind (leads_enterCode sel d _ off) fun _ =>
      (steady_outerStack sz _ s _).leads modeProp_prot

theorem leads_interruptReturn : Leads Cpu.Legal Cpu.Legal interruptReturn := by
  refine leads_after steady_requireSettledMode modeProp_legal fun _ => leads_getCpu fun c hc => ?_
  have finish : Leads Cpu.Legal Cpu.Legal (do endNmiService; pure Ending.returned) :=
    leads_after steady_endNmiService modeProp_legal fun _ => leads_pure _ fun _ => id
  refine leads_ite (fun _ => ?_) fun hp => ?_
  · exact leads_bind (steady_iretReal.leads (modeProp_same hc) |>.post fun _ => (modeProp_same hc).legal) fun _ => finish
  · have hp : c.InProt := by simpa using hp
    refine .pre (P := Cpu.InProt) ?_ fun _ h => h.prot_eq.trans hp
    refine leads_ite (fun _ => ?_) fun _ => ?_
    · exact leads_bind (leads_iretTask.pre (fun _ => Cpu.legalPe_of_prot) |>.post fun _ => And.right) fun _ => finish
    · refine leads_after (steady_requireStack _ _) modeProp_prot fun _ => leads_after (steady_stackItem c.osz _) modeProp_prot fun off =>
        leads_after (steady_stackItem c.osz _) modeProp_prot fun sel => leads_after (steady_stackItem c.osz _) modeProp_prot fun f =>
        leads_ite (fun _ => ?_) fun _ => ?_
      · exact leads_bind ((leads_iretV86 _ _ _).pre (fun _ => Cpu.legalPe_of_prot) |>.post fun _ => And.right) fun _ => finish
      · exact leads_bind ((leads_iretProtected _ _ _ _).post fun _ => modeProp_prot.legal) fun _ => finish

/-! ## Bodies that load modes -/

/-- Legal modes at CPL 0: what a privileged instruction runs under. -/
def Cpu.AtLevel0 (c : Cpu) : Prop := c.Legal ∧ c.cpl = 0

theorem modeProp_atLevel0 : ModeProp Cpu.AtLevel0 :=
  ⟨fun h hc => ⟨modeProp_legal.ofSame h hc.1, h.2.2.trans hc.2⟩, And.left⟩

theorem leads_decodeChecks_privileged {i : Instr} (hi : (modeRule i).privileged? = true) :
    Leads Cpu.Legal Cpu.AtLevel0 (decodeChecks i) :=
  leads_getCpu fun _ hc => leads_after (steady_require _ _) (modeProp_same hc) fun _ =>
    leads_require (fun _ => (modeProp_same hc).legal) fun hb _ h =>
      modeProp_atLevel0.ofSame h ⟨hc, by simpa [hi] using hb⟩

/-- An instruction in the usual shell whose body keeps legal modes. -/
theorem Runs.leads {i : Instr} {body : M Ending} (he : ∀ s, exec i s = run i body s) (h : Leads Cpu.Legal Cpu.Legal body) :
    Runs (Leads Cpu.Legal Cpu.Legal) i :=
  ⟨_, leads_after (steady_decodeChecks i) modeProp_legal fun _ => h, he⟩

/-- A privileged instruction in the usual shell, whose body leads from CPL 0 to legal modes. -/
theorem Runs.leads_privileged {i : Instr} {body : M Ending} (he : ∀ s, exec i s = run i body s)
    (hi : (modeRule i).privileged? = true) (h : Leads Cpu.AtLevel0 Cpu.Legal body) : Runs (Leads Cpu.Legal Cpu.Legal) i :=
  ⟨_, leads_bind (leads_decodeChecks_privileged hi) fun _ => h, he⟩

/-- At CPL 0, where VM is clear, any CR0 that has PE where it has PG is legal (R49, R514). -/
theorem Cpu.AtLevel0.withCr0 {c : Cpu} (h : c.AtLevel0) {r : CR0} (hr : (!(r.pg && !r.pe)) = true) : (c.withCr0 r).Legal := by
  obtain ⟨hl, h0⟩ := h
  simp only [Cpu.Legal, Cpu.legalMode, Cpu.withCr0, h0] at hl ⊢
  revert hl hr
  cases r.pg <;> cases r.pe <;> cases c.flags.vm <;> simp

/-- LMSW sets PE or leaves it, so that legal modes stay legal (R547). -/
theorem Cpu.legal_withCr0_of_or {c : Cpu} (h : c.Legal) (b mp em ts : Bool) :
    (c.withCr0 { c.cr0 with pe := c.cr0.pe || b, mp := mp, em := em, ts := ts }).Legal := by
  simp only [Cpu.Legal, Cpu.legalMode, Cpu.withCr0] at h ⊢
  revert h
  cases c.cr0.pe <;> cases c.cr0.pg <;> cases c.flags.vm <;> cases b <;> simp

theorem runs_legal_movCrReg (r : CReg) (src : Reg) : Runs (Leads Cpu.Legal Cpu.Legal) (.movCrReg r src) := by
  refine .leads_privileged (fun _ => rfl) rfl (leads_after (steady_readReg .d src) modeProp_atLevel0 fun v => ?_)
  have finish := steady_afterSpecialMove.leads modeProp_legal
  cases r with
  | cr0 =>
    exact leads_require_bind (fun _ => And.left) fun hv => leads_after (steady_notePaging _) modeProp_atLevel0 fun _ =>
      leads_bind (leads_modifyCpu fun _ h => h.withCr0 hv) fun _ => finish
  | cr2 => exact leads_bind (leads_modifyCpu fun _ h => h.1) fun _ => finish
  | cr3 => exact leads_bind (leads_modifyCpu fun _ h => h.1) fun _ => leads_after steady_flushTlb modeProp_legal fun _ => finish

/-- The body of every instruction but the prefixes keeps legal modes. -/
theorem runs_legal {i : Instr} (hp : isPrefix i = false) : Runs (Leads Cpu.Legal Cpu.Legal) i := by
  by_cases hm : loadsModes i = true
  · have next : Leads Cpu.Legal Cpu.Legal (pure Ending.next) := leads_pure _ fun _ => id
    cases i with
    | callFar off sel => exact .leads (fun _ => rfl) (leads_farCall _ sel)
    | jmpFar off sel => exact .leads (fun _ => rfl) (leads_farJump _ sel)
    | callFarMem m =>
      exact .leads (fun _ => rfl) (leads_after (steady_readFarPointer m) modeProp_legal fun p => leads_farCall p.1 p.2)
    | jmpFarMem m =>
      exact .leads (fun _ => rfl) (leads_after (steady_readFarPointer m) modeProp_legal fun p => leads_farJump p.1 p.2)
    | retFar | retFarImm _ => exact .leads (fun _ => rfl) (leads_returnFar _)
    | int v => exact .leads (fun _ => rfl) (leads_after steady_requireV86Iopl modeProp_legal fun _ => leads_softwareInterrupt v)
    | int3 => exact .leads (fun _ => rfl) (leads_softwareInterrupt 3)
    | into =>
      exact .leads (fun _ => rfl) (leads_after steady_getFlags modeProp_legal fun _ =>
        leads_ite (fun _ => leads_softwareInterrupt 4) fun _ => next)
    | iret => exact .leads (fun _ => rfl) leads_interruptReturn
    | clts => exact .leads (fun _ => rfl) (leads_bind (leads_modifyCpu fun _ h => h) fun _ => next)
    | movCrReg r src => exact runs_legal_movCrReg r src
    | lmsw rm =>
      exact .leads (fun _ => rfl) (leads_after (steady_readRM .w rm) modeProp_legal fun _ =>
        leads_bind (leads_modifyCpu fun _ h => Cpu.legal_withCr0_of_or h _ _ _ _) fun _ => next)
    | _ => cases hm
  · exact (runs_steady hp (by simpa using hm)).mono fun _ h => h.leads modeProp_legal

/-! ## Outcomes -/

/-- What a step leaves: legal modes, and no instruction half decoded. -/
def State.Settled (t : State) : Prop := t.cpu.Legal ∧ t.atRest = true

theorem State.Settled.of_rest {t : State} (h : t.cpu.Legal) (hr : t.cpu.cur = Current.none) : t.Settled :=
  ⟨h, by simp [State.atRest, hr]⟩

/-- Completing an instruction changes no mode bit: of the flags, RF alone (R48). -/
theorem Cpu.settle_sameMode (before : Cpu) (e : Ending) (c : Cpu) : c.SameMode (Cpu.settle before e c) := by
  refine ⟨rfl, ?_, rfl⟩
  simp only [Cpu.settle]
  split <;> rfl

theorem deliverAt_settled {ev : Event} {s t : State} (hs : s.cpu.Legal) (h : deliverAt ev s = .next t) : t.Settled := by
  have h1 := leads_deliver deliverDepth ev s hs
  simp only [deliverAt] at h
  cases hm : deliver deliverDepth ev s with
  | ok a u =>
    rw [hm] at h h1
    cases h
    exact .of_rest h1 rfl
  | error e u =>
    rw [hm] at h h1
    cases e
    case refuse => cases h
    all_goals cases h; exact .of_rest h1 rfl

theorem takeException_settled {e : Exc} {s t : State} (hs : s.cpu.Legal) (h : takeException e s = .next t) : t.Settled :=
  deliverAt_settled (s := s.mapCpu fun c => { c with cr2 := e.cr2.getD c.cr2, dbg := c.dbg.afterExc e.dr6 }) hs h

theorem stopped_settled {b s t : State} {stop : Stop} (hb : b.cpu.Legal) (hs : s.cpu.Legal) (h : stopped b stop s = .next t) :
    t.Settled := by
  cases stop with
  | exc e => exact takeException_settled (s := { s with cpu := b.cpu }) hb h
  | committed e => exact takeException_settled hs h
  | refuse r => cases h
  | shutdown =>
    cases h
    exact .of_rest hs rfl

theorem outcome_settled {m : M Ending} {s t : State} (hm : Leads Cpu.Legal Cpu.Legal m) (hs : s.cpu.Legal)
    (h : outcome s m = .next t) : t.Settled := by
  have h1 := hm s hs
  simp only [outcome] at h
  cases hr : m s with
  | ok e u =>
    rw [hr] at h h1
    simp only [complete] at h
    split at h
    · cases h
    · cases h
      exact .of_rest (modeProp_legal.ofSame (Cpu.settle_sameMode s.cpu e u.cpu) h1) rfl
  | error e u =>
    rw [hr] at h h1
    exact stopped_settled hs h1 h

theorem exec_settled {i : Instr} (hp : isPrefix i = false) {s t : State} (hs : s.cpu.Legal) (h : exec i s = .next t) : t.Settled :=
  let ⟨_, hb, he⟩ := runs_legal hp
  outcome_settled hb hs ((he s).symm.trans h)

/-! ## Whole steps -/

/-- An instruction with its prefixes, which mark the decode register alone (R203). -/
theorem runFrom_settled {b : State} (hb : b.cpu.Legal) {n : Nat} {s t : State} (hs : s.cpu.Legal)
    (h : runFrom exec b n s = .next t) : t.Settled := by
  induction n generalizing s with
  | zero => exact stopped_settled hb hs h
  | succ n ih =>
    have hf := steady_fetchInstr.leads modeProp_legal s hs
    rw [runFrom] at h
    cases hr : fetchInstr s with
    | error stop u =>
      rw [hr] at h hf
      exact stopped_settled hb hf h
    | ok i u =>
      rw [hr] at hf
      simp only [hr] at h
      cases hp : isPrefix i with
      | false => exact exec_settled hp hf (by simpa [hp] using h)
      | true =>
        obtain ⟨f, he⟩ := exec_prefix hp
        simp only [hp, he, if_true] at h
        exact ih (s := u.mapCpu fun c => { c with cur := { c.cur with pfx := f c.cur.pfx } }) hf h

/-- Going on at a state with legal modes leads to a settled one: what a step has to know about the instruction it runs. -/
def GoesSettled (go : State → Host.Outcome State Fault Refusal) : Prop := ∀ s t, s.cpu.Legal → go s = .next t → t.Settled

theorem deliverDebug_settled {d : DebugCauses} {rf : Bool} {s t : State} (hs : s.cpu.Legal) (h : deliverDebug d rf s = .next t) :
    t.Settled := by
  refine deliverAt_settled ?_ h
  exact hs

theorem deliverNmi_settled {s t : State} (hs : s.cpu.Legal) (h : deliverNmi s = .next t) : t.Settled := by
  refine deliverAt_settled ?_ h
  exact hs

/-- An acknowledge cycle always answers a vector (R608). -/
theorem intAck_ok (s : State) : ∃ v u, intAck s = .ok v u := by
  simp only [intAck, bind_run, getState_run]
  cases s.env.intVectors with
  | nil => exact ⟨_, _, rfl⟩
  | cons v rest => exact ⟨_, _, rfl⟩

theorem deliverIntr_settled {s t : State} (hs : s.cpu.Legal) (h : deliverIntr s = .next t) : t.Settled := by
  obtain ⟨v, u, hr⟩ := intAck_ok s
  have ha := steady_intAck.leads modeProp_legal s hs
  rw [deliverIntr] at h
  simp only [hr] at h ha
  exact deliverAt_settled ha h

theorem atBoundary_settled {go : State → Host.Outcome State Fault Refusal} (hgo : GoesSettled go) {s t : State} (hs : s.Settled)
    (h : atBoundary go s = .next t) : t.Settled := by
  have hl : s.cpu.Legal := hs.1
  have hu : (s.mapCpu fun c => { c with trap := DebugCauses.none }).Settled := hs
  simp only [atBoundary] at h
  split at h
  · exact deliverDebug_settled hl h
  split at h
  · exact deliverNmi_settled hu.1 h
  split at h
  · exact deliverIntr_settled hu.1 h
  split at h
  · cases h
    exact hu
  split at h
  · exact deliverDebug_settled hu.1 h
  · exact hgo _ _ hu.1 h

theorem stepRunning_settled {go : State → Host.Outcome State Fault Refusal} (hgo : GoesSettled go) {s t : State} (hs : s.Settled)
    (h : stepRunning go s = .next t) : t.Settled := by
  have hn : (sampleNmi s).Settled := hs
  simp only [stepRunning] at h
  split at h
  · split at h
    · exact deliverNmi_settled hn.1 h
    · cases h
      exact hn
  split at h
  · split at h
    · cases h
      exact hn
    · exact hgo _ _ hn.1 h
  · exact atBoundary_settled hgo hn h

/-- RESET ends in Real Mode at CPL 0, whatever the state (R90). -/
theorem resetStep_settled (s : State) : (resetStep s).Settled := .of_rest rfl rfl

theorem stepWith_settled {go : State → Host.Outcome State Fault Refusal} (hgo : GoesSettled go) {s t : State} (hs : s.Settled)
    (h : stepWith go s = .next t) : t.Settled := by
  rw [stepWith] at h
  split at h
  · cases h
    exact resetStep_settled _
  split at h
  · exact stepRunning_settled hgo hs h
  · cases h
    exact resetStep_settled _
  · cases hr : stepRunning go s with
    | next u =>
      have hu : u.Settled := stepRunning_settled hgo hs hr
      simp only [hr] at h
      split at h
      · cases h
        exact hu
      · cases h
        exact resetStep_settled _
    | fault f =>
      simp only [hr] at h
      cases h
    | refused r =>
      simp only [hr] at h
      cases h

/-- Settles O60: every body leads from legal modes to legal modes, an exception included, and what completes, is delivered or
shuts down clears the decode register. -/
theorem stepKeepsModes : Obligations.StepKeepsModes := by
  unfold Obligations.StepKeepsModes
  exact fun s t hl hr h => stepWith_settled (fun _ _ hu => runFrom_settled hu hu) ⟨hl, hr⟩ h

end Sys2Proof.Machine

/-! PROOFS. The state after RESET (R90, R91). -/

namespace Sys2Proof.Machine

/-- With paging off a byte of code is fetched at its linear address. -/
theorem State.fetchPlace_off {s : State} (h : s.cpu.cr0.pg = false) (k : Nat) :
    s.fetchPlace k = (s.cpu.fetchLinear k).setWidth 24 := by
  rw [State.fetchPlace, translate_off h]
  simp [physBytes, addrsFrom]

/-- Settles O54: the registers are those `Cpu.reset` writes out, and paging is off where the first byte is fetched. -/
theorem resetState : Obligations.ResetState := by
  unfold Obligations.ResetState
  have hfetch : State.reset.fetchPlace 0 = 0xFFFFF0 := State.fetchPlace_off rfl 0
  exact ⟨rfl, rfl, rfl, rfl, rfl, rfl, rfl, rfl, rfl, rfl, rfl, rfl, rfl, hfetch⟩

end Sys2Proof.Machine

/-! PROOFS. The names of the parts of a general register, and the bytes of an operand in memory. -/

namespace Sys2Proof.Machine

/-! ## Parts of a register (R32) -/

/-- A write of the low byte leaves the bits above it. -/
theorem getLsbD_lowByteWritten (x : Dword) (v : Byte) {i : Nat} (h : 8 ≤ i) :
    (x.extractLsb' 8 24 ++ v : Dword).getLsbD i = x.getLsbD i := by
  have hi : ¬ i < 8 := by omega
  simp only [BitVec.getLsbD_append, hi, if_false, BitVec.getLsbD_extractLsb']
  by_cases h32 : i < 32
  · simp [show i - 8 < 24 by omega, show 8 + (i - 8) = i by omega]
  · simp [show ¬ i - 8 < 24 by omega, BitVec.getLsbD_of_ge x i (by omega)]

/-- A write of the second byte leaves the bits around it. -/
theorem getLsbD_highByteWritten (x : Dword) (v : Byte) {i : Nat} (h : i < 8 ∨ 16 ≤ i) :
    (x.extractLsb' 16 16 ++ v ++ x.extractLsb' 0 8 : Dword).getLsbD i = x.getLsbD i := by
  simp only [BitVec.getLsbD_append, BitVec.getLsbD_extractLsb']
  rcases h with h | h
  · simp [h]
  · by_cases h32 : i < 32
    · simp [show ¬ i < 8 by omega, show ¬ i - 8 < 8 by omega, show i - 8 - 8 < 16 by omega, show 16 + (i - 8 - 8) = i by omega]
    · simp [show ¬ i < 8 by omega, show ¬ i - 8 < 8 by omega, show ¬ i - 8 - 8 < 16 by omega,
        BitVec.getLsbD_of_ge x i (by omega)]

theorem Gpr.extractLsb'_write_word (g : Gpr) (r : Reg) (v : Word) :
    ((g.write .w r v).get r).extractLsb' 16 16 = (g.get r).extractLsb' 16 16 := by
  simp only [Gpr.write, Gpr.get_set, if_true]
  exact BitVec.extractLsb'_append_eq_left

/-- A write of an 8-bit register leaves the other bits of the register it lies in (R32, R212). -/
theorem Gpr.getLsbD_write_byte (g : Gpr) (r : Reg) (v : Byte) {i : Nat}
    (h : ¬ ((if byteHigh r then 8 else 0) ≤ i ∧ i < (if byteHigh r then 16 else 8))) :
    ((g.write .b r v).get (byteHome r)).getLsbD i = (g.get (byteHome r)).getLsbD i := by
  simp only [Gpr.write]
  cases hr : byteHigh r with
  | false =>
    simp only [hr, Bool.false_eq_true, if_false, Gpr.get_set, if_true] at h ⊢
    exact getLsbD_lowByteWritten _ v (by omega)
  | true =>
    simp only [hr, if_true, Gpr.get_set] at h ⊢
    exact getLsbD_highByteWritten _ v (by omega)

/-! ## The bytes of an operand (R104) -/

/-- Byte `i` of the value of a list of bytes is the one at index `i`. -/
theorem extractLsb'_ofBytes (sz : Sz) (bs : List Byte) {i : Nat} (hi : i < sz.bytes) :
    (ofBytes sz bs).extractLsb' (8 * i) 8 = bs.getD i 0 := by
  cases sz with
  | b =>
    obtain rfl : i = 0 := by simp only [Sz.bytes] at hi; omega
    exact BitVec.extractLsb'_eq_self
  | w =>
    have hi : i = 0 ∨ i = 1 := by simp only [Sz.bytes] at hi; omega
    rcases hi with rfl | rfl
    · exact BitVec.extractLsb'_append_eq_right
    · exact BitVec.extractLsb'_append_eq_left
  | d =>
    have hi : i = 0 ∨ i = 1 ∨ i = 2 ∨ i = 3 := by simp only [Sz.bytes] at hi; omega
    rcases hi with rfl | rfl | rfl | rfl
    · exact BitVec.extractLsb'_append_eq_right
    · exact (BitVec.extractLsb'_append_eq_of_le (by omega)).trans BitVec.extractLsb'_append_eq_right
    · exact (BitVec.extractLsb'_append_eq_of_le (by omega)).trans
        ((BitVec.extractLsb'_append_eq_of_le (by omega)).trans BitVec.extractLsb'_append_eq_right)
    · exact (BitVec.extractLsb'_append_eq_of_le (by omega)).trans
        ((BitVec.extractLsb'_append_eq_of_le (by omega)).trans BitVec.extractLsb'_append_eq_left)

/-- The physical address of byte `i` of an operand. -/
def placeOf (la : Dword) (i : Nat) : PAddr := (la + BitVec.ofNat 32 i).setWidth 24

theorem physBytes_eq_map (la : Dword) (n : Nat) : physBytes la n = (List.range n).map (placeOf la) := by
  simp only [physBytes, addrsFrom, List.map_map]
  rfl

theorem mem_physBytes {la : Dword} {n : Nat} {a : PAddr} : a ∈ physBytes la n ↔ ∃ i, i < n ∧ a = placeOf la i := by
  simp only [physBytes_eq_map, List.mem_map, List.mem_range, eq_comm]

/-- Bytes less than the whole memory apart have different addresses. -/
theorem placeOf_injective {la : Dword} {i j : Nat} (hi : i < 0x1000000) (hj : j < 0x1000000) (h : placeOf la i = placeOf la j) :
    i = j := by
  simp only [placeOf] at h
  bv_omega

theorem physBytes_nodup (la : Dword) (sz : Sz) : (physBytes la sz.bytes).Nodup := by
  have hn : sz.bytes ≤ 4 := by cases sz <;> decide
  rw [physBytes_eq_map, List.Nodup, List.pairwise_map]
  refine List.Pairwise.imp_of_mem (fun {i j} hi hj hne h => hne ?_) List.nodup_range
  rw [List.mem_range] at hi hj
  exact placeOf_injective (by omega) (by omega) h

theorem length_toBytes (sz : Sz) (v : BitVec sz.bits) : (toBytes sz v).length = sz.bytes := by cases sz <;> rfl

/-- What was written at different addresses is read back. -/
theorem Memory.map_read_writeAll {m : Memory} (h : m.wf = true) {as : List PAddr} {bs : List Byte} (hd : as.Nodup)
    (hl : as.length = bs.length) : as.map (m.writeAll as bs).read = bs := by
  induction as generalizing m bs with
  | nil => exact (List.length_eq_zero_iff.mp hl.symm).symm
  | cons a as ih =>
    cases bs with
    | nil => cases hl
    | cons b bs =>
      obtain ⟨ha, hd⟩ := List.nodup_cons.mp hd
      have hw := Memory.wf_write h a b
      have hhead : ((m.write a b).writeAll as bs).read a = b := by
        rw [Memory.read_writeAll_of_notMem hw as bs ha, Memory.read_write_same h]
      rw [Memory.writeAll, List.map_cons, hhead, ih hw hd (Nat.succ.inj hl)]

/-- Byte `i` of a loaded value is the one in memory (R104). -/
theorem State.extractLsb'_loadAt (s : State) (la : Dword) (sz : Sz) {i : Nat} (hi : i < sz.bytes) :
    (s.loadAt la sz).extractLsb' (8 * i) 8 = s.mem.read (placeOf la i) := by
  rw [State.loadAt, extractLsb'_ofBytes sz _ hi, physBytes_eq_map]
  simp [hi]

/-- A load of what was stored gives it back (R104). -/
theorem State.loadAt_storedAt {s : State} (h : s.mem.wf = true) (la : Dword) (sz : Sz) (v : BitVec sz.bits) :
    (s.storedAt la sz v).loadAt la sz = v := by
  have hl : (physBytes la sz.bytes).length = (toBytes sz v).length := by simp [physBytes_eq_map, length_toBytes]
  rw [State.loadAt, State.storedAt_mem, Memory.map_read_writeAll h (physBytes_nodup la sz) hl, ofBytes_toBytes]

/-- Settles O46: the parts of a register are bit ranges of it, and a store writes the bytes of its value at their addresses. -/
theorem registerAndMemoryBytes : Obligations.RegisterAndMemoryBytes := by
  unfold Obligations.RegisterAndMemoryBytes
  refine ⟨fun g r => ⟨BitVec.setWidth_eq_extractLsb' (by decide), rfl⟩, fun g => ⟨rfl, rfl, rfl, rfl, rfl, rfl, rfl, rfl⟩,
    fun g r v => ⟨g.read_write .w r v, g.extractLsb'_write_word r v, fun x hx => g.get_write_of_ne .w r x v hx⟩,
    fun g r v => ⟨g.read_write .b r v, fun i _ hi => g.getLsbD_write_byte r v hi, fun x hx => g.get_write_of_ne .b r x v hx⟩,
    fun s la sz v => ⟨fun i hi => s.extractLsb'_loadAt la sz hi, fun h => ?_⟩⟩
  have hload := State.loadAt_storedAt h la sz v
  refine ⟨hload, fun i hi => ?_, fun a ha => ?_⟩
  · calc (s.storedAt la sz v).mem.read (placeOf la i)
      _ = ((s.storedAt la sz v).loadAt la sz).extractLsb' (8 * i) 8 := (State.extractLsb'_loadAt _ la sz hi).symm
      _ = v.extractLsb' (8 * i) 8 := by rw [hload]
  · exact State.storedAt_read_of_notMem h la sz v fun hm =>
      let ⟨i, hi, he⟩ := mem_physBytes.mp hm
      ha i hi he

end Sys2Proof.Machine

/-! PROOFS. What the flag computations mean in integers (R37 to R45, R330, R337). -/

namespace Sys2Proof.Machine

/-! ## Values of a width in integers -/

section Values
variable {n : Nat}

/-- A value signed and unsigned: the same in the lower half of the range, 2^n apart in the upper one. -/
theorem toInt_cases (x : BitVec n) :
    (x.toInt = x.toNat ∧ 2 * x.toNat < 2 ^ n) ∨ (x.toInt = x.toNat - (2 ^ n : Nat) ∧ 2 ^ n ≤ 2 * x.toNat) := by
  rw [BitVec.toInt_eq_toNat_cond]
  split
  · exact .inl ⟨rfl, by assumption⟩
  · exact .inr ⟨rfl, by omega⟩

theorem two_pow_even (hn : 0 < n) : 2 ^ n = 2 * 2 ^ (n - 1) := by
  rw [← Nat.pow_succ', Nat.succ_eq_add_one, Nat.sub_add_cancel hn]

theorem toNat_addResult (a b : BitVec n) (c : Bool) :
    (addResult a b c).toNat = (a.toNat + b.toNat + c.toNat) % 2 ^ n := by
  simp [addResult, Nat.add_mod]

/-- A sum with carry is the exact one, or 2^n less where that does not fit. -/
theorem toNat_addResult_cases (a b : BitVec n) (c : Bool) :
    (a.toNat + b.toNat + c.toNat < 2 ^ n ∧ (addResult a b c).toNat = a.toNat + b.toNat + c.toNat) ∨
      (2 ^ n ≤ a.toNat + b.toNat + c.toNat ∧ (addResult a b c).toNat + 2 ^ n = a.toNat + b.toNat + c.toNat) := by
  have ha := a.isLt
  have hb := b.isLt
  have hc := c.toNat_le
  rw [toNat_addResult]
  by_cases h : a.toNat + b.toNat + c.toNat < 2 ^ n
  · exact .inl ⟨h, Nat.mod_eq_of_lt h⟩
  · have h : 2 ^ n ≤ a.toNat + b.toNat + c.toNat := Nat.le_of_not_lt h
    rw [Nat.mod_eq_sub_mod h, Nat.mod_eq_of_lt (by omega)]
    exact .inr ⟨h, by omega⟩

/-- Addition with carry undoes subtraction with borrow. -/
theorem addResult_subResult (a b : BitVec n) (c : Bool) : addResult (subResult a b c) b c = a := by
  rw [addResult, subResult, BitVec.add_assoc, BitVec.add_comm b, ← BitVec.add_assoc, BitVec.sub_add_cancel, BitVec.sub_add_cancel]

/-- A difference with borrow is the exact one, or 2^n more where that is negative. -/
theorem toNat_subResult_cases (a b : BitVec n) (c : Bool) :
    (b.toNat + c.toNat ≤ a.toNat ∧ (subResult a b c).toNat + b.toNat + c.toNat = a.toNat) ∨
      (a.toNat < b.toNat + c.toNat ∧ (subResult a b c).toNat + b.toNat + c.toNat = a.toNat + 2 ^ n) := by
  have ha := a.isLt
  have hd := (subResult a b c).isLt
  have h := toNat_addResult_cases (subResult a b c) b c
  rw [addResult_subResult] at h
  omega

theorem toNat_subResult (a b : BitVec n) (c : Bool) :
    ((subResult a b c).toNat : Int) = ((a.toNat : Int) - b.toNat - c.toNat) % 2 ^ n := by
  have hd := (subResult a b c).isLt
  rcases toNat_subResult_cases a b c with ⟨-, h⟩ | ⟨-, h⟩
  · rw [show (a.toNat : Int) - b.toNat - c.toNat = (subResult a b c).toNat by omega,
      Int.emod_eq_of_lt (by omega) (by exact_mod_cast hd)]
  · have h : (a.toNat : Int) - b.toNat - c.toNat + 2 ^ n = (subResult a b c).toNat := by
      have h : ((subResult a b c).toNat : Int) + b.toNat + c.toNat = a.toNat + 2 ^ n := by exact_mod_cast h
      omega
    rw [← Int.add_emod_right, h, Int.emod_eq_of_lt (by omega) (by exact_mod_cast hd)]

/-- Bit 4 is the upper bit of the low five. -/
theorem getLsbD_four (x : BitVec n) : x.getLsbD 4 = decide (16 ≤ x.toNat % 32) := by
  rw [BitVec.getLsbD, Nat.testBit_eq_decide_div_mod_eq, decide_eq_decide]
  omega

/-- The low digits of a sum with carry (R39). -/
theorem addResult_low (hn : 5 ≤ n) (a b : BitVec n) (c : Bool) :
    (addResult a b c).toNat % 32 = (a.toNat + b.toNat + c.toNat) % 32 := by
  rw [toNat_addResult]
  exact Nat.mod_mod_of_dvd _ (Nat.pow_dvd_pow 2 hn)

/-- Of three conditions an odd number holds. -/
theorem decide_xor_decide_xor_decide (p q r : Prop) [Decidable p] [Decidable q] [Decidable r] :
    (decide p ^^ decide q ^^ decide r) = decide (¬ (p ↔ ¬ (q ↔ r))) := by
  by_cases hp : p <;> by_cases hq : q <;> by_cases hr : r <;> simp [hp, hq, hr]

/-- Bit 4 of a sum differs from the sum of the bits 4 where the low digits carry (R39). -/
theorem getLsbD_four_addResult (hn : 5 ≤ n) (a b : BitVec n) (c : Bool) :
    (a ^^^ b ^^^ addResult a b c).getLsbD 4 = decide (16 ≤ a.toNat % 16 + b.toNat % 16 + c.toNat) := by
  have hc := c.toNat_le
  have hr := addResult_low hn a b c
  rw [BitVec.getLsbD_xor, BitVec.getLsbD_xor, getLsbD_four, getLsbD_four, getLsbD_four, decide_xor_decide_xor_decide,
    decide_eq_decide]
  omega

/-- Bit 4 of a difference differs from the sum of the bits 4 where the low digits borrow (R39). -/
theorem getLsbD_four_subResult (hn : 5 ≤ n) (a b : BitVec n) (c : Bool) :
    (a ^^^ b ^^^ subResult a b c).getLsbD 4 = decide (a.toNat % 16 < b.toNat % 16 + c.toNat) := by
  have hc := c.toNat_le
  have hr := addResult_low hn (subResult a b c) b c
  rw [addResult_subResult] at hr
  rw [BitVec.getLsbD_xor, BitVec.getLsbD_xor, getLsbD_four, getLsbD_four, getLsbD_four, decide_xor_decide_xor_decide,
    decide_eq_decide]
  omega

end Values

/-! ## Flags -/

/-- Parity of eight bits: an even number of them is 1 (R38). -/
theorem even_count_eq_not_xor : ∀ b0 b1 b2 b3 b4 b5 b6 b7 : Bool,
    (!(b0 ^^ b1 ^^ b2 ^^ b3 ^^ b4 ^^ b5 ^^ b6 ^^ b7)) = decide ([b0, b1, b2, b3, b4, b5, b6, b7].countP id % 2 = 0) := by
  decide

theorem evenParity_eq {n : Nat} (a : BitVec n) :
    evenParity (a.setWidth 8) = decide (((List.range 8).countP fun i => a.getLsbD i) % 2 = 0) := by
  have hmap : (List.range 8).countP (fun i => a.getLsbD i) = ((List.range 8).map a.getLsbD).countP id := by
    rw [List.countP_map]
    rfl
  rw [hmap]
  simp only [evenParity, BitVec.getLsbD_setWidth]
  exact even_count_eq_not_xor _ _ _ _ _ _ _ _

section Flags
variable {n : Nat} (f : EFlags) (a b : BitVec n) (c : Bool)

theorem EFlags.add_cf_eq :
    (f.add a b c).cf = decide ((addResult a b c).toNat ≠ a.toNat + b.toNat + c.toNat) := by
  have h := toNat_addResult_cases a b c
  have hp : 0 < 2 ^ n := Nat.two_pow_pos n
  simp only [EFlags.add, decide_eq_decide]
  omega

theorem EFlags.sub_cf_eq :
    (f.sub a b c).cf = decide (((subResult a b c).toNat : Int) ≠ (a.toNat : Int) - b.toNat - c.toNat) := by
  have h := toNat_subResult_cases a b c
  have hp : 0 < 2 ^ n := Nat.two_pow_pos n
  simp only [EFlags.sub, decide_eq_decide]
  omega

/-- OF of an addition: the signed sum is not the exact one (R45). -/
theorem EFlags.add_ovf_eq (hn : 0 < n) :
    (f.add a b c).ovf = decide ((addResult a b c).toInt ≠ a.toInt + b.toInt + c.toNat) := by
  have hr := toNat_addResult_cases a b c
  have hai := toInt_cases a
  have hbi := toInt_cases b
  have hri := toInt_cases (addResult a b c)
  have hc := c.toNat_le
  have hp := two_pow_even hn
  have ha := a.isLt
  have hb := b.isLt
  simp only [EFlags.add, BitVec.msb_eq_toInt]
  rw [Bool.eq_iff_iff]
  simp only [Bool.and_eq_true, beq_iff_eq, bne_iff_ne, decide_eq_true_eq, decide_eq_decide, ne_eq]
  omega

/-- OF of a subtraction: the signed difference is not the exact one (R45). -/
theorem EFlags.sub_ovf_eq (hn : 0 < n) :
    (f.sub a b c).ovf = decide ((subResult a b c).toInt ≠ a.toInt - b.toInt - c.toNat) := by
  have hr := toNat_subResult_cases a b c
  have hai := toInt_cases a
  have hbi := toInt_cases b
  have hri := toInt_cases (subResult a b c)
  have hc := c.toNat_le
  have hp := two_pow_even hn
  have ha := a.isLt
  have hb := b.isLt
  simp only [EFlags.sub, BitVec.msb_eq_toInt]
  rw [Bool.eq_iff_iff]
  simp only [Bool.and_eq_true, bne_iff_ne, decide_eq_true_eq, decide_eq_decide, ne_eq]
  omega

end Flags

/-! ## Conditions after CMP (R337, R449) -/

section Compare
variable {n : Nat} (f : EFlags) (a b : BitVec n)

theorem EFlags.sub_zf_compare : (f.sub a b false).zf = decide (a = b) := by
  have h := toNat_subResult_cases a b false
  have ha := a.isLt
  have hb := b.isLt
  have hz : subResult a b false = 0#n ↔ a = b := by
    rw [← BitVec.toNat_inj, ← BitVec.toNat_inj, BitVec.toNat_zero]
    simp only [Bool.toNat_false] at h
    omega
  exact (Bool.beq_eq_decide_eq _ _).trans (decide_eq_decide.mpr hz)

theorem EFlags.sub_cf_compare : (f.sub a b false).cf = decide (a.toNat < b.toNat) := rfl

/-- SF differs from OF where the signed difference is negative (R449). -/
theorem EFlags.sub_sf_ne_ovf (hn : 0 < n) :
    ((f.sub a b false).sf != (f.sub a b false).ovf) = decide (a.toInt < b.toInt) := by
  have hr := toNat_subResult_cases a b false
  have hai := toInt_cases a
  have hbi := toInt_cases b
  have hri := toInt_cases (subResult a b false)
  have hp := two_pow_even hn
  have ha := a.isLt
  have hb := b.isLt
  rw [EFlags.sub_ovf_eq f a b false hn]
  simp only [EFlags.sub, EFlags.setSzp, BitVec.msb_eq_toInt, Bool.toNat_false] at hr ⊢
  rw [Bool.eq_iff_iff]
  simp only [bne_iff_ne, decide_eq_true_eq, decide_eq_decide, ne_eq]
  omega

end Compare

theorem Sz.bits_pos (sz : Sz) : 0 < sz.bits := by cases sz <;> decide

theorem Sz.five_le_bits (sz : Sz) : 5 ≤ sz.bits := by cases sz <;> decide

/-- Settles O47: results and flags in integers, the conditions after CMP from the flags of a subtraction without borrow, and the
flags of logic, multiplication and free values by definition. -/
theorem flagMeaning : Obligations.FlagMeaning := by
  unfold Obligations.FlagMeaning
  intro sz f a b c j
  have hpos := sz.bits_pos
  have hbits := sz.five_le_bits
  have hz : (f.sub a b false).zf = decide (a = b) := f.sub_zf_compare a b
  have hc : (f.sub a b false).cf = decide (a.toNat < b.toNat) := rfl
  have hl : ((f.sub a b false).sf != (f.sub a b false).ovf) = decide (a.toInt < b.toInt) := f.sub_sf_ne_ovf a b hpos
  have hnl : ((f.sub a b false).sf == (f.sub a b false).ovf) = decide (b.toInt ≤ a.toInt) := by
    rw [← Bool.not_not (_ == _)]
    exact (congrArg not hl).trans (decide_not.symm.trans (decide_eq_decide.mpr Int.not_lt))
  have hinj : a = b ↔ a.toNat = b.toNat := BitVec.toNat_inj.symm
  have hinjInt : a = b ↔ a.toInt = b.toInt := BitVec.toInt_inj.symm
  refine ⟨Bool.beq_eq_decide_eq _ _, BitVec.msb_eq_getLsbD_last a, evenParity_eq a, rfl, rfl, rfl, ?_⟩
  refine ⟨toNat_addResult a b c, f.add_cf_eq a b c, f.add_ovf_eq a b c hpos, getLsbD_four_addResult hbits a b c,
    Bool.beq_eq_decide_eq _ _, BitVec.msb_eq_toInt, ?_⟩
  refine ⟨toNat_subResult a b c, f.sub_cf_eq a b c, f.sub_ovf_eq a b c hpos, getLsbD_four_subResult hbits a b c,
    Bool.beq_eq_decide_eq _ _, BitVec.msb_eq_toInt, ?_⟩
  refine ⟨hz, ?_, hc, ?_, ?_, ?_, hl, hnl, ?_, ?_, ?_, rfl, rfl, rfl⟩
  · simp only [EFlags.holds, hz, ne_eq, decide_not]
  · simp only [EFlags.holds, hc, ← decide_not, Nat.not_lt]
  · simp only [EFlags.holds, hz, hc, ← Bool.decide_or, decide_eq_decide, hinj]
    omega
  · simp only [EFlags.holds, hz, hc, ← decide_not, ← Bool.decide_and, decide_eq_decide, hinj]
    omega
  · simp only [EFlags.holds, hz, hl, ← Bool.decide_or, decide_eq_decide, hinjInt]
    omega
  · simp only [EFlags.holds, hz, hnl, ← decide_not, ← Bool.decide_and, decide_eq_decide, hinjInt]
    omega
  · simp only [EFlags.logic, EFlags.setSzp, BitVec.msb_eq_toInt, Bool.beq_eq_decide_eq]

end Sys2Proof.Machine

/-! PROOFS. What each update of the state leaves alone: the bytes it does not store, the registers it does not write, and the rest of
the machine. -/

namespace Sys2Proof.Machine

/-! ## The rest of the machine -/

/-- The processor but for its general registers, EIP, its flags and the bookkeeping of the boundary. -/
def Cpu.rest (c : Cpu) : Cpu :=
  { c with
    gpr := ⟨0, 0, 0, 0, 0, 0, 0, 0⟩, eip := 0, flags := EFlags.reset, inhibit := .none, trap := DebugCauses.none,
    repActive := false, escWaiting := false, cur := Current.none }

/-- The machine but for memory, the prefetch queue, the free values, the record of bus events and what `Cpu.rest` leaves out. -/
def State.rest (s : State) : State :=
  { s with
    cpu := s.cpu.rest, mem := ⟨[]⟩, queue := [], prefetch := [], pgSwitch := none, free := 0, env := { s.env with trace := [] } }

/-- A field that `Cpu.rest` leaves as it is agrees where the rests do. -/
theorem Cpu.eq_of_rest {α : Type} {c d : Cpu} (h : c.rest = d.rest) (field : Cpu → α) (hfield : ∀ c, field c.rest = field c) :
    field c = field d := by
  rw [← hfield c, h, hfield d]

/-- States with the same rest, bytes and registers outside the given ones differ as `State.sameBut` allows. -/
theorem State.sameBut_of_rest {s t : State} {as : List PAddr} {rs : List Reg} (hmem : ∀ a, a ∉ as → t.mem.read a = s.mem.read a)
    (hgpr : ∀ r, r ∉ rs → t.cpu.gpr.get r = s.cpu.gpr.get r) (h : t.rest = s.rest) : s.sameBut t as rs := by
  have same {α : Type} (field : Cpu → α) (hfield : ∀ c, field c.rest = field c) : field t.cpu = field s.cpu :=
    Cpu.eq_of_rest (congrArg State.cpu h) field hfield
  have htlb : t.rest.tlb = s.rest.tlb := congrArg State.tlb h
  exact ⟨hmem, hgpr, same Cpu.segs fun _ => rfl, same Cpu.cpl fun _ => rfl, same Cpu.cr0 fun _ => rfl, same Cpu.cr2 fun _ => rfl,
    same Cpu.cr3 fun _ => rfl, same Cpu.gdtr fun _ => rfl, same Cpu.idtr fun _ => rfl, same Cpu.ldtr fun _ => rfl,
    same Cpu.tr fun _ => rfl, same Cpu.dbg fun _ => rfl, same Cpu.test fun _ => rfl, same Cpu.run fun _ => rfl,
    same Cpu.nmiInService fun _ => rfl, same Cpu.nmiPending fun _ => rfl, same Cpu.nmiLevel fun _ => rfl,
    same Cpu.peSwitched fun _ => rfl, htlb, congrArg State.env h⟩

/-- Stores leave the rest alone. -/
theorem State.storeAll_rest (s : State) (as : List PAddr) (bs : List Byte) : (s.storeAll as bs).rest = s.rest := by
  induction as generalizing s bs with
  | nil => rfl
  | cons a as ih =>
    cases bs with
    | nil => rfl
    | cons b bs => exact ih (s.store a b) bs

theorem State.storedAt_rest (s : State) (la : Dword) (sz : Sz) (v : BitVec sz.bits) : (s.storedAt la sz v).rest = s.rest :=
  (s.hit la sz.bytes true).storeAll_rest (physBytes la sz.bytes) (toBytes sz v)

/-- A move of the stack pointer leaves the other general registers. -/
theorem Cpu.withSp_get_of_ne {c : Cpu} {r : Reg} (h : r ≠ .esp) (v : Dword) : (c.withSp v).gpr.get r = c.gpr.get r := by
  cases r with
  | esp => exact absurd rfl h
  | eax | ecx | edx | ebx | ebp | esi | edi => rfl

/-! ## The frame of a state reached from another -/

/-- From `s` to `t` no byte outside `as` and no register outside `rs` has changed, nor the rest; the flags are `f`. -/
structure State.Frame (s t : State) (as : List PAddr) (rs : List Reg) (f : EFlags) : Prop where
  wf : t.mem.wf = true
  mem : ∀ a, a ∉ as → t.mem.read a = s.mem.read a
  gpr : ∀ r, r ∉ rs → t.cpu.gpr.get r = s.cpu.gpr.get r
  rest : t.rest = s.rest
  flags : t.cpu.flags = f

section Frame
variable {s t u : State} {as : List PAddr} {rs : List Reg} {f : EFlags}

theorem State.Frame.refl (h : s.mem.wf = true) : s.Frame s as rs s.cpu.flags := ⟨h, fun _ _ => rfl, fun _ _ => rfl, rfl, rfl⟩

/-- An update of neither memory, general registers, flags nor the rest: of the bookkeeping and the record of the bus. -/
theorem State.Frame.book (h : s.Frame t as rs f) (hmem : u.mem = t.mem) (hgpr : u.cpu.gpr = t.cpu.gpr)
    (hflags : u.cpu.flags = t.cpu.flags) (hrest : u.rest = t.rest) : s.Frame u as rs f :=
  ⟨hmem ▸ h.wf, hmem ▸ h.mem, hgpr ▸ h.gpr, hrest.trans h.rest, hflags.trans h.flags⟩

theorem State.Frame.drawn (h : s.Frame t as rs f) : s.Frame t.drawn as rs f := h.book rfl rfl rfl rfl

theorem State.Frame.selectorDrawn (h : s.Frame t as rs f) (sz : Sz) : s.Frame (t.selectorDrawn sz) as rs f := by
  rw [State.selectorDrawn]
  split
  · exact h.drawn
  · exact h

theorem State.Frame.noted (h : s.Frame t as rs f) (la : Dword) (n : Nat) : s.Frame (t.noted la n) as rs f :=
  h.book rfl rfl rfl rfl

theorem State.Frame.rmRead (h : s.Frame t as rs f) (sz : Sz) (rm : RM) : s.Frame (t.rmRead sz rm) as rs f := by
  cases rm with
  | reg r => exact h
  | mem m => exact h.noted _ _

theorem State.Frame.withFlags (h : s.Frame t as rs f) (g : EFlags) : s.Frame (t.withFlags g) as rs g :=
  ⟨h.wf, h.mem, h.gpr, h.rest, rfl⟩

theorem State.Frame.withReg (h : s.Frame t as rs f) {sz : Sz} {r : Reg} (hr : writtenReg sz r ∈ rs) (v : BitVec sz.bits) :
    s.Frame (t.withReg sz r v) as rs f :=
  ⟨h.wf, h.mem, fun x hx => (Gpr.get_write_of_ne _ sz r x v (ne_of_mem_of_not_mem hr hx).symm).trans (h.gpr x hx), h.rest, h.flags⟩

theorem State.Frame.storedAt (h : s.Frame t as rs f) {la : Dword} {sz : Sz} (ha : physBytes la sz.bytes ⊆ as) (v : BitVec sz.bits) :
    s.Frame (t.storedAt la sz v) as rs f where
  wf := State.storedAt_mem_wf h.wf la sz v
  mem a hna := (State.storedAt_read_of_notMem h.wf la sz v fun hm => hna (ha hm)).trans (h.mem a hna)
  gpr r hr := by rw [State.storedAt_gpr]; exact h.gpr r hr
  rest := (t.storedAt_rest la sz v).trans h.rest
  flags := (t.storedAt_flags la sz v).trans h.flags

theorem State.Frame.rmWritten (h : s.Frame t as rs f) {sz : Sz} {rm : RM} (ha : t.rmStores sz rm ⊆ as) (hr : rmWrites sz rm ⊆ rs)
    (v : BitVec sz.bits) : s.Frame (t.rmWritten sz rm v) as rs f := by
  cases rm with
  | reg r => exact h.withReg (hr (List.mem_singleton.mpr rfl)) v
  | mem m => exact h.storedAt ha v

theorem State.Frame.withSp (h : s.Frame t as rs f) (hr : .esp ∈ rs) (v : Cpu → Dword) :
    s.Frame (t.mapCpu fun c => c.withSp (v c)) as rs f :=
  ⟨h.wf, h.mem, fun r hn => (Cpu.withSp_get_of_ne (ne_of_mem_of_not_mem hr hn).symm _).trans (h.gpr r hn), h.rest, h.flags⟩

theorem State.Frame.pushed (h : s.Frame t as rs f) {sz : Sz}
    (ha : physBytes (t.stackLinear (- BitVec.ofNat 32 sz.bytes)) sz.bytes ⊆ as) (hr : .esp ∈ rs) (v : BitVec sz.bits) :
    s.Frame (t.pushed sz v) as rs f := (h.storedAt ha v).withSp hr _

theorem State.Frame.popped (h : s.Frame t as rs f) (hr : .esp ∈ rs) (sz : Sz) : s.Frame (t.popped sz) as rs f :=
  (h.noted _ _).withSp hr _

theorem State.Frame.stepped (h : s.Frame t as rs f) {r : Reg} (hr : r ∈ rs) (sz : Sz) : s.Frame (t.stepped r sz) as rs f :=
  ⟨h.wf, h.mem, fun x hx => (Cpu.withIndex_get_of_ne (ne_of_mem_of_not_mem hr hx).symm _).trans (h.gpr x hx), h.rest, h.flags⟩

end Frame

/-! ## Where operands and items lie after a read -/

theorem State.rmRead_rmStores (s : State) (sz sz' : Sz) (rm rm' : RM) : (s.rmRead sz rm).rmStores sz' rm' = s.rmStores sz' rm' := by
  cases rm <;> rfl

theorem State.rmRead_stackLinear (s : State) (sz : Sz) (rm : RM) (k : Dword) : (s.rmRead sz rm).stackLinear k = s.stackLinear k := by
  cases rm <;> rfl

theorem State.selectorDrawn_stackLinear (s : State) (sz : Sz) (k : Dword) : (s.selectorDrawn sz).stackLinear k = s.stackLinear k := by
  rw [State.selectorDrawn]
  split <;> rfl

/-! ## Which registers are written -/

theorem writtenReg_osz (c : Cpu) (r : Reg) : writtenReg c.osz r = r := by
  rw [writtenReg, Cpu.osz]
  cases c.os32 <;> rfl

/-- The accumulator lies in EAX at every size. -/
theorem writtenReg_eax (sz : Sz) : writtenReg sz .eax = .eax := by cases sz <;> rfl

/-! ## The two commonest frames -/

/-- An r/m operand read, and then written. -/
theorem State.Frame.readWritten {s : State} (h : s.mem.wf = true) (sz : Sz) (rm : RM) (v : BitVec sz.bits) :
    s.Frame ((s.rmRead sz rm).rmWritten sz rm v) (s.rmStores sz rm) (rmWrites sz rm) s.cpu.flags :=
  ((State.Frame.refl h).rmRead sz rm).rmWritten (by rw [State.rmRead_rmStores]; exact List.Subset.refl _) (List.Subset.refl _) v

/-- An r/m operand read, and then a register written. -/
theorem State.Frame.readLoaded {s : State} (h : s.mem.wf = true) (sz sz' : Sz) (rm : RM) (r : Reg) (v : BitVec sz'.bits) :
    s.Frame ((s.rmRead sz rm).withReg sz' r v) [] [writtenReg sz' r] s.cpu.flags :=
  ((State.Frame.refl h).rmRead sz rm).withReg (List.mem_singleton.mpr rfl) v

/-! ## The flags of a footprint -/

/-- From `f` to `g` no control flag but RF has changed. -/
def EFlags.ControlKept (f g : EFlags) : Prop :=
  g.tf = f.tf ∧ g.intf = f.intf ∧ g.df = f.df ∧ g.iopl = f.iopl ∧ g.nt = f.nt ∧ g.vm = f.vm

/-- The flags `g` are what a footprint allows for flags `f`: no control flag but RF has changed, and of the status flags those it
names alone. -/
def EFlags.Within (k : StatusChange) (f g : EFlags) : Prop := f.ControlKept g ∧ k.respects f g

theorem EFlags.within_refl (k : StatusChange) (f : EFlags) : EFlags.Within k f f := by
  refine ⟨⟨rfl, rfl, rfl, rfl, rfl, rfl⟩, ?_⟩
  cases k with
  | none | cfOnly | cfOf | butCf | butOf => simp [StatusChange.respects]
  | all => trivial

/-- Where every status flag may change, the control flags decide. -/
theorem EFlags.within_all {f g : EFlags} (h : f.ControlKept g) : EFlags.Within .all f g := ⟨h, trivial⟩

/-! ## Completion within a footprint -/

/-- When the instruction completes, it has kept to its footprint: what `Obligations.Frames` says of one instruction. -/
def Framed (i : Instr) : Prop :=
  ∀ (s t : State) (p : Footprint), s.mem.wf = true → footprint i s = some p → p.allowed = true → s.ready i = true →
    exec i s = .next t →
    s.sameBut t p.stores p.regs ∧ s.cpu.flags.controlSame t.cpu.flags ∧ p.status.respects s.cpu.flags t.cpu.flags

/-- The instruction completes at `s` and keeps to what it may change: the bytes `as`, the registers `rs`, the status flags of `k`. -/
def CompletesWithin (i : Instr) (s : State) (as : List PAddr) (rs : List Reg) (k : StatusChange) : Prop :=
  ∃ u f, exec i s = completes s u ∧ s.Frame u as rs f ∧ EFlags.Within k s.cpu.flags f

/-- What the boundary adds, EIP, RF and its bookkeeping, is outside every footprint (R34, R48). -/
theorem framed_of_completes {i : Instr}
    (h : ∀ (s : State) (p : Footprint), s.mem.wf = true → footprint i s = some p → p.allowed = true → s.ready i = true →
      CompletesWithin i s p.stores p.regs p.status) : Framed i := by
  intro s t p hwf hp hallowed hready ht
  obtain ⟨u, f, hu, hframe, ⟨htf, hintf, hdf, hiopl, hnt, hvm⟩, hstatus⟩ := h s p hwf hp hallowed hready
  cases hu.symm.trans ht
  have hflags : (State.settle s .next u).cpu.flags = { f with rf := false } := by rw [← hframe.flags]; rfl
  refine ⟨State.sameBut_of_rest hframe.mem hframe.gpr hframe.rest, ?_, ?_⟩
  · rw [hflags]
    exact ⟨htf, hintf, hdf, hiopl, hnt, hvm, rfl⟩
  · rw [hflags]
    cases hk : p.status <;> rw [hk] at hstatus <;> exact hstatus

/-- An instruction that reads and writes its r/m operand. -/
theorem framed_ofWrite {i : Instr} {rm : RM} {k : StatusChange} (sz : Cpu → Sz)
    (hp : ∀ s : State, footprint i s = ofWrite s (sz s.cpu) rm k)
    (h : ∀ s : State, s.mem.wf = true → s.canWrite (sz s.cpu) rm = true → s.ready i = true →
      CompletesWithin i s (s.rmStores (sz s.cpu) rm) (rmWrites (sz s.cpu) rm) k) : Framed i :=
  framed_of_completes fun s _ hwf hs hallowed hready => by
    cases (hp s).symm.trans hs
    exact h s hwf hallowed hready

/-- An instruction that reads its r/m operand and writes registers. -/
theorem framed_ofRead {i : Instr} {rm : RM} {k : StatusChange} (sz : Cpu → Sz) (regs : Cpu → List Reg)
    (hp : ∀ s : State, footprint i s = ofRead s (sz s.cpu) rm (regs s.cpu) k)
    (h : ∀ s : State, s.mem.wf = true → s.canRead (sz s.cpu) rm = true → s.ready i = true →
      CompletesWithin i s [] (regs s.cpu) k) : Framed i :=
  framed_of_completes fun s _ hwf hs hallowed hready => by
    cases (hp s).symm.trans hs
    exact h s hwf hallowed hready

/-- An instruction without a memory operand. -/
theorem framed_ofRegs {i : Instr} {k : StatusChange} (regs : Cpu → List Reg)
    (hp : ∀ s : State, footprint i s = some ⟨true, [], regs s.cpu, k⟩)
    (h : ∀ s : State, s.mem.wf = true → s.ready i = true → CompletesWithin i s [] (regs s.cpu) k) : Framed i :=
  framed_of_completes fun s _ hwf hs _ hready => by
    cases (hp s).symm.trans hs
    exact h s hwf hready

/-- An instruction that pushes an item. -/
theorem framed_ofPush {i : Instr} (allowed : State → Bool) (hp : ∀ s : State, footprint i s = ofPush s (allowed s))
    (h : ∀ s : State, s.mem.wf = true → allowed s = true → s.canPush s.cpu.osz = true → s.ready i = true →
      CompletesWithin i s (physBytes (s.stackLinear (- BitVec.ofNat 32 s.cpu.osz.bytes)) s.cpu.osz.bytes) [.esp] .none) :
    Framed i :=
  framed_of_completes fun s _ hwf hs hallowed hready => by
    cases (hp s).symm.trans hs
    obtain ⟨ha, hpush⟩ := (Bool.and_eq_true _ _).mp hallowed
    exact h s hwf ha hpush hready

/-- An instruction with no footprint is framed: the statement does not speak of it. -/
theorem framed_of_none {i : Instr} (h : ∀ s, footprint i s = none) : Framed i := fun s _ _ _ hp => by
  rw [h s] at hp
  cases hp

end Sys2Proof.Machine

/-! PROOFS. The frames of the data transfer and flag instructions, from the statements that say what each completes with. -/

namespace Sys2Proof.Machine

/-! ## MOV, XCHG, MOVSX, MOVZX, LEA -/

section Moves
variable (w : Bool) (rm : RM) (r : Reg) (v : Imm)

theorem framed_movRmReg : Framed (.movRmReg w rm r) :=
  framed_ofWrite (·.size w) (fun _ => rfl) fun s hwf hcan hready => by
    obtain ⟨hmov, -⟩ := movXchgComplete w rm r (.i8 0) s
    exact ⟨_, _, hmov hready hcan, (State.Frame.refl hwf).rmWritten (List.Subset.refl _) (List.Subset.refl _) _, EFlags.within_refl _ _⟩

theorem framed_movRegRm : Framed (.movRegRm w r rm) :=
  framed_ofRead (·.size w) (fun c => [writtenReg (c.size w) r]) (fun _ => rfl) fun s hwf hcan hready => by
    obtain ⟨-, hmov, -⟩ := movXchgComplete w rm r (.i8 0) s
    exact ⟨_, _, hmov hready hcan, .readLoaded hwf _ _ rm r _, EFlags.within_refl _ _⟩

theorem framed_movRmImm : Framed (.movRmImm w rm v) :=
  framed_ofWrite (·.size w) (fun _ => rfl) fun s hwf hcan hready => by
    obtain ⟨-, -, hmov, -⟩ := movXchgComplete w rm .eax v s
    exact ⟨_, _, hmov hready hcan, (State.Frame.refl hwf).rmWritten (List.Subset.refl _) (List.Subset.refl _) _, EFlags.within_refl _ _⟩

theorem framed_movRegImm : Framed (.movRegImm w r v) :=
  framed_ofRegs (fun c => [writtenReg (c.size w) r]) (fun _ => rfl) fun s hwf hready => by
    obtain ⟨-, -, -, hmov, -⟩ := movXchgComplete w (.reg .eax) r v s
    exact ⟨_, _, hmov hready, (State.Frame.refl hwf).withReg (List.mem_singleton.mpr rfl) _, EFlags.within_refl _ _⟩

theorem framed_movAccMoffs : Framed (.movAccMoffs w v) :=
  framed_of_completes fun s _ hwf hs hallowed hready => by
    cases hs
    obtain ⟨-, -, -, -, hmov, -⟩ := movXchgComplete w (.reg .eax) .eax v s
    exact ⟨_, _, hmov hready hallowed,
      ((State.Frame.refl hwf).noted _ _).withReg (List.mem_singleton.mpr (writtenReg_eax _)) _, EFlags.within_refl _ _⟩

theorem framed_movMoffsAcc : Framed (.movMoffsAcc w v) :=
  framed_of_completes fun s _ hwf hs hallowed hready => by
    cases hs
    obtain ⟨-, -, -, -, -, hmov, -⟩ := movXchgComplete w (.reg .eax) .eax v s
    exact ⟨_, _, hmov hready hallowed, (State.Frame.refl hwf).storedAt (List.Subset.refl _) _, EFlags.within_refl _ _⟩

theorem framed_xchgRmReg : Framed (.xchgRmReg w rm r) :=
  framed_of_completes fun s _ hwf hs hallowed hready => by
    cases hs
    obtain ⟨-, -, -, -, -, -, hxchg, -⟩ := movXchgComplete w rm r (.i8 0) s
    refine ⟨_, _, hxchg hready hallowed, ?_, EFlags.within_refl _ _⟩
    exact (((State.Frame.refl hwf).rmRead _ rm).rmWritten (by rw [State.rmRead_rmStores]; exact List.Subset.refl _)
      (List.subset_append_left _ _) _).withReg (List.mem_append_right _ (List.mem_singleton.mpr rfl)) _

theorem framed_xchgRegAcc : Framed (.xchgRegAcc r) :=
  framed_ofRegs (fun _ => [.eax, r]) (fun _ => rfl) fun s hwf hready => by
    obtain ⟨-, -, -, -, -, -, -, hxchg⟩ := movXchgComplete true (.reg .eax) r (.i8 0) s
    refine ⟨_, _, hxchg hready, ?_, EFlags.within_refl _ _⟩
    exact ((State.Frame.refl hwf).withReg (by simp [writtenReg_osz]) _).withReg (by simp [writtenReg_osz]) _

theorem framed_movsx : Framed (.movsx w r rm) :=
  framed_ofRead (fun _ => if w then .w else .b) (fun _ => [r]) (fun _ => rfl) fun s hwf hcan hready => by
    obtain ⟨hmov, -⟩ := extendAndLeaComplete w r rm (.direct32 0) s
    exact ⟨_, _, hmov hready hcan, ((State.Frame.refl hwf).rmRead _ rm).withReg (List.mem_singleton.mpr (writtenReg_osz _ r)) _,
      EFlags.within_refl _ _⟩

theorem framed_movzx : Framed (.movzx w r rm) :=
  framed_ofRead (fun _ => if w then .w else .b) (fun _ => [r]) (fun _ => rfl) fun s hwf hcan hready => by
    obtain ⟨-, hmov, -⟩ := extendAndLeaComplete w r rm (.direct32 0) s
    exact ⟨_, _, hmov hready hcan, ((State.Frame.refl hwf).rmRead _ rm).withReg (List.mem_singleton.mpr (writtenReg_osz _ r)) _,
      EFlags.within_refl _ _⟩

theorem framed_lea (m : Mem) : Framed (.lea r m) :=
  framed_ofRegs (fun _ => [r]) (fun _ => rfl) fun s hwf hready => by
    obtain ⟨-, -, hlea⟩ := extendAndLeaComplete true r (.reg .eax) m s
    exact ⟨_, _, hlea hready, (State.Frame.refl hwf).withReg (List.mem_singleton.mpr (writtenReg_osz _ r)) _, EFlags.within_refl _ _⟩

end Moves

/-! ## The stack -/

section Stack
variable (rm : RM) (r : Reg)

/-- A selector pushed: its item lies below the stack pointer as any other. -/
theorem State.Frame.pushedSelector {s : State} (h : s.mem.wf = true) (sel : Word) :
    s.Frame (s.pushedSelector s.cpu.osz sel) (physBytes (s.stackLinear (- BitVec.ofNat 32 s.cpu.osz.bytes)) s.cpu.osz.bytes) [.esp]
      s.cpu.flags :=
  ((State.Frame.refl h).selectorDrawn _).pushed (by rw [State.selectorDrawn_stackLinear]; exact List.Subset.refl _)
    (List.mem_singleton.mpr rfl) _

/-- An item pushed at once. -/
theorem State.Frame.pushedItem {s : State} (h : s.mem.wf = true) (v : BitVec s.cpu.osz.bits) :
    s.Frame (s.pushed s.cpu.osz v) (physBytes (s.stackLinear (- BitVec.ofNat 32 s.cpu.osz.bytes)) s.cpu.osz.bytes) [.esp]
      s.cpu.flags :=
  (State.Frame.refl h).pushed (List.Subset.refl _) (List.mem_singleton.mpr rfl) v

theorem framed_pushReg : Framed (.pushReg r) :=
  framed_ofPush (fun _ => true) (fun _ => rfl) fun s hwf _ hpush hready => by
    obtain ⟨h, -⟩ := pushCompletes r (.reg .eax) false (.i8 0) .es s hpush
    exact ⟨_, _, h hready, .pushedItem hwf _, EFlags.within_refl _ _⟩

theorem framed_pushRm : Framed (.pushRm rm) :=
  framed_ofPush (fun s => s.canRead s.cpu.osz rm) (fun _ => rfl) fun s hwf hcan hpush hready => by
    obtain ⟨-, h, -⟩ := pushCompletes .eax rm false (.i8 0) .es s hpush
    refine ⟨_, _, h hready hcan, ?_, EFlags.within_refl _ _⟩
    exact ((State.Frame.refl hwf).rmRead _ rm).pushed (by rw [State.rmRead_stackLinear]; exact List.Subset.refl _)
      (List.mem_singleton.mpr rfl) _

theorem framed_pushImm (sx : Bool) (v : Imm) : Framed (.pushImm sx v) :=
  framed_ofPush (fun _ => true) (fun _ => rfl) fun s hwf _ hpush hready => by
    obtain ⟨-, -, h, -⟩ := pushCompletes .eax (.reg .eax) sx v .es s hpush
    exact ⟨_, _, h hready, .pushedItem hwf _, EFlags.within_refl _ _⟩

theorem framed_pushSreg (g : SReg2) : Framed (.pushSreg g) :=
  framed_ofPush (fun _ => true) (fun _ => rfl) fun s hwf _ hpush hready => by
    obtain ⟨-, -, -, h, -⟩ := pushCompletes .eax (.reg .eax) false (.i8 0) g s hpush
    exact ⟨_, _, h hready, .pushedSelector hwf _, EFlags.within_refl _ _⟩

theorem framed_pushFs : Framed .pushFs :=
  framed_ofPush (fun _ => true) (fun _ => rfl) fun s hwf _ hpush hready => by
    obtain ⟨-, -, -, -, h, -⟩ := pushCompletes .eax (.reg .eax) false (.i8 0) .es s hpush
    exact ⟨_, _, h hready, .pushedSelector hwf _, EFlags.within_refl _ _⟩

theorem framed_pushGs : Framed .pushGs :=
  framed_ofPush (fun _ => true) (fun _ => rfl) fun s hwf _ hpush hready => by
    obtain ⟨-, -, -, -, -, h⟩ := pushCompletes .eax (.reg .eax) false (.i8 0) .es s hpush
    exact ⟨_, _, h hready, .pushedSelector hwf _, EFlags.within_refl _ _⟩

theorem framed_pushf : Framed .pushf :=
  framed_ofPush (fun s => !(s.cpu.v86 && s.cpu.flags.iopl != 3)) (fun _ => rfl) fun s hwf hiopl hpush hready => by
    obtain ⟨h, -⟩ := pushfPopfComplete s
    obtain ⟨h, -⟩ := h (by simpa only [Bool.not_eq_true'] using hiopl)
    exact ⟨_, _, h hready hpush, .pushedItem hwf _, EFlags.within_refl _ _⟩

theorem framed_popReg : Framed (.popReg r) :=
  framed_of_completes fun s _ hwf hs hallowed hready => by
    cases hs
    obtain ⟨h, -⟩ := popCompletes r (.reg .eax) .es s hallowed
    refine ⟨_, _, h hready, ?_, EFlags.within_refl _ _⟩
    exact ((State.Frame.refl hwf).popped (by simp) _).withReg (by simp [writtenReg_osz]) _

theorem framed_popRm : Framed (.popRm rm) :=
  framed_of_completes fun s _ hwf hs hallowed hready => by
    cases hs
    obtain ⟨hpeek, hwrite⟩ := (Bool.and_eq_true _ _).mp hallowed
    obtain ⟨-, h, -⟩ := popCompletes .eax rm .es s hpeek
    refine ⟨_, _, h hready hwrite, ?_, EFlags.within_refl _ _⟩
    exact ((State.Frame.refl hwf).popped (by simp) _).rmWritten (List.Subset.refl _) (List.subset_cons_self _ _) _

end Stack

/-! ## Flags -/

/-- An instruction that writes flags alone. -/
theorem framed_withFlags {i : Instr} {k : StatusChange} (g : State → EFlags) (hp : ∀ s, footprint i s = some ⟨true, [], [], k⟩)
    (h : ∀ s : State, s.ready i = true → exec i s = completes s (s.withFlags (g s))) (hk : ∀ s, EFlags.Within k s.cpu.flags (g s)) :
    Framed i :=
  framed_ofRegs (fun _ => []) hp fun s hwf hready => ⟨_, _, h s hready, (State.Frame.refl hwf).withFlags _, hk s⟩

/-- One status flag of CF, written by CLC, STC or CMC. -/
theorem within_cfOnly (f : EFlags) (b : Bool) : EFlags.Within .cfOnly f { f with cf := b } :=
  ⟨⟨rfl, rfl, rfl, rfl, rfl, rfl⟩, ⟨rfl, rfl, rfl, rfl, rfl⟩⟩

theorem framed_clc : Framed .clc :=
  framed_withFlags (fun s => { s.cpu.flags with cf := false }) (fun _ => rfl)
    (fun s => by
      obtain ⟨⟨-, h⟩, -⟩ := flagOpsComplete ⟨false, false⟩ s
      exact h)
    fun _ => within_cfOnly _ _

theorem framed_stc : Framed .stc :=
  framed_withFlags (fun s => { s.cpu.flags with cf := true }) (fun _ => rfl)
    (fun s => by
      obtain ⟨-, ⟨-, h⟩, -⟩ := flagOpsComplete ⟨false, false⟩ s
      exact h)
    fun _ => within_cfOnly _ _

theorem framed_cmc : Framed .cmc :=
  framed_withFlags (fun s => { s.cpu.flags with cf := !s.cpu.flags.cf }) (fun _ => rfl)
    (fun s => by
      obtain ⟨-, -, ⟨-, h⟩, -⟩ := flagOpsComplete ⟨false, false⟩ s
      exact h)
    fun _ => within_cfOnly _ _

theorem framed_sahf : Framed .sahf :=
  framed_ofRegs (fun _ => []) (fun _ => rfl) fun s hwf hready => by
    obtain ⟨-, -, -, -, -, ⟨-, h⟩, -⟩ := flagOpsComplete ⟨false, false⟩ s
    exact ⟨_, _, h hready, (State.Frame.refl hwf).withFlags _, ⟨rfl, rfl, rfl, rfl, rfl, rfl⟩, rfl⟩

theorem framed_lahf : Framed .lahf :=
  framed_ofRegs (fun _ => [.eax]) (fun _ => rfl) fun s hwf hready => by
    obtain ⟨-, -, -, -, -, -, -, h⟩ := flagOpsComplete ⟨false, false⟩ s
    exact ⟨_, _, h hready, (State.Frame.refl hwf).withReg (List.mem_singleton.mpr rfl) _, EFlags.within_refl _ _⟩

theorem framed_nop : Framed .nop :=
  framed_ofRegs (fun _ => []) (fun _ => rfl) fun s hwf hready => by
    obtain ⟨-, h, -⟩ := haltNopWaitPrefixesComplete.1 s
    exact ⟨_, _, h hready, State.Frame.refl hwf, EFlags.within_refl _ _⟩

theorem framed_setcc (c : Cond) (rm : RM) : Framed (.setcc c rm) :=
  framed_ofWrite (fun _ => .b) (fun _ => rfl) fun s hwf hcan hready => by
    obtain ⟨h, -⟩ := frameInstructionsComplete c rm 0 0 s
    exact ⟨_, _, h hready hcan, (State.Frame.refl hwf).rmWritten (List.Subset.refl _) (List.Subset.refl _) _, EFlags.within_refl _ _⟩

end Sys2Proof.Machine

/-! PROOFS. The frames of the arithmetic instructions. -/

namespace Sys2Proof.Machine

/-! ## What arithmetic does to the control flags -/

theorem EFlags.controlKept_add {n : Nat} (f : EFlags) (a b : BitVec n) (c : Bool) : f.ControlKept (f.add a b c) :=
  ⟨rfl, rfl, rfl, rfl, rfl, rfl⟩

theorem EFlags.controlKept_sub {n : Nat} (f : EFlags) (a b : BitVec n) (c : Bool) : f.ControlKept (f.sub a b c) :=
  ⟨rfl, rfl, rfl, rfl, rfl, rfl⟩

theorem EFlags.controlKept_logic {n : Nat} (f : EFlags) (r : BitVec n) (j : Dword) : f.ControlKept (f.logic r j) :=
  ⟨rfl, rfl, rfl, rfl, rfl, rfl⟩

theorem EFlags.controlKept_mul (f : EFlags) (wide : Bool) (j : Dword) : f.ControlKept ((f.setMul wide).freeSzap j) :=
  ⟨rfl, rfl, rfl, rfl, rfl, rfl⟩

theorem EFlags.controlKept_alu {n : Nat} (op : Alu) (f : EFlags) (a b : BitVec n) : f.ControlKept (aluFlags op f a b) := by
  cases op with
  | add | adc => exact f.controlKept_add a b _
  | sub | sbb => exact f.controlKept_sub a b _

/-- INC and DEC give CF back (R333, R336). -/
theorem EFlags.within_butCf {f g : EFlags} (h : f.ControlKept g) : EFlags.Within .butCf f { g with cf := f.cf } := ⟨h, rfl⟩

/-! ## ADD, ADC, SUB, SBB -/

section Alu
variable (op : Alu) (w : Bool) (rm : RM) (reg : Reg) (imm : Imm)

theorem footprint_aluRmReg (d : Bool) (s : State) :
    footprint (aluRmRegInstr op d w rm reg) s = ofPair s d (s.cpu.size w) rm reg .all := by cases op <;> rfl

theorem footprint_aluRmImm (sx : Bool) (s : State) :
    footprint (aluRmImmInstr op sx w rm imm) s = ofWrite s (s.cpu.size w) rm .all := by cases op <;> rfl

theorem footprint_aluAccImm (s : State) : footprint (aluAccImmInstr op w imm) s = some ⟨true, [], [.eax], .all⟩ := by
  cases op <;> rfl

theorem framed_aluRmReg (d : Bool) : Framed (aluRmRegInstr op d w rm reg) := by
  cases d with
  | false =>
    refine framed_ofWrite (·.size w) (footprint_aluRmReg op w rm reg false) fun s hwf hcan hready => ?_
    obtain ⟨h, -⟩ := aluCompletes op false w rm reg (.i8 0) s
    exact ⟨_, _, h hready hcan, (State.Frame.readWritten hwf _ rm _).withFlags _, EFlags.within_all (EFlags.controlKept_alu op _ _ _)⟩
  | true =>
    refine framed_ofRead (·.size w) (fun c => [writtenReg (c.size w) reg]) (footprint_aluRmReg op w rm reg true)
      fun s hwf hcan hready => ?_
    obtain ⟨-, h, -⟩ := aluCompletes op false w rm reg (.i8 0) s
    exact ⟨_, _, h hready hcan, (State.Frame.readLoaded hwf _ _ rm reg _).withFlags _,
      EFlags.within_all (EFlags.controlKept_alu op _ _ _)⟩

theorem framed_aluRmImm (sx : Bool) : Framed (aluRmImmInstr op sx w rm imm) :=
  framed_ofWrite (·.size w) (footprint_aluRmImm op w rm imm sx) fun s hwf hcan hready => by
    obtain ⟨-, -, h, -⟩ := aluCompletes op sx w rm .eax imm s
    exact ⟨_, _, h hready hcan, (State.Frame.readWritten hwf _ rm _).withFlags _, EFlags.within_all (EFlags.controlKept_alu op _ _ _)⟩

theorem framed_aluAccImm : Framed (aluAccImmInstr op w imm) :=
  framed_ofRegs (fun _ => [.eax]) (footprint_aluAccImm op w imm) fun s hwf hready => by
    obtain ⟨-, -, -, h⟩ := aluCompletes op false w (.reg .eax) .eax imm s
    exact ⟨_, _, h hready, ((State.Frame.refl hwf).withReg (List.mem_singleton.mpr (writtenReg_eax _)) _).withFlags _,
      EFlags.within_all (EFlags.controlKept_alu op _ _ _)⟩

end Alu

/-! ## CMP and TEST -/

section Compare
variable (w : Bool) (rm : RM) (reg : Reg) (imm : Imm)

theorem framed_cmpRmReg (d : Bool) : Framed (.cmpRmReg d w rm reg) :=
  framed_ofRead (·.size w) (fun _ => []) (fun _ => rfl) fun s hwf hcan hready => by
    obtain ⟨h, -⟩ := compareAndTestComplete d false w rm reg (.i8 0) s
    refine ⟨_, _, h hready hcan, ((State.Frame.refl hwf).rmRead _ rm).withFlags _, EFlags.within_all ?_⟩
    split
    · exact EFlags.controlKept_sub _ _ _ _
    · exact EFlags.controlKept_sub _ _ _ _

theorem framed_cmpRmImm (sx : Bool) : Framed (.cmpRmImm sx w rm imm) :=
  framed_ofRead (·.size w) (fun _ => []) (fun _ => rfl) fun s hwf hcan hready => by
    obtain ⟨-, h, -⟩ := compareAndTestComplete false sx w rm .eax imm s
    exact ⟨_, _, h hready hcan, ((State.Frame.refl hwf).rmRead _ rm).withFlags _, EFlags.within_all (EFlags.controlKept_sub _ _ _ _)⟩

theorem framed_cmpAccImm : Framed (.cmpAccImm w imm) :=
  framed_ofRegs (fun _ => []) (fun _ => rfl) fun s hwf hready => by
    obtain ⟨-, -, h, -⟩ := compareAndTestComplete false false w (.reg .eax) .eax imm s
    exact ⟨_, _, h hready, (State.Frame.refl hwf).withFlags _, EFlags.within_all (EFlags.controlKept_sub _ _ _ _)⟩

theorem framed_testRmReg : Framed (.testRmReg w rm reg) :=
  framed_ofRead (·.size w) (fun _ => []) (fun _ => rfl) fun s hwf hcan hready => by
    obtain ⟨-, -, -, h, -⟩ := compareAndTestComplete false false w rm reg (.i8 0) s
    exact ⟨_, _, h hready hcan, ((State.Frame.refl hwf).rmRead _ rm).drawn.withFlags _,
      EFlags.within_all (EFlags.controlKept_logic _ _ _)⟩

theorem framed_testRmImm : Framed (.testRmImm w rm imm) :=
  framed_ofRead (·.size w) (fun _ => []) (fun _ => rfl) fun s hwf hcan hready => by
    obtain ⟨-, -, -, -, h, -⟩ := compareAndTestComplete false false w rm .eax imm s
    exact ⟨_, _, h hready hcan, ((State.Frame.refl hwf).rmRead _ rm).drawn.withFlags _,
      EFlags.within_all (EFlags.controlKept_logic _ _ _)⟩

theorem framed_testAccImm : Framed (.testAccImm w imm) :=
  framed_ofRegs (fun _ => []) (fun _ => rfl) fun s hwf hready => by
    obtain ⟨-, -, -, -, -, h⟩ := compareAndTestComplete false false w (.reg .eax) .eax imm s
    exact ⟨_, _, h hready, (State.Frame.refl hwf).drawn.withFlags _, EFlags.within_all (EFlags.controlKept_logic _ _ _)⟩

end Compare

/-! ## INC, DEC, NEG, NOT -/

section Unary
variable (w : Bool) (rm : RM) (reg : Reg)

theorem framed_incRm : Framed (.incRm w rm) :=
  framed_ofWrite (·.size w) (fun _ => rfl) fun s hwf hcan hready => by
    obtain ⟨h, -⟩ := unaryCompletes w rm .eax s
    obtain ⟨h, -⟩ := h hcan
    exact ⟨_, _, h hready, (State.Frame.readWritten hwf _ rm _).withFlags _, EFlags.within_butCf (EFlags.controlKept_add _ _ _ _)⟩

theorem framed_decRm : Framed (.decRm w rm) :=
  framed_ofWrite (·.size w) (fun _ => rfl) fun s hwf hcan hready => by
    obtain ⟨h, -⟩ := unaryCompletes w rm .eax s
    obtain ⟨-, h, -⟩ := h hcan
    exact ⟨_, _, h hready, (State.Frame.readWritten hwf _ rm _).withFlags _, EFlags.within_butCf (EFlags.controlKept_sub _ _ _ _)⟩

theorem framed_negRm : Framed (.negRm w rm) :=
  framed_ofWrite (·.size w) (fun _ => rfl) fun s hwf hcan hready => by
    obtain ⟨h, -⟩ := unaryCompletes w rm .eax s
    obtain ⟨-, -, h, -⟩ := h hcan
    exact ⟨_, _, h hready, (State.Frame.readWritten hwf _ rm _).withFlags _, EFlags.within_all (EFlags.controlKept_sub _ _ _ _)⟩

theorem framed_notRm : Framed (.notRm w rm) :=
  framed_ofWrite (·.size w) (fun _ => rfl) fun s hwf hcan hready => by
    obtain ⟨h, -⟩ := unaryCompletes w rm .eax s
    obtain ⟨-, -, -, h⟩ := h hcan
    exact ⟨_, _, h hready, State.Frame.readWritten hwf _ rm _, EFlags.within_refl _ _⟩

theorem framed_incReg : Framed (.incReg reg) :=
  framed_ofRegs (fun _ => [reg]) (fun _ => rfl) fun s hwf hready => by
    obtain ⟨-, h, -⟩ := unaryCompletes true (.reg .eax) reg s
    exact ⟨_, _, h hready, ((State.Frame.refl hwf).withReg (List.mem_singleton.mpr (writtenReg_osz _ reg)) _).withFlags _,
      EFlags.within_butCf (EFlags.controlKept_add _ _ _ _)⟩

theorem framed_decReg : Framed (.decReg reg) :=
  framed_ofRegs (fun _ => [reg]) (fun _ => rfl) fun s hwf hready => by
    obtain ⟨-, -, h⟩ := unaryCompletes true (.reg .eax) reg s
    exact ⟨_, _, h hready, ((State.Frame.refl hwf).withReg (List.mem_singleton.mpr (writtenReg_osz _ reg)) _).withFlags _,
      EFlags.within_butCf (EFlags.controlKept_sub _ _ _ _)⟩

end Unary

/-! ## Decimal and ASCII adjustment, CBW, CWD -/

/-- A part of EAX written by an instruction that names no other register. -/
theorem State.Frame.withEax {s t : State} {f : EFlags} (h : s.Frame t [] [.eax] f) {sz : Sz} {r : Reg} (hr : writtenReg sz r = .eax)
    (v : BitVec sz.bits) : s.Frame (t.withReg sz r v) [] [.eax] f := h.withReg (List.mem_singleton.mpr hr) v

theorem framed_aaa : Framed .aaa :=
  framed_ofRegs (fun _ => [.eax]) (fun _ => rfl) fun s hwf hready => by
    obtain ⟨h, -⟩ := adjustCompletes s
    exact ⟨_, _, h hready, (((State.Frame.refl hwf).withEax rfl _).withEax rfl _).drawn.withFlags _,
      EFlags.within_all ⟨rfl, rfl, rfl, rfl, rfl, rfl⟩⟩

theorem framed_aas : Framed .aas :=
  framed_ofRegs (fun _ => [.eax]) (fun _ => rfl) fun s hwf hready => by
    obtain ⟨-, h, -⟩ := adjustCompletes s
    exact ⟨_, _, h hready, (((State.Frame.refl hwf).withEax rfl _).withEax rfl _).drawn.withFlags _,
      EFlags.within_all ⟨rfl, rfl, rfl, rfl, rfl, rfl⟩⟩

theorem framed_daa : Framed .daa :=
  framed_ofRegs (fun _ => [.eax]) (fun _ => rfl) fun s hwf hready => by
    obtain ⟨-, -, h, -⟩ := adjustCompletes s
    exact ⟨_, _, h hready, ((State.Frame.refl hwf).withEax rfl _).drawn.withFlags _,
      EFlags.within_all ⟨rfl, rfl, rfl, rfl, rfl, rfl⟩⟩

theorem framed_das : Framed .das :=
  framed_ofRegs (fun _ => [.eax]) (fun _ => rfl) fun s hwf hready => by
    obtain ⟨-, -, -, h, -⟩ := adjustCompletes s
    exact ⟨_, _, h hready, ((State.Frame.refl hwf).withEax rfl _).drawn.withFlags _,
      EFlags.within_all ⟨rfl, rfl, rfl, rfl, rfl, rfl⟩⟩

theorem framed_aad : Framed .aad :=
  framed_ofRegs (fun _ => [.eax]) (fun _ => rfl) fun s hwf hready => by
    obtain ⟨-, -, -, -, h, -⟩ := adjustCompletes s
    exact ⟨_, _, h hready, (((State.Frame.refl hwf).withEax rfl _).withEax rfl _).drawn.withFlags _,
      EFlags.within_all ⟨rfl, rfl, rfl, rfl, rfl, rfl⟩⟩

theorem framed_aam : Framed .aam :=
  framed_ofRegs (fun _ => [.eax]) (fun _ => rfl) fun s hwf hready => by
    obtain ⟨-, -, -, -, -, h, -⟩ := adjustCompletes s
    exact ⟨_, _, h hready, (((State.Frame.refl hwf).withEax rfl _).withEax rfl _).drawn.withFlags _,
      EFlags.within_all ⟨rfl, rfl, rfl, rfl, rfl, rfl⟩⟩

theorem framed_cbw : Framed .cbw :=
  framed_ofRegs (fun _ => [.eax]) (fun _ => rfl) fun s hwf hready => by
    obtain ⟨-, -, -, -, -, -, h, -⟩ := adjustCompletes s
    refine ⟨_, _, h hready, ?_, EFlags.within_refl _ _⟩
    split
    · exact (State.Frame.refl hwf).withEax rfl _
    · exact (State.Frame.refl hwf).withEax rfl _

theorem framed_cwd : Framed .cwd :=
  framed_ofRegs (fun _ => [.edx]) (fun _ => rfl) fun s hwf hready => by
    obtain ⟨-, -, -, -, -, -, -, h⟩ := adjustCompletes s
    exact ⟨_, _, h hready, (State.Frame.refl hwf).withReg (List.mem_singleton.mpr (writtenReg_osz _ .edx)) _, EFlags.within_refl _ _⟩

/-! ## MUL and IMUL -/

section Multiply
variable (w : Bool) (rm : RM) (dst : Reg)

/-- Both halves of a product in the accumulator and its extension. -/
theorem State.Frame.product {s : State} (h : s.mem.wf = true) (sz : Sz) (rm : RM) (low high : BitVec sz.bits) (f : EFlags) :
    s.Frame (((((s.rmRead sz rm).withReg sz .eax low).withReg sz (highReg sz) high).drawn).withFlags f) []
      [.eax, writtenReg sz (highReg sz)] f :=
  (((((State.Frame.refl h).rmRead sz rm).withReg (by simp [writtenReg_eax]) low).withReg (by simp) high).drawn).withFlags f

/-- A product of the operand size in its destination. -/
theorem State.Frame.productReg {s : State} (h : s.mem.wf = true) (rm : RM) (dst : Reg) (v : BitVec s.cpu.osz.bits) (f : EFlags) :
    s.Frame ((((s.rmRead s.cpu.osz rm).withReg s.cpu.osz dst v).drawn).withFlags f) [] [dst] f :=
  ((((State.Frame.refl h).rmRead _ rm).withReg (List.mem_singleton.mpr (writtenReg_osz _ dst)) v).drawn).withFlags f

theorem framed_mulAcc : Framed (.mulAcc w rm) :=
  framed_ofRead (·.size w) (fun c => [.eax, writtenReg (c.size w) (highReg (c.size w))]) (fun _ => rfl) fun s hwf hcan hready => by
    obtain ⟨h, -⟩ := multiplyCompletes w false rm .eax (.i8 0) s
    obtain ⟨h, -⟩ := h hcan
    exact ⟨_, _, h hready, .product hwf _ rm _ _ _, EFlags.within_all (EFlags.controlKept_mul _ _ _)⟩

theorem framed_imulAcc : Framed (.imulAcc w rm) :=
  framed_ofRead (·.size w) (fun c => [.eax, writtenReg (c.size w) (highReg (c.size w))]) (fun _ => rfl) fun s hwf hcan hready => by
    obtain ⟨h, -⟩ := multiplyCompletes w false rm .eax (.i8 0) s
    obtain ⟨-, h⟩ := h hcan
    exact ⟨_, _, h hready, .product hwf _ rm _ _ _, EFlags.within_all (EFlags.controlKept_mul _ _ _)⟩

theorem framed_imulRegRm : Framed (.imulRegRm dst rm) :=
  framed_ofRead Cpu.osz (fun _ => [dst]) (fun _ => rfl) fun s hwf hcan hready => by
    obtain ⟨-, h⟩ := multiplyCompletes true false rm dst (.i8 0) s
    obtain ⟨h, -⟩ := h hcan
    exact ⟨_, _, h hready, .productReg hwf rm dst _ _, EFlags.within_all (EFlags.controlKept_mul _ _ _)⟩

theorem framed_imulRegRmImm (sx : Bool) (imm : Imm) : Framed (.imulRegRmImm sx dst rm imm) :=
  framed_ofRead Cpu.osz (fun _ => [dst]) (fun _ => rfl) fun s hwf hcan hready => by
    obtain ⟨-, h⟩ := multiplyCompletes true sx rm dst imm s
    obtain ⟨-, h⟩ := h hcan
    exact ⟨_, _, h hready, .productReg hwf rm dst _ _, EFlags.within_all (EFlags.controlKept_mul _ _ _)⟩

end Multiply

end Sys2Proof.Machine

/-! PROOFS. The frames of the shifts, logic, string and bit instructions, and what the 111 instructions leave alone (R48, R50, R260). -/

namespace Sys2Proof.Machine

/-! ## Shifts and rotates -/

/-- The rotates change CF and OF, the shifts any status flag (R380). -/
def Shift.statusChange (op : Shift) : StatusChange := if op.isRotate then .cfOf else .all

theorem EFlags.within_shift {n : Nat} (op : Shift) (f : EFlags) (x : BitVec n) (c : Nat) (j : Dword) :
    EFlags.Within op.statusChange f (op.flags f x c j) := by
  rw [Shift.flags]
  split
  · exact EFlags.within_refl _ f
  · cases op with
    | rol | ror | rcl | rcr => exact ⟨⟨rfl, rfl, rfl, rfl, rfl, rfl⟩, rfl, rfl, rfl, rfl⟩
    | shl | shr | sar => exact EFlags.within_all ⟨rfl, rfl, rfl, rfl, rfl, rfl⟩

theorem footprint_shift (op : Shift) (k : CountForm) (w : Bool) (rm : RM) (s : State) :
    footprint (shiftInstr op k w rm) s = ofWrite s (s.cpu.size w) rm op.statusChange := by
  cases op <;> cases k <;> rfl

theorem framed_shift (op : Shift) (k : CountForm) (w : Bool) (rm : RM) : Framed (shiftInstr op k w rm) :=
  framed_ofWrite (·.size w) (footprint_shift op k w rm) fun s hwf hcan hready => by
    have h := shiftCompletes op k w rm s hready hcan
    split at h
    · exact ⟨_, _, h, (State.Frame.refl hwf).rmRead _ rm, EFlags.within_refl _ _⟩
    · exact ⟨_, _, h, (State.Frame.readWritten hwf _ rm _).drawn.withFlags _, EFlags.within_shift op _ _ _ _⟩

theorem footprint_doubleShift (left : Bool) (k : Option Byte) (rm : RM) (reg : Reg) (s : State) :
    footprint (doubleShiftInstr left k rm reg) s = ofWrite s s.cpu.osz rm .all := by
  cases left <;> cases k <;> rfl

theorem framed_doubleShift (left : Bool) (k : Option Byte) (rm : RM) (reg : Reg) : Framed (doubleShiftInstr left k rm reg) :=
  framed_ofWrite Cpu.osz (footprint_doubleShift left k rm reg) fun s hwf hcan hready => by
    have h := doubleShiftCompletes left k rm reg s hready hcan
    have hread : s.Frame (s.rmRead s.cpu.osz rm) (s.rmStores s.cpu.osz rm) (rmWrites s.cpu.osz rm) s.cpu.flags :=
      (State.Frame.refl hwf).rmRead _ rm
    have hstores : (s.rmRead s.cpu.osz rm).rmStores s.cpu.osz rm ⊆ s.rmStores s.cpu.osz rm := by
      rw [State.rmRead_rmStores]
      exact List.Subset.refl _
    split at h
    · exact ⟨_, _, h, hread, EFlags.within_refl _ _⟩
    · split at h
      · exact ⟨_, _, h, (hread.drawn.rmWritten hstores (List.Subset.refl _) _).withFlags _,
          EFlags.within_all ⟨rfl, rfl, rfl, rfl, rfl, rfl⟩⟩
      · exact ⟨_, _, h, (hread.drawn.drawn.rmWritten hstores (List.Subset.refl _) _).withFlags _,
          EFlags.within_all ⟨rfl, rfl, rfl, rfl, rfl, rfl⟩⟩

/-! ## AND, OR, XOR -/

section Logic
variable (op : Logic) (w : Bool) (rm : RM) (reg : Reg) (imm : Imm)

theorem footprint_logicRmReg (d : Bool) (s : State) :
    footprint (logicRmRegInstr op d w rm reg) s = ofPair s d (s.cpu.size w) rm reg .all := by cases op <;> rfl

theorem footprint_logicRmImm (s : State) :
    footprint (logicRmImmInstr op w rm imm) s = ofWrite s (s.cpu.size w) rm .all := by cases op <;> rfl

theorem footprint_logicRmImm8 (b : Byte) (s : State) :
    footprint (logicRmImm8Instr op rm b) s = ofWrite s s.cpu.osz rm .all := by cases op <;> rfl

theorem footprint_logicAccImm (s : State) : footprint (logicAccImmInstr op w imm) s = some ⟨true, [], [.eax], .all⟩ := by
  cases op <;> rfl

theorem framed_logicRmReg (d : Bool) : Framed (logicRmRegInstr op d w rm reg) := by
  cases d with
  | false =>
    refine framed_ofWrite (·.size w) (footprint_logicRmReg op w rm reg false) fun s hwf hcan hready => ?_
    obtain ⟨h, -⟩ := logicCompletes op w rm reg (.i8 0) 0 s
    exact ⟨_, _, h hready hcan, (State.Frame.readWritten hwf _ rm _).drawn.withFlags _,
      EFlags.within_all (EFlags.controlKept_logic _ _ _)⟩
  | true =>
    refine framed_ofRead (·.size w) (fun c => [writtenReg (c.size w) reg]) (footprint_logicRmReg op w rm reg true)
      fun s hwf hcan hready => ?_
    obtain ⟨-, h, -⟩ := logicCompletes op w rm reg (.i8 0) 0 s
    exact ⟨_, _, h hready hcan, (State.Frame.readLoaded hwf _ _ rm reg _).drawn.withFlags _,
      EFlags.within_all (EFlags.controlKept_logic _ _ _)⟩

theorem framed_logicRmImm : Framed (logicRmImmInstr op w rm imm) :=
  framed_ofWrite (·.size w) (footprint_logicRmImm op w rm imm) fun s hwf hcan hready => by
    obtain ⟨-, -, h, -⟩ := logicCompletes op w rm .eax imm 0 s
    exact ⟨_, _, h hready hcan, (State.Frame.readWritten hwf _ rm _).drawn.withFlags _,
      EFlags.within_all (EFlags.controlKept_logic _ _ _)⟩

theorem framed_logicRmImm8 (b : Byte) : Framed (logicRmImm8Instr op rm b) :=
  framed_ofWrite Cpu.osz (footprint_logicRmImm8 op rm b) fun s hwf hcan hready => by
    obtain ⟨-, -, -, h, -⟩ := logicCompletes op true rm .eax (.i8 0) b s
    exact ⟨_, _, h hready hcan, (State.Frame.readWritten hwf _ rm _).drawn.withFlags _,
      EFlags.within_all (EFlags.controlKept_logic _ _ _)⟩

theorem framed_logicAccImm : Framed (logicAccImmInstr op w imm) :=
  framed_ofRegs (fun _ => [.eax]) (footprint_logicAccImm op w imm) fun s hwf hready => by
    obtain ⟨-, -, -, -, h⟩ := logicCompletes op w (.reg .eax) .eax imm 0 s
    exact ⟨_, _, h hready, ((State.Frame.refl hwf).withEax (writtenReg_eax _) _).drawn.withFlags _,
      EFlags.within_all (EFlags.controlKept_logic _ _ _)⟩

end Logic

/-! ## The string primitives without a repeat prefix -/

section Strings
variable (w : Bool)

theorem framed_cmps : Framed (.cmps w) :=
  framed_of_completes fun s _ hwf hs hallowed hready => by
    cases hs
    simp only [Bool.and_eq_true, Option.isNone_iff_eq_none] at hallowed
    obtain ⟨⟨hrep, hsrc⟩, hdst⟩ := hallowed
    obtain ⟨h, -⟩ := stringCompletes w s
    obtain ⟨h, -⟩ := h hrep
    exact ⟨_, _, h hready hsrc hdst,
      (((((State.Frame.refl hwf).noted _ _).noted _ _).withFlags _).stepped (by simp) _).stepped (by simp) _,
      EFlags.within_all (EFlags.controlKept_sub _ _ _ _)⟩

theorem framed_lods : Framed (.lods w) :=
  framed_of_completes fun s _ hwf hs hallowed hready => by
    cases hs
    simp only [Bool.and_eq_true, Option.isNone_iff_eq_none] at hallowed
    obtain ⟨hrep, hsrc⟩ := hallowed
    obtain ⟨h, -⟩ := stringCompletes w s
    obtain ⟨-, h, -⟩ := h hrep
    refine ⟨_, _, h hready hsrc, ?_, EFlags.within_refl _ _⟩
    exact (((State.Frame.refl hwf).noted _ _).withReg (by simp [writtenReg_eax]) _).stepped (by simp) _

theorem framed_movs : Framed (.movs w) :=
  framed_of_completes fun s _ hwf hs hallowed hready => by
    cases hs
    simp only [Bool.and_eq_true, Option.isNone_iff_eq_none] at hallowed
    obtain ⟨⟨hrep, hsrc⟩, hdst⟩ := hallowed
    obtain ⟨h, -⟩ := stringCompletes w s
    obtain ⟨-, -, h, -⟩ := h hrep
    refine ⟨_, _, h hready hsrc hdst, ?_, EFlags.within_refl _ _⟩
    exact ((((State.Frame.refl hwf).noted _ _).storedAt (List.Subset.refl _) _).stepped (by simp) _).stepped (by simp) _

theorem framed_scas : Framed (.scas w) :=
  framed_of_completes fun s _ hwf hs hallowed hready => by
    cases hs
    simp only [Bool.and_eq_true, Option.isNone_iff_eq_none] at hallowed
    obtain ⟨hrep, hdst⟩ := hallowed
    obtain ⟨h, -⟩ := stringCompletes w s
    obtain ⟨-, -, -, h, -⟩ := h hrep
    exact ⟨_, _, h hready hdst,
      (((State.Frame.refl hwf).noted _ _).withFlags _).stepped (by simp) _,
      EFlags.within_all (EFlags.controlKept_sub _ _ _ _)⟩

theorem framed_stos : Framed (.stos w) :=
  framed_of_completes fun s _ hwf hs hallowed hready => by
    cases hs
    simp only [Bool.and_eq_true, Option.isNone_iff_eq_none] at hallowed
    obtain ⟨hrep, hdst⟩ := hallowed
    obtain ⟨h, -⟩ := stringCompletes w s
    obtain ⟨-, -, -, -, h⟩ := h hrep
    refine ⟨_, _, h hready hdst, ?_, EFlags.within_refl _ _⟩
    exact ((State.Frame.refl hwf).storedAt (List.Subset.refl _) _).stepped (by simp) _

end Strings

/-! ## Bits -/

/-- A scan writes its destination and status flags, whether it finds a bit or not. -/
theorem framed_scanBits {i : Instr} {dst : Reg} {src : RM} (index : (sz : Sz) → BitVec sz.bits → Nat)
    (hp : ∀ s : State, footprint i s = ofRead s s.cpu.osz src [dst] .all)
    (hexec : ∀ s, exec i s = run i (scanBits index dst src) s) : Framed i :=
  framed_ofRead Cpu.osz (fun _ => [dst]) hp fun s hwf hcan hready => by
    have hreg : writtenReg s.cpu.osz dst ∈ [dst] := List.mem_singleton.mpr (writtenReg_osz _ dst)
    have hread := (State.Frame.refl (as := []) (rs := [dst]) hwf).rmRead s.cpu.osz src
    by_cases hzero : s.rmValue s.cpu.osz src = 0
    · exact ⟨_, _, (hexec s).trans (run_next hready (scanBits_zero hcan hzero)), ((hread.drawn.drawn).withReg hreg _).withFlags _,
        EFlags.within_all ⟨rfl, rfl, rfl, rfl, rfl, rfl⟩⟩
    · exact ⟨_, _, (hexec s).trans (run_next hready (scanBits_of_ne_zero hcan hzero)), (hread.drawn.withReg hreg _).withFlags _,
        EFlags.within_all ⟨rfl, rfl, rfl, rfl, rfl, rfl⟩⟩

theorem framed_bsf (dst : Reg) (src : RM) : Framed (.bsf dst src) :=
  framed_scanBits (fun sz v => lowestBit v 0 sz.bits) (fun _ => rfl) fun _ => rfl

theorem framed_bsr (dst : Reg) (src : RM) : Framed (.bsr dst src) :=
  framed_scanBits (fun sz v => highestBit v sz.bits) (fun _ => rfl) fun _ => rfl

theorem EFlags.controlKept_bitTest (s : State) (b : Bool) : s.cpu.flags.ControlKept (bitTestFlags s b) :=
  ⟨rfl, rfl, rfl, rfl, rfl, rfl⟩

theorem framed_btImm (rm : RM) (off : Byte) : Framed (.btImm rm off) :=
  framed_ofRead Cpu.osz (fun _ => []) (fun _ => rfl) fun s hwf hcan hready => by
    cases rm with
    | reg r =>
      obtain ⟨h, -⟩ := bitTestCompletes .btc r .eax (.direct32 0) off s
      exact ⟨_, _, h hready, (State.Frame.refl hwf).drawn.withFlags _, EFlags.within_all (EFlags.controlKept_bitTest s _)⟩
    | mem m =>
      obtain ⟨-, -, -, -, h, -⟩ := bitTestCompletes .btc .eax .eax m off s
      exact ⟨_, _, h hready hcan, ((State.Frame.refl hwf).noted _ _).drawn.withFlags _,
        EFlags.within_all (EFlags.controlKept_bitTest s _)⟩

theorem footprint_bitImm (op : BitOp) (rm : RM) (off : Byte) (s : State) :
    footprint (bitImmInstr op rm off) s = ofWrite s s.cpu.osz rm .all := by cases op <;> rfl

theorem framed_bitImm (op : BitOp) (rm : RM) (off : Byte) : Framed (bitImmInstr op rm off) :=
  framed_ofWrite Cpu.osz (footprint_bitImm op rm off) fun s hwf hcan hready => by
    cases rm with
    | reg r =>
      obtain ⟨-, -, h, -⟩ := bitTestCompletes op r .eax (.direct32 0) off s
      exact ⟨_, _, h hready, ((State.Frame.refl hwf).withReg (List.mem_singleton.mpr rfl) _).drawn.withFlags _,
        EFlags.within_all (EFlags.controlKept_bitTest s _)⟩
    | mem m =>
      obtain ⟨-, -, -, -, -, -, h, -⟩ := bitTestCompletes op .eax .eax m off s
      exact ⟨_, _, h hready hcan, (((State.Frame.refl hwf).noted _ _).storedAt (List.Subset.refl _) _).drawn.withFlags _,
        EFlags.within_all (EFlags.controlKept_bitTest s _)⟩

/-! ## All instructions -/

/-- Every instruction keeps to its footprint; those that transfer control or write segment, control or system registers have none. -/
theorem framed (i : Instr) : Framed i := by
  cases i with
  | movRmReg => exact framed_movRmReg _ _ _
  | movRegRm => exact framed_movRegRm _ _ _
  | movRmImm => exact framed_movRmImm _ _ _
  | movRegImm => exact framed_movRegImm _ _ _
  | movAccMoffs => exact framed_movAccMoffs _ _
  | movMoffsAcc => exact framed_movMoffsAcc _ _
  | movsx => exact framed_movsx _ _ _
  | movzx => exact framed_movzx _ _ _
  | pushRm => exact framed_pushRm _
  | pushReg => exact framed_pushReg _
  | pushSreg => exact framed_pushSreg _
  | pushFs => exact framed_pushFs
  | pushGs => exact framed_pushGs
  | pushImm => exact framed_pushImm _ _
  | popRm => exact framed_popRm _
  | popReg => exact framed_popReg _
  | xchgRmReg => exact framed_xchgRmReg _ _ _
  | xchgRegAcc => exact framed_xchgRegAcc _
  | lea => exact framed_lea _ _
  | clc => exact framed_clc
  | cmc => exact framed_cmc
  | lahf => exact framed_lahf
  | pushf => exact framed_pushf
  | sahf => exact framed_sahf
  | stc => exact framed_stc
  | addRmReg => exact framed_aluRmReg .add _ _ _ _
  | addRmImm => exact framed_aluRmImm .add _ _ _ _
  | addAccImm => exact framed_aluAccImm .add _ _
  | adcRmReg => exact framed_aluRmReg .adc _ _ _ _
  | adcRmImm => exact framed_aluRmImm .adc _ _ _ _
  | adcAccImm => exact framed_aluAccImm .adc _ _
  | subRmReg => exact framed_aluRmReg .sub _ _ _ _
  | subRmImm => exact framed_aluRmImm .sub _ _ _ _
  | subAccImm => exact framed_aluAccImm .sub _ _
  | sbbRmReg => exact framed_aluRmReg .sbb _ _ _ _
  | sbbRmImm => exact framed_aluRmImm .sbb _ _ _ _
  | sbbAccImm => exact framed_aluAccImm .sbb _ _
  | cmpRmReg => exact framed_cmpRmReg _ _ _ _
  | cmpRmImm => exact framed_cmpRmImm _ _ _ _
  | cmpAccImm => exact framed_cmpAccImm _ _
  | incRm => exact framed_incRm _ _
  | incReg => exact framed_incReg _
  | decRm => exact framed_decRm _ _
  | decReg => exact framed_decReg _
  | negRm => exact framed_negRm _ _
  | aaa => exact framed_aaa
  | aas => exact framed_aas
  | daa => exact framed_daa
  | das => exact framed_das
  | mulAcc => exact framed_mulAcc _ _
  | imulAcc => exact framed_imulAcc _ _
  | imulRegRm => exact framed_imulRegRm _ _
  | imulRegRmImm => exact framed_imulRegRmImm _ _ _ _
  | aad => exact framed_aad
  | aam => exact framed_aam
  | cbw => exact framed_cbw
  | cwd => exact framed_cwd
  | rolOne => exact framed_shift .rol .one _ _
  | rolCl => exact framed_shift .rol .cl _ _
  | rolImm => exact framed_shift .rol (.imm _) _ _
  | rorOne => exact framed_shift .ror .one _ _
  | rorCl => exact framed_shift .ror .cl _ _
  | rorImm => exact framed_shift .ror (.imm _) _ _
  | rclOne => exact framed_shift .rcl .one _ _
  | rclCl => exact framed_shift .rcl .cl _ _
  | rclImm => exact framed_shift .rcl (.imm _) _ _
  | rcrOne => exact framed_shift .rcr .one _ _
  | rcrCl => exact framed_shift .rcr .cl _ _
  | rcrImm => exact framed_shift .rcr (.imm _) _ _
  | shlOne => exact framed_shift .shl .one _ _
  | shlCl => exact framed_shift .shl .cl _ _
  | shlImm => exact framed_shift .shl (.imm _) _ _
  | shrOne => exact framed_shift .shr .one _ _
  | shrCl => exact framed_shift .shr .cl _ _
  | shrImm => exact framed_shift .shr (.imm _) _ _
  | sarOne => exact framed_shift .sar .one _ _
  | sarCl => exact framed_shift .sar .cl _ _
  | sarImm => exact framed_shift .sar (.imm _) _ _
  | shldImm => exact framed_doubleShift true (some _) _ _
  | shldCl => exact framed_doubleShift true none _ _
  | shrdImm => exact framed_doubleShift false (some _) _ _
  | shrdCl => exact framed_doubleShift false none _ _
  | andRmReg => exact framed_logicRmReg .and _ _ _ _
  | andRmImm => exact framed_logicRmImm .and _ _ _
  | andRmImm8 => exact framed_logicRmImm8 .and _ _
  | andAccImm => exact framed_logicAccImm .and _ _
  | orRmReg => exact framed_logicRmReg .or _ _ _ _
  | orRmImm => exact framed_logicRmImm .or _ _ _
  | orRmImm8 => exact framed_logicRmImm8 .or _ _
  | orAccImm => exact framed_logicAccImm .or _ _
  | xorRmReg => exact framed_logicRmReg .xor _ _ _ _
  | xorRmImm => exact framed_logicRmImm .xor _ _ _
  | xorRmImm8 => exact framed_logicRmImm8 .xor _ _
  | xorAccImm => exact framed_logicAccImm .xor _ _
  | testRmReg => exact framed_testRmReg _ _ _
  | testRmImm => exact framed_testRmImm _ _ _
  | testAccImm => exact framed_testAccImm _ _
  | notRm => exact framed_notRm _ _
  | cmps => exact framed_cmps _
  | lods => exact framed_lods _
  | movs => exact framed_movs _
  | scas => exact framed_scas _
  | stos => exact framed_stos _
  | bsf => exact framed_bsf _ _
  | bsr => exact framed_bsr _ _
  | btImm => exact framed_btImm _ _
  | btcImm => exact framed_bitImm .btc _ _
  | btrImm => exact framed_bitImm .btr _ _
  | btsImm => exact framed_bitImm .bts _ _
  | setcc => exact framed_setcc _ _
  | nop => exact framed_nop
  | movSregRm | movRmSreg | pusha | popEs | popSs | popDs | popFs | popGs | popa | inImm | inDx | outImm | outDx | lds | les
  | lfs | lgs | lss | cld | cli | clts | popf | sti | std | divAcc | idivAcc | ins | outs | xlat | repPrefix | repnePrefix
  | btReg | btcReg | btrReg | btsReg | callRel | callRm | jmpShort | jmpRel | jmpRm | retNear | retNearImm | jccShort | jccNear
  | jcxz | loop | loopz | loopnz | callFar | callFarMem | jmpFar | jmpFarMem | retFar | retFarImm | enter | leave | int | int3
  | into | bound | iret | hlt | movCrReg | movRegCr | movDrReg | movRegDr | movTrReg | movRegTr | wait | esc
  | addressSizePrefix | lockPrefix | operandSizePrefix | csPrefix | dsPrefix | esPrefix | fsPrefix | gsPrefix | ssPrefix | arpl
  | lar | lgdt | lidt | lldt | lmsw | lsl | ltr | sgdt | sidt | sldt | smsw | str | verr | verw => exact framed_of_none fun _ => rfl

/-- Settles O48: what an instruction completes with lies within its footprint, and the boundary adds EIP, RF and bookkeeping alone. -/
theorem frames : Obligations.Frames := by
  unfold Obligations.Frames
  exact framed

end Sys2Proof.Machine
